-- ==== Sys2Proof/Word.lean ====
section
/-!
DEFINITION. The word types of the machine and their plainest arithmetic (R4, R5).
-/

namespace Sys2Proof

/-- A 64-bit register word (R14). -/
abbrev Word := BitVec 64
/-- One byte of memory (R5). -/
abbrev Byte := BitVec 8
/-- One 16-bit parcel of the instruction stream (R36). -/
abbrev Parcel := BitVec 16
/-- A domain tag (R278). -/
abbrev Tag := BitVec 16

/-- A device-wide core number, 2,048·die + 64·c + n (R9). -/
abbrev CoreId := Fin 8192
/-- A thread context of a core, 0–7 (R14). -/
abbrev CtxId := Fin 8
/-- A register bank that can issue: contexts 0–7, and 8 for the core's M-mode bank (R213). -/
abbrev BankId := Fin 9
/-- A device-wide troupe number, 256·die + 8·c + y (R9). -/
abbrev TroupeId := Fin 1024
/-- A device-wide cluster number, 32·die + c (R9). -/
abbrev ClusterId := Fin 128
/-- A compute die (R9). -/
abbrev DieId := Fin 4
/-- A command queue or host completion queue (R319, R328). -/
abbrev QueueId := Fin 32
/-- A partition (R278). -/
abbrev PartId := Fin 32
/-- A host function: 0 physical, p + 1 the virtual function of partition p (R278). -/
abbrev FuncId := Fin 33

end Sys2Proof
end

