-- ==== Sys2Proof/Syntax.lean ====
section
/-!
DEFINITION. The instructions and events of the machine: one constructor per row of the opcode table
(R36–R61 for the instruction words; every other row is one indivisible step of the hardware or one outside input).
-/

namespace Sys2Proof

/-- A neighbour port (R10, R41). -/
inductive Port where
  | north | east | south | west
  deriving DecidableEq, Repr

/-- A register code in a g-file position: a g register or a neighbour port (R41). -/
inductive GReg where
  | g (n : Fin 32)
  | port (p : Port)
  deriving DecidableEq, Repr

abbrev FReg := Fin 32
abbrev VReg := Fin 32
abbrev PReg := Fin 8
abbrev MReg := Fin 8

/-- A scalar operand whose file the minor code chooses: a g-file position or an f register (R57, R127). -/
inductive Scalar where
  | gx (r : GReg)
  | fx (r : FReg)
  deriving DecidableEq, Repr

/-- The B operand of an element-wise vector instruction: a vector, or a broadcast scalar (R58, R127). -/
inductive VSrc where
  | vec (r : VReg)
  | bcast (r : Scalar)
  deriving DecidableEq, Repr

/-- The next-address selector (R43). -/
inductive Nx where
  | seq | fin | go | goc | loop | call | ret
  deriving DecidableEq, Repr

/-- The scopes of R242, coded as in PFX.O (R49). -/
inductive Scope where
  | core | cluster | device | system
  deriving DecidableEq, Repr

/-- The ordering code of PFX.O (R49, R89). -/
inductive MemOrd where
  | none | acquire | release | acqrel
  deriving DecidableEq, Repr

/-- One prefix parcel (R49). -/
inductive Pfx where
  | imm (payload : BitVec 9)
  | src (code : BitVec 6)
  | page (n : BitVec 8)
  | disp (payload : BitVec 9)
  | cond (neg : Bool) (pred : PReg) (onNx : Bool) (zeroing : Bool) (mask : MReg)
  | ord (o : MemOrd) (sc : Scope)
  | safe (idx : BitVec 8)
  deriving DecidableEq, Repr

/-- What every base word carries beside its own fields: switch marker, selector and prefix chain (R36, R38). -/
structure Pre where
  s : Bool
  nx : Nx
  chain : List Pfx
  deriving DecidableEq, Repr

/-- The conditions of CMP and CMPI (R74), of COND and WAIT packets (R324). -/
inductive Cond where
  | eq | ne | lt | ge | ltu | geu | bits | bitc
  deriving DecidableEq, Repr

/-- The conditions of FCMP (R119). -/
inductive FCond where
  | eq | lt | le | un | ne
  deriving DecidableEq, Repr

/-- The conditions of VCMP (R58). -/
inductive VCond where
  | eq | ne | lt | ge | ltu | geu | le | un
  deriving DecidableEq, Repr

/-- Access sizes of LDA and STL (R92). -/
inductive Size where
  | b | h | w | d
  deriving DecidableEq, Repr

/-- AMO minor codes (R94). -/
inductive AmoOp where
  | add | swp | and | or | xor | min | max | minu | maxu | addw
  deriving DecidableEq, Repr

/-- FENCE kinds (R97). -/
inductive FenceKind where
  | acq | rel | full
  deriving DecidableEq, Repr

/-- FCVT minor codes, in code order (R57, R120). -/
inductive Cvt where
  | f32f64 | f64f32 | f16f32 | f32f16 | bf16f32 | f32bf16 | i64f64 | i64f32 | u64f64 | u64f32
  | f64i64 | f32i64 | f64u64 | f32u64 | wf19f32 | f32wf19
  deriving DecidableEq, Repr

/-- Element types of page 2 (R58). -/
inductive ElemTy where
  | i8 | i16 | i32 | i64 | bf16 | fp16 | f32 | f64
  deriving DecidableEq, Repr

/-- Decode tables, coded as ENC's F[2:0] (R124). -/
inductive TableSel where
  | e4m3 | e5m2 | int8 | e2m1 | ta | tb
  deriving DecidableEq, Repr

/-- VRED operations (R58, R136). -/
inductive RedOp where
  | sum | max | min | and | or
  deriving DecidableEq, Repr

/-- VSFU functions (R58, R147). -/
inductive SfuFn where
  | exp2 | log2 | rcp | rsq | sin | cos | tanh | erf
  deriving DecidableEq, Repr

/-- VMSK operations (R58, R150). -/
inductive MaskOp where
  | and | or | xor | andn | not | mov
  deriving DecidableEq, Repr

/-- Buffer-handle states (R194). -/
inductive HandleState where
  | free | filling | full | draining
  deriving DecidableEq, Repr

/-- A register named from outside the cores: an offset of a function's BAR0, or a physical address of
device register space (R222, R319, R328, R348). -/
inductive RegAddr where
  | bar (fn : FuncId) (off : Nat)
  /-- Device register space, reached by a function's driver; none for the firmware of the security controller. -/
  | dev (fn : Option FuncId) (pa : Nat)
  /-- The vector control word of an MSI-X table entry (R329). -/
  | msix (fn : FuncId) (v : Fin 64)
  deriving DecidableEq, Repr

/-- Who writes a cluster's translation block (R237). -/
inductive BlockWriter where
  | monitor
  | host (fn : FuncId)
  | thread (t : Tag)
  deriving DecidableEq, Repr

/-- The header of a flit: its KIND, its virtual channel and the credits it returns (R332). -/
structure FlitHead where
  kind : Byte
  vc : Fin 2
  cred : BitVec 16
  deriving DecidableEq, Repr

/-- An answer of the host link to one copied row or block (R192, R326). -/
inductive LinkAnswer where
  | ok | abort
  deriving DecidableEq, Repr

/-- What a memory read finds in a word beside its bits (R300). -/
inductive EccOutcome where
  | clean | corrected (bit : Nat) | uncorrectable
  deriving DecidableEq, Repr

/-- One constructor per row of spec/opcode_table.json: the instruction words in the table's order, what the decoder
and the fetch answer where there is none, then the events in the table's order. -/
inductive Instr where
  -- Page 0, integer (R67–R77)
  | add (w : Pre) (d a b : GReg)
  | sub (w : Pre) (d a b : GReg)
  | and (w : Pre) (d a b : GReg)
  | or (w : Pre) (d a b : GReg)
  | xor (w : Pre) (d a b : GReg)
  | andn (w : Pre) (d a b : GReg)
  | shl (w : Pre) (d a b : GReg)
  | shr (w : Pre) (d a b : GReg)
  | sar (w : Pre) (d a b : GReg)
  | rol (w : Pre) (d a b : GReg)
  | min (w : Pre) (d a b : GReg)
  | max (w : Pre) (d a b : GReg)
  | minu (w : Pre) (d a b : GReg)
  | maxu (w : Pre) (d a b : GReg)
  | addw (w : Pre) (d a b : GReg)
  | subw (w : Pre) (d a b : GReg)
  | addi (w : Pre) (d a : GReg) (imm : BitVec 10)
  | andi (w : Pre) (d a : GReg) (imm : BitVec 10)
  | ori (w : Pre) (d a : GReg) (imm : BitVec 10)
  | xori (w : Pre) (d a : GReg) (imm : BitVec 10)
  | shli (w : Pre) (d a : GReg) (amt : BitVec 6)
  | shri (w : Pre) (d a : GReg) (amt : BitVec 6)
  | sari (w : Pre) (d a : GReg) (amt : BitVec 6)
  | mul (w : Pre) (d a b : GReg)
  | mulh (w : Pre) (d a b : GReg)
  | mulhu (w : Pre) (d a b : GReg)
  | mulw (w : Pre) (d a b : GReg)
  | div (w : Pre) (d a b : GReg)
  | divu (w : Pre) (d a b : GReg)
  | rem (w : Pre) (d a b : GReg)
  | remu (w : Pre) (d a b : GReg)
  | clz (w : Pre) (d a : GReg)
  | ctz (w : Pre) (d a : GReg)
  | popc (w : Pre) (d a : GReg)
  | brev (w : Pre) (d a : GReg)
  | bswap (w : Pre) (d a : GReg)
  | sextb (w : Pre) (d a : GReg)
  | sexth (w : Pre) (d a : GReg)
  | sextw (w : Pre) (d a : GReg)
  | zextb (w : Pre) (d a : GReg)
  | zexth (w : Pre) (d a : GReg)
  | zextw (w : Pre) (d a : GReg)
  | movi (w : Pre) (d : GReg) (imm : BitVec 16)
  | lea (w : Pre) (d a b : GReg) (sh : BitVec 2)
  | cmp (w : Pre) (c : Cond) (p : PReg) (a b : GReg)
  | cmpi (w : Pre) (c : Cond) (p : PReg) (a : GReg) (imm : BitVec 10)
  | sel (w : Pre) (d : GReg) (p : PReg) (a b : GReg)
  | pand (w : Pre) (d a b : PReg)
  | por (w : Pre) (d a b : PReg)
  | pxor (w : Pre) (d a b : PReg)
  | pandn (w : Pre) (d a b : PReg)
  | pnot (w : Pre) (d a : PReg)
  | pmov (w : Pre) (d a : PReg)
  -- Page 0, memory (R84–R98)
  | ldb (w : Pre) (d a : GReg) (imm : BitVec 10)
  | ldbu (w : Pre) (d a : GReg) (imm : BitVec 10)
  | ldh (w : Pre) (d a : GReg) (imm : BitVec 10)
  | ldhu (w : Pre) (d a : GReg) (imm : BitVec 10)
  | ldw (w : Pre) (d a : GReg) (imm : BitVec 10)
  | ldwu (w : Pre) (d a : GReg) (imm : BitVec 10)
  | ldd (w : Pre) (d a : GReg) (imm : BitVec 10)
  | stb (w : Pre) (d a : GReg) (imm : BitVec 10)
  | sth (w : Pre) (d a : GReg) (imm : BitVec 10)
  | stw (w : Pre) (d a : GReg) (imm : BitVec 10)
  | std (w : Pre) (d a : GReg) (imm : BitVec 10)
  | lda (w : Pre) (z : Size) (c : Scope) (d a : GReg)
  | stl (w : Pre) (z : Size) (c : Scope) (d a : GReg)
  | amo (w : Pre) (o : AmoOp) (d a b : GReg)
  | cas (w : Pre) (dbl : Bool) (d a b : GReg)
  | fence (w : Pre) (k : FenceKind) (c : Scope)
  -- Page 0, messages and tasks (R177–R189)
  | send (w : Pre) (a : GReg) (b : Fin 32) (n : Fin 16)
  | hdef (w : Pre) (a b : GReg)
  | hen (w : Pre) (a : GReg)
  | hdis (w : Pre) (a : GReg)
  | hsetp (w : Pre) (a : GReg)
  | hclrp (w : Pre) (a : GReg)
  | spawn (w : Pre) (a : Fin 32)
  | tdec (w : Pre) (a : GReg)
  | wfm (w : Pre) (d a : GReg)
  | bar (w : Pre) (a : GReg)
  | bara (w : Pre) (a : GReg)
  | barw (w : Pre) (a : GReg)
  -- Page 0, sequencing, gangs, register moves, CSRs, monitor calls (R77–R83, R151, R215)
  | jmpr (w : Pre) (a : GReg)
  | jmprCall (w : Pre) (a : GReg)
  | tgt (w : Pre) (imm : BitVec 16)
  | lps (w : Pre) (a : GReg)
  | lpsi (w : Pre) (imm : BitVec 10)
  | disb (w : Pre)
  | gang2 (w : Pre)
  | gang4 (w : Pre)
  | gang8 (w : Pre)
  | rejn (w : Pre)
  | movrGf (w : Pre) (d : FReg) (a : GReg)
  | movrFg (w : Pre) (d : GReg) (a : FReg)
  | movrGp (w : Pre) (a : GReg)
  | movrPg (w : Pre) (d : GReg)
  | srd (w : Pre) (d : GReg) (csr : BitVec 10)
  | swr (w : Pre) (d : GReg) (csr : BitVec 10)
  | ssb (w : Pre) (d : GReg) (csr : BitVec 10)
  | scb (w : Pre) (d : GReg) (csr : BitVec 10)
  | cmit (w : Pre)
  | mver (w : Pre)
  | gpub (w : Pre)
  | grev (w : Pre)
  | spgd (w : Pre)
  | mcall (w : Pre) (n : BitVec 10)
  | brk (w : Pre) (code : BitVec 16)
  -- Page 1, scalar floating point (R116–R126)
  | fadd (w : Pre) (dbl : Bool) (d a b : FReg)
  | fsub (w : Pre) (dbl : Bool) (d a b : FReg)
  | fmul (w : Pre) (dbl : Bool) (d a b : FReg)
  | fdiv (w : Pre) (dbl : Bool) (d a b : FReg)
  | fmin (w : Pre) (dbl : Bool) (d a b : FReg)
  | fmax (w : Pre) (dbl : Bool) (d a b : FReg)
  | fsqrt (w : Pre) (dbl : Bool) (d a : FReg)
  | fma (w : Pre) (dbl : Bool) (d a b : FReg)
  | fms (w : Pre) (dbl : Bool) (d a b : FReg)
  | fnma (w : Pre) (dbl : Bool) (d a b : FReg)
  | fnms (w : Pre) (dbl : Bool) (d a b : FReg)
  | fcmp (w : Pre) (dbl : Bool) (c : FCond) (p : PReg) (a b : FReg)
  | fcvt (w : Pre) (k : Cvt) (d a : Scalar)
  | fcls (w : Pre) (dbl : Bool) (d : GReg) (a : FReg)
  | fmv (w : Pre) (dbl : Bool) (d a : FReg)
  | fneg (w : Pre) (dbl : Bool) (d a : FReg)
  | fabs (w : Pre) (dbl : Bool) (d a : FReg)
  | fcpys (w : Pre) (dbl : Bool) (d a b : FReg)
  | tbld (w : Pre) (slotB : Bool) (twos : Bool) (a : GReg)
  | enc (w : Pre) (t : TableSel) (inf : Bool) (d : GReg) (a : FReg)
  | dec (w : Pre) (t : TableSel) (d : FReg) (a : GReg)
  | scal (w : Pre) (d : GReg) (a : FReg)
  -- Page 2, vector (R127–R150)
  | vadd (w : Pre) (t : ElemTy) (d a : VReg) (b : VSrc)
  | vsub (w : Pre) (t : ElemTy) (d a : VReg) (b : VSrc)
  | vmul (w : Pre) (t : ElemTy) (d a : VReg) (b : VSrc)
  | vfma (w : Pre) (t : ElemTy) (d a : VReg) (b : VSrc)
  | vmin (w : Pre) (t : ElemTy) (d a : VReg) (b : VSrc)
  | vmax (w : Pre) (t : ElemTy) (d a : VReg) (b : VSrc)
  | vand (w : Pre) (t : ElemTy) (d a : VReg) (b : VSrc)
  | vor (w : Pre) (t : ElemTy) (d a : VReg) (b : VSrc)
  | vxor (w : Pre) (t : ElemTy) (d a : VReg) (b : VSrc)
  | vshl (w : Pre) (t : ElemTy) (d a : VReg) (b : VSrc)
  | vshr (w : Pre) (t : ElemTy) (d a : VReg) (b : VSrc)
  | vsar (w : Pre) (t : ElemTy) (d a : VReg) (b : VSrc)
  | vcmp (w : Pre) (t : ElemTy) (c : VCond) (m : MReg) (a : VReg) (b : VSrc)
  | vsel (w : Pre) (t : ElemTy) (d a : VReg) (b : VSrc)
  | vcvt (w : Pre) (dst src : ElemTy) (d a : VReg)
  | vabs (w : Pre) (t : ElemTy) (d a : VReg)
  | vneg (w : Pre) (t : ElemTy) (d a : VReg)
  | vred (w : Pre) (t : ElemTy) (o : RedOp) (d : Scalar) (a : VReg)
  | vbc (w : Pre) (t : ElemTy) (d : VReg) (a : Scalar)
  | vperm (w : Pre) (t : ElemTy) (d a b : VReg)
  | vsld (w : Pre) (t : ElemTy) (d a : VReg) (b : GReg)
  | vins (w : Pre) (t : ElemTy) (d : VReg) (a : Scalar) (b : GReg)
  | vext (w : Pre) (t : ElemTy) (d : Scalar) (a : VReg) (b : GReg)
  | vld (w : Pre) (t : ElemTy) (d : VReg) (a : GReg)
  | vst (w : Pre) (t : ElemTy) (d : VReg) (a : GReg)
  | vlds (w : Pre) (t : ElemTy) (d : VReg) (a b : GReg)
  | vsts (w : Pre) (t : ElemTy) (d : VReg) (a b : GReg)
  | vgth (w : Pre) (t : ElemTy) (d : VReg) (a : GReg) (b : VReg)
  | vsct (w : Pre) (t : ElemTy) (d : VReg) (a : GReg) (b : VReg)
  | vdotqq (w : Pre) (t : TableSel) (d : FReg) (a b : VReg)
  | vdothh (w : Pre) (d : FReg) (a b : VReg)
  | vdotnn (w : Pre) (t : TableSel) (d : FReg) (a b : VReg)
  | vtopk (w : Pre) (t : ElemTy) (d a : VReg) (b : GReg)
  | venc (w : Pre) (t : TableSel) (inf : Bool) (d a : VReg)
  | vdec (w : Pre) (t : TableSel) (d a : VReg)
  | vsfu (w : Pre) (fn : SfuFn) (d a : VReg)
  | strmOn (w : Pre) (d : Fin 4) (a : GReg)
  | strmOff (w : Pre) (d : Fin 4)
  | vmsk (w : Pre) (o : MaskOp) (d a b : MReg)
  -- Page 3, matrix, copy, handles (R154–R173, R190–R196)
  | mmaqq (w : Pre) (d a : GReg)
  | mmahh (w : Pre) (d a : GReg)
  | mmann (w : Pre) (d a : GReg)
  | mzero (w : Pre) (a : GReg)
  | mwait (w : Pre) (d a : GReg)
  | mpoll (w : Pre) (d a : GReg)
  | mtbl (w : Pre) (pair : Fin 4) (a : GReg)
  | mlsf (w : Pre) (d : VReg) (a b : GReg)
  | mst (w : Pre) (d a b : GReg)
  | copy (w : Pre) (d a : GReg)
  | cwait (w : Pre) (d a : GReg)
  | cpoll (w : Pre) (d a : GReg)
  | bwait (w : Pre) (st : HandleState) (a : GReg)
  | bset (w : Pre) (st : HandleState) (a : GReg)
  | bstat (w : Pre) (d a : GReg)
  -- Page 4, domains, gates, cues, system (R197–R221)
  | gcall (w : Pre) (d a b : Fin 32)
  | gret (w : Pre)
  | dsr (w : Pre) (d a : GReg) (f : BitVec 4)
  | cue (w : Pre) (d : GReg) (a : Fin 32)
  | emit (w : Pre) (a b : GReg)
  | rng (w : Pre) (d a b : GReg)
  | hpost (w : Pre) (a : GReg) (b : Fin 32)
  | mret (w : Pre)
  | invpg (w : Pre) (a b : GReg)
  | keyld (w : Pre) (a b : GReg)
  | keyz (w : Pre) (a : GReg)
  | ctxsv (w : Pre) (a b : GReg)
  | ctxld (w : Pre) (a b : GReg)
  | halt (w : Pre)
  | hrel (w : Pre) (a : GReg)
  -- Stage-manager harts (R331)
  | waitpQ (rd : Fin 32)
  | waitpGeu (rd rs1 rs2 : Fin 32)
  | waitpNe (rd rs1 rs2 : Fin 32)
  -- What the decoder and the fetch answer where there is no instruction (R37, R53, R61)
  | illegalInstruction (cause : BitVec 8) (tval : Word)
  | fetchFault (cause : BitVec 8) (addr : Word)
  -- Messages, activations, results (R20–R28, R46, R86, R176, R181, R241, R285)
  | messageArrival (i : Nat)
  | refusalArrival (i : Nat)
  | refusalRetry (core : CoreId)
  | activationStart (core : CoreId)
  | theftAttempt (core : CoreId)
  | activationEnd (core : CoreId) (ctx : CtxId)
  | longResultReturn (core : CoreId) (ctx : BankId)
  | storeBufferDrain (core : CoreId) (ctx : BankId) (i : Nat)
  | verificationResolve (core : CoreId) (ctx : CtxId)
  | outboxSend (core : CoreId) (ctx : CtxId)
  | streamHalt (core : CoreId) (slot : Fin 64)
  | tdecHome (i : Nat)
  -- Floating-point events, monitor entries, stops (R111–R114, R213, R263–R274)
  | fpEvent (core : CoreId) (ctx : CtxId)
  | fpNoticeRetry (core : CoreId) (ctx : CtxId)
  | fpResume (core : CoreId)
  | fpKill (core : CoreId)
  | mmodeEntry (core : CoreId)
  | preemptionNotice (core : CoreId) (mask : BitVec 8)
  | pmreqStop (core : CoreId) (mask : BitVec 8)
  | safePointStop (core : CoreId) (ctx : CtxId)
  | forcedStop (core : CoreId)
  | pmreqFree (core : CoreId) (mask : BitVec 8)
  | budgetExhausted (core : CoreId)
  | budgetWindowStart (region : BitVec 32)
  | chargeFold (region : BitVec 32)
  | ceilingExpiry (core : CoreId) (ctx : CtxId)
  | rollback (core : CoreId) (ctx : CtxId) (persist : Bool)
  | patrolScrub (pa : Nat) (o : EccOutcome)
  -- Engines (R160–R174, R192–R194, R238)
  | matrixJobStart (troupe : TroupeId)
  | rowGroupCommit (troupe : TroupeId) (mismatches : Nat)
  | mzeroEntryRun (troupe : TroupeId)
  | mtblEntryRun (troupe : TroupeId)
  | mstEntryRun (troupe : TroupeId)
  | completionRetry (troupe : TroupeId)
  | enginePageFault (troupe : TroupeId) (copySide : Bool)
  | faultRewalk (troupe : TroupeId) (copySide : Bool)
  | faultTimeout (troupe : TroupeId) (copySide : Bool)
  | faultNoticeRetry (troupe : TroupeId) (copySide : Bool)
  | copyJobStart (troupe : TroupeId)
  | copyJobRetire (troupe : TroupeId) (link : LinkAnswer)
  | streamStripFetch (core : CoreId) (ctx : CtxId) (reg : Fin 4)
  -- Translation (R232–R237)
  | pageWalk (core : CoreId) (tag : Tag) (va : Nat)
  | shootdownGo (cluster : ClusterId) (writer : BlockWriter) (w : Word)
  | shootdownComplete (cluster : ClusterId)
  -- Cue sheet (R309–R311)
  | cueFlitSend (die : DieId) (slot : Nat)
  | cueAck (die : DieId) (slot : Nat) (endpoint : BitVec 48) (m : Nat)
  | cueFlitResend (die : DieId) (slot : Nat)
  -- Command queues and commands (R256–R262, R292–R296, R308–R327)
  | queueDoorbell (q : QueueId) (tail : BitVec 32)
  | queueRun (q : QueueId)
  | packetFetch (die : DieId) (q : QueueId)
  | launch (die : DieId) (q : QueueId)
  | launchRetry (die : DieId)
  | launchShareComplete (die : DieId) (i : Nat)
  | cond (die : DieId) (q : QueueId)
  | wait (die : DieId) (q : QueueId)
  | waitConditionMet (die : DieId) (q : QueueId)
  | signal (die : DieId) (q : QueueId)
  | queueFence (die : DieId) (q : QueueId)
  | queueFenceComplete (die : DieId) (q : QueueId)
  | copyHost (die : DieId) (q : QueueId) (links : List LinkAnswer)
  | regionCreate (die : DieId) (q : QueueId)
  | regionKill (die : DieId) (q : QueueId)
  | domainCreate (die : DieId) (q : QueueId) (tag : Tag)
  | measure (die : DieId) (q : QueueId)
  | lock (die : DieId) (q : QueueId)
  | start (die : DieId) (q : QueueId)
  | attest (die : DieId) (q : QueueId)
  | teardown (die : DieId) (q : QueueId)
  | scrubPhaseDone (part : PartId)
  | register (die : DieId) (q : QueueId)
  | reassign (die : DieId) (q : QueueId)
  | trunc (die : DieId) (q : QueueId)
  | checkpoint (die : DieId) (q : QueueId)
  | checkpointQueueTimeout
  | checkpointManifestAck (accepted : Bool)
  | summary (die : DieId) (q : QueueId)
  | peerCopy (die : DieId) (q : QueueId)
  | assign (die : DieId) (q : QueueId)
  | setReplay (die : DieId) (q : QueueId)
  | clearReplay (die : DieId) (q : QueueId)
  -- Host side (R318, R328, R329)
  | completionHeadWrite (q : QueueId) (head : BitVec 32)
  | vectorFire (fn : FuncId) (v : Fin 64)
  | hostMemAccess (fn : FuncId) (pa : Nat) (write : Option (List Byte)) (len : Nat)
  -- Gornath fabric (R332–R334, R344, R345)
  | flitReceive (link : Fin 16) (seq : BitVec 16) (ack : BitVec 16) (head : FlitHead) (crcOk : Bool)
  | linkDown (link : Fin 16)
  | peerWrite (link : Fin 16) (tag : Word) (off : Nat) (data : List Byte)
  | peerRead (link : Fin 16) (tag : Word) (off : Nat) (len : Nat)
  | readData (link : Fin 16) (tag : Word) (data : List Byte)
  | durableAck (link : Fin 16) (tag : Word)
  | linkStepGo (link : Fin 16)
  | linkStepDone (link : Fin 16) (pass : Bool) (peer : BitVec 48) (profiles : BitVec 3)
  | linkTrainRetry (link : Fin 16)
  | linkDisable (link : Fin 16) (on : Bool)
  -- Resets, boot, HBM, power (R335–R351)
  | coldStart
  | warmPackageReset
  | functionLevelReset (part : PartId)
  | railFault
  | bootRecoveryGo (signed : Bool)
  | hbmStepGo (stack : Fin 12) (step : BitVec 4)
  | hbmStepDone (stack : Fin 12) (pass : BitVec 32) (data : List Byte)
  | hbmRetrain (stack : Fin 12) (channel : Fin 32)
  | troupeAdmission (die : DieId)
  | troupeIdle (troupe : TroupeId)
  | throttleUpdate (avgw : BitVec 12)
  | clusterGateWrite (die : DieId) (w : BitVec 32)
  | clusterWake (cluster : ClusterId)
  -- Register writes (R6, R221, R281)
  | windowEnableWrite (core : CoreId) (k : Fin 16) (w : Word)
  | windowBoundWrite (core : CoreId) (k : Fin 16) (limit : Bool) (w : Word)
  | errorInjectArm (core : CoreId) (w : Word)
  | registerWrite (r : RegAddr) (w : Word)
  -- Rows that stand last in the table
  | vectorUnmask (fn : FuncId) (v : Fin 64)
  | clusterSupplySettled (cluster : ClusterId)
  | memoryClearComplete
  deriving DecidableEq, Repr

end Sys2Proof
end

