-- ==== Sys2Proof/WellFormed.lean ====
section
/-!
DEFINITION. Which terms of Instr stand for an encodable instruction: the prefix rules R50 and R51, the register
and field rules R40 and R41, and the entries' own field limits. The decoder uses the same checks (R53).
-/

namespace Sys2Proof

/-- A prefix that breaks R50's rules on repetition or contiguity, given the prefixes before it, latest first. -/
def Pfx.clash (before : List Pfx) : Pfx → Bool
  | .imm _ => before.any (fun q => match q with | .imm _ => true | _ => false) &&
      !(match before with | .imm _ :: _ => true | _ => false)
  | .disp _ => before.any (fun q => match q with | .disp _ => true | _ => false) &&
      !(match before with | .disp _ :: _ => true | _ => false)
  | .src _ => before.any (fun q => match q with | .src _ => true | _ => false)
  | .page _ => before.any (fun q => match q with | .page _ => true | _ => false)
  | .cond .. => before.any (fun q => match q with | .cond .. => true | _ => false)
  | .ord .. => before.any (fun q => match q with | .ord .. => true | _ => false)
  | .safe _ => before.any (fun q => match q with | .safe _ => true | _ => false)

/-- The index of the first prefix of a chain that breaks R50. -/
def chainFault (before : List Pfx) : List Pfx → Option Nat
  | [] => none
  | p :: ps =>
    if 4 ≤ before.length || p.clash before then some before.length else chainFault (p :: before) ps

/-- The page a chain names; 0 without PFX.P (R38). -/
def chainPage : List Pfx → Nat
  | [] => 0
  | .page n :: _ => n.toNat
  | _ :: ps => chainPage ps

/-- The third-source code of PFX.R (R49). -/
def chainSrc : List Pfx → Option (BitVec 6)
  | [] => none
  | .src c :: _ => some c
  | _ :: ps => chainSrc ps

/-- What every base word carries (R38); none for events and stage-manager instructions. -/
def Instr.pre? : Instr → Option Pre
  | .add w .. | .sub w .. | .and w .. | .or w .. | .xor w .. | .andn w .. | .shl w .. | .shr w .. | .sar w ..
  | .rol w .. | .min w .. | .max w .. | .minu w .. | .maxu w .. | .addw w .. | .subw w .. | .addi w ..
  | .andi w .. | .ori w .. | .xori w .. | .shli w .. | .shri w .. | .sari w .. | .mul w .. | .mulh w ..
  | .mulhu w .. | .mulw w .. | .div w .. | .divu w .. | .rem w .. | .remu w .. | .clz w .. | .ctz w ..
  | .popc w .. | .brev w .. | .bswap w .. | .sextb w .. | .sexth w .. | .sextw w .. | .zextb w ..
  | .zexth w .. | .zextw w .. | .movi w .. | .lea w .. | .cmp w .. | .cmpi w .. | .sel w .. | .pand w ..
  | .por w .. | .pxor w .. | .pandn w .. | .pnot w .. | .pmov w .. | .ldb w .. | .ldbu w .. | .ldh w ..
  | .ldhu w .. | .ldw w .. | .ldwu w .. | .ldd w .. | .stb w .. | .sth w .. | .stw w .. | .std w ..
  | .lda w .. | .stl w .. | .amo w .. | .cas w .. | .fence w .. | .send w .. | .hdef w .. | .hen w ..
  | .hdis w .. | .hsetp w .. | .hclrp w .. | .spawn w .. | .tdec w .. | .wfm w .. | .bar w .. | .bara w ..
  | .barw w .. | .jmpr w .. | .jmprCall w .. | .tgt w .. | .lps w .. | .lpsi w .. | .disb w .. | .gang2 w ..
  | .gang4 w .. | .gang8 w .. | .rejn w .. | .movrGf w .. | .movrFg w .. | .movrGp w .. | .movrPg w ..
  | .srd w .. | .swr w .. | .ssb w .. | .scb w .. | .cmit w .. | .mver w .. | .gpub w .. | .grev w ..
  | .spgd w .. | .brk w .. | .fadd w .. | .fsub w .. | .fmul w .. | .fdiv w .. | .fmin w .. | .fmax w ..
  | .fsqrt w .. | .fma w .. | .fms w .. | .fnma w .. | .fnms w .. | .fcmp w .. | .fcvt w .. | .fcls w ..
  | .fmv w .. | .fneg w .. | .fabs w .. | .fcpys w .. | .tbld w .. | .enc w .. | .dec w .. | .scal w ..
  | .vadd w .. | .vsub w .. | .vmul w .. | .vfma w .. | .vmin w .. | .vmax w .. | .vand w .. | .vor w ..
  | .vxor w .. | .vshl w .. | .vshr w .. | .vsar w .. | .vcmp w .. | .vsel w .. | .vcvt w .. | .vabs w ..
  | .vneg w .. | .vred w .. | .vbc w .. | .vperm w .. | .vsld w .. | .vins w .. | .vext w .. | .vld w ..
  | .vst w .. | .vlds w .. | .vsts w .. | .vgth w .. | .vsct w .. | .vdotqq w .. | .vdothh w ..
  | .vdotnn w .. | .vtopk w .. | .venc w .. | .vdec w .. | .vsfu w .. | .strmOn w .. | .strmOff w ..
  | .vmsk w .. | .mmaqq w .. | .mmahh w .. | .mmann w .. | .mzero w .. | .mwait w .. | .mpoll w ..
  | .mtbl w .. | .mlsf w .. | .mst w .. | .copy w .. | .cwait w .. | .cpoll w .. | .bwait w .. | .bset w ..
  | .bstat w .. | .gcall w .. | .gret w .. | .dsr w .. | .cue w .. | .emit w .. | .rng w .. | .hpost w ..
  | .mret w .. | .invpg w .. | .keyld w .. | .keyz w .. | .ctxsv w .. | .ctxld w .. | .halt w .. | .hrel w ..
  | .mcall w .. => some w
  | _ => none

/-- The page of a base word (R56 to R60). -/
def Instr.page? : Instr → Option Nat
  | .add .. | .sub .. | .and .. | .or .. | .xor .. | .andn .. | .shl .. | .shr .. | .sar .. | .rol ..
  | .min .. | .max .. | .minu .. | .maxu .. | .addw .. | .subw .. | .addi .. | .andi .. | .ori .. | .xori ..
  | .shli .. | .shri .. | .sari .. | .mul .. | .mulh .. | .mulhu .. | .mulw .. | .div .. | .divu .. | .rem ..
  | .remu .. | .clz .. | .ctz .. | .popc .. | .brev .. | .bswap .. | .sextb .. | .sexth .. | .sextw ..
  | .zextb .. | .zexth .. | .zextw .. | .movi .. | .lea .. | .cmp .. | .cmpi .. | .sel .. | .pand ..
  | .por .. | .pxor .. | .pandn .. | .pnot .. | .pmov .. | .ldb .. | .ldbu .. | .ldh .. | .ldhu .. | .ldw ..
  | .ldwu .. | .ldd .. | .stb .. | .sth .. | .stw .. | .std .. | .lda .. | .stl .. | .amo .. | .cas ..
  | .fence .. | .send .. | .hdef .. | .hen .. | .hdis .. | .hsetp .. | .hclrp .. | .spawn .. | .tdec ..
  | .wfm .. | .bar .. | .bara .. | .barw .. | .jmpr .. | .jmprCall .. | .tgt .. | .lps .. | .lpsi ..
  | .disb .. | .gang2 .. | .gang4 .. | .gang8 .. | .rejn .. | .movrGf .. | .movrFg .. | .movrGp ..
  | .movrPg .. | .srd .. | .swr .. | .ssb .. | .scb .. | .cmit .. | .mver .. | .gpub .. | .grev .. | .spgd ..
  | .brk .. | .mcall .. => some 0
  | .fadd .. | .fsub .. | .fmul .. | .fdiv .. | .fmin .. | .fmax .. | .fsqrt .. | .fma .. | .fms ..
  | .fnma .. | .fnms .. | .fcmp .. | .fcvt .. | .fcls .. | .fmv .. | .fneg .. | .fabs .. | .fcpys ..
  | .tbld .. | .enc .. | .dec .. | .scal .. => some 1
  | .vadd .. | .vsub .. | .vmul .. | .vfma .. | .vmin .. | .vmax .. | .vand .. | .vor .. | .vxor ..
  | .vshl .. | .vshr .. | .vsar .. | .vcmp .. | .vsel .. | .vcvt .. | .vabs .. | .vneg .. | .vred ..
  | .vbc .. | .vperm .. | .vsld .. | .vins .. | .vext .. | .vld .. | .vst .. | .vlds .. | .vsts .. | .vgth ..
  | .vsct .. | .vdotqq .. | .vdothh .. | .vdotnn .. | .vtopk .. | .venc .. | .vdec .. | .vsfu .. | .strmOn ..
  | .strmOff .. | .vmsk .. => some 2
  | .mmaqq .. | .mmahh .. | .mmann .. | .mzero .. | .mwait .. | .mpoll .. | .mtbl .. | .mlsf .. | .mst ..
  | .copy .. | .cwait .. | .cpoll .. | .bwait .. | .bset .. | .bstat .. => some 3
  | .gcall .. | .gret .. | .dsr .. | .cue .. | .emit .. | .rng .. | .hpost .. | .mret .. | .invpg ..
  | .keyld .. | .keyz .. | .ctxsv .. | .ctxld .. | .halt .. | .hrel .. => some 4
  | _ => none

def ElemTy.isInt : ElemTy → Bool
  | .i8 | .i16 | .i32 | .i64 => true
  | _ => false

/-- Element width in bytes (R58). -/
def ElemTy.bytes : ElemTy → Nat
  | .i8 => 1 | .i16 => 2 | .i32 => 4 | .i64 => 8 | .bf16 => 2 | .fp16 => 2 | .f32 => 4 | .f64 => 8

/-- A scalar operand of the file the element type chooses (R58). -/
def Scalar.fits (t : ElemTy) : Scalar → Bool
  | .gx _ => t.isInt
  | .fx _ => !t.isInt

def VSrc.fits (t : ElemTy) : VSrc → Bool
  | .vec _ => true
  | .bcast x => x.fits t

/-- The files of FCVT's operands (R57). -/
def Cvt.fits (k : Cvt) (d a : Scalar) : Bool :=
  let isG : Scalar → Bool := fun x => match x with | .gx _ => true | .fx _ => false
  match k with
  | .i64f64 | .i64f32 | .u64f64 | .u64f32 => isG d && !isG a
  | .f64i64 | .f32i64 | .f64u64 | .f32u64 => !isG d && isG a
  | _ => !isG d && !isG a

/-- A PFX.R register code legal in a g-file position, ports included (R41). -/
def srcG (w : Pre) : Bool :=
  match chainSrc w.chain with | none => true | some c => c.toNat < 36

/-- A PFX.R register code legal in an f or v position (R41). -/
def srcFV (w : Pre) : Bool :=
  match chainSrc w.chain with | none => true | some c => c.toNat < 32

/-- The conditions of VCMP that exist for a type (R133). -/
def VCond.fits (t : ElemTy) : VCond → Bool
  | .ltu | .geu => t.isInt
  | .un => !t.isInt
  | _ => true

/-- Step 3 of R53 beyond what the types of Instr express: field limits of single entries. -/
def Instr.formOk : Instr → Bool
  | .send _ _ b n => b.val + n.val ≤ 31
  | .spawn _ a => a.val ≤ 28
  | .cas w .. => srcG w
  | .fma w .. | .fms w .. | .fnma w .. | .fnms w .. => srcFV w
  | .jmpr w _ | .jmprCall w _ | .gang2 w | .gang4 w | .gang8 w | .gret w | .mret w => w.nx = .seq
  | .mcall _ n => 4 ≤ n.toNat
  | .fcvt _ k d a => k.fits d a
  | .vadd _ t _ _ b | .vsub _ t _ _ b | .vmul _ t _ _ b | .vmin _ t _ _ b | .vmax _ t _ _ b => b.fits t
  | .vfma w t _ _ b => !t.isInt && b.fits t && srcFV w
  | .vand _ t _ _ b | .vor _ t _ _ b | .vxor _ t _ _ b | .vshl _ t _ _ b | .vshr _ t _ _ b | .vsar _ t _ _ b =>
    t.isInt && b.fits t
  | .vcmp _ t c _ _ b => c.fits t && b.fits t
  | .vsel _ t _ _ b => b.fits t
  | .vred _ t o d _ => d.fits t && (match o with | .and | .or => t.isInt | _ => true)
  | .vbc _ t _ a => a.fits t
  | .vins _ t _ a _ => a.fits t
  | .vext _ t d _ _ => d.fits t
  | .vdotqq w .. => srcFV w
  | .vdotnn w t .. =>
    (match t with | .e2m1 | .ta | .tb => true | _ => false) &&
      (match chainSrc w.chain with | none => true | some c => c.toNat < 32 && c.toNat % 2 = 0)
  | .vmsk _ o _ _ b => (match o with | .not | .mov => b = 0 | _ => true)
  | .gcall w d a b => w.nx = .seq && 5 ≤ d.val && 1 ≤ a.val && 1 ≤ b.val
  | .dsr _ _ _ f => f.toNat ≠ 6 && f.toNat ≠ 7
  | .cue _ _ a => a.val ≤ 28
  | .hpost _ _ b => b.val ≤ 28
  | _ => true

/-- Instructions that take PFX.I: I and J formats but for the unsigned fields of R39. -/
def Instr.takesImm : Instr → Bool
  | .addi .. | .andi .. | .ori .. | .xori .. | .movi .. | .cmpi .. | .tgt .. | .lpsi ..
  | .ldb .. | .ldbu .. | .ldh .. | .ldhu .. | .ldw .. | .ldwu .. | .ldd ..
  | .stb .. | .sth .. | .stw .. | .std .. => true
  | _ => false

/-- Instructions that take PFX.R (R51). -/
def Instr.takesSrc : Instr → Bool
  | .fma .. | .fms .. | .fnma .. | .fnms .. | .vfma .. | .vdotqq .. | .vdotnn .. | .cas .. => true
  | _ => false

/-- Instructions for which PFX.R is required (R51). -/
def Instr.needsSrc : Instr → Bool
  | .vdotqq .. | .vdotnn .. => true
  | _ => false

/-- Instructions that take PFX.O (R51). -/
def Instr.takesOrd : Instr → Bool
  | .ldb .. | .ldbu .. | .ldh .. | .ldhu .. | .ldw .. | .ldwu .. | .ldd ..
  | .stb .. | .sth .. | .stw .. | .std .. | .lda .. | .stl .. | .amo .. | .cas .. => true
  | _ => false

/-- Instructions that take no guard (R51). -/
def Instr.noGuard : Instr → Bool
  | .gcall .. | .gret .. | .mret .. | .halt .. | .hrel .. => true
  | _ => false

/-- Use of the element mask (R129): none, selecting without the zeroing bit, or honouring it. -/
inductive MaskUse where
  | none | select | honour
  deriving DecidableEq, Repr

def Instr.maskUse : Instr → MaskUse
  | .vadd .. | .vsub .. | .vmul .. | .vfma .. | .vmin .. | .vmax .. | .vand .. | .vor .. | .vxor .. | .vshl ..
  | .vshr .. | .vsar .. | .vcvt .. | .vabs .. | .vneg .. | .vbc .. | .vperm .. | .vsld .. | .vld .. | .vlds ..
  | .vgth .. | .venc .. | .vdec .. | .vsfu .. | .vcmp .. => .honour
  | .vst .. | .vsts .. | .vsct .. | .vsel .. | .vred .. | .vtopk .. | .vdotqq .. | .vdothh .. | .vdotnn .. => .select
  | _ => .none

def MaskUse.admits (u : MaskUse) (zeroing : Bool) (m : MReg) : Bool :=
  match u with
  | .honour => true
  | .select => !zeroing
  | .none => !zeroing && m = 0

/-- Step 4 of R53: whether a prefix applies to its base word (R51). -/
def Instr.applies (i : Instr) (nx : Nx) : Pfx → Bool
  | .imm _ => i.takesImm
  | .src _ => i.takesSrc
  | .page _ => true
  | .disp _ => (match nx with | .go | .goc | .call => true | _ => false)
  | .cond _ _ onNx z m => (if onNx then nx = .goc else !i.noGuard) && i.maskUse.admits z m
  | .ord .. => i.takesOrd
  | .safe _ => true

/-- The index of the first prefix that does not apply from index k on; of a required prefix that is missing,
the number of prefixes (R51). -/
def Instr.applyFault (i : Instr) (nx : Nx) (k : Nat) : List Pfx → Option Nat
  | [] => none
  | p :: ps => if i.applies nx p then i.applyFault nx (k + 1) ps else some k

def Instr.prefixFault (i : Instr) (w : Pre) : Option Nat :=
  match i.applyFault w.nx 0 w.chain with
  | some k => some k
  | none => if i.needsSrc && (chainSrc w.chain).isNone then some w.chain.length else none

/-- An instruction of a core that the encoding of R36 to R61 can express. -/
def Instr.wellFormed (i : Instr) : Bool :=
  match i.pre? with
  | none => false
  | some w =>
    (chainFault [] w.chain).isNone && i.page? = some (chainPage w.chain) && i.formOk && (i.prefixFault w).isNone

end Sys2Proof
end

