-- ==== Sys2Proof/Decode.lean ====
section
/-!
DEFINITION. The decoder, total on every sequence of parcels and rejecting by the causes of R53, and after it the
encoder, both from the encoding tables R38, R41, R43, R49 and R56 to R60.
-/

namespace Sys2Proof

/-! ### Base words and prefix parcels -/

/-- The fields of a base word (R38). -/
structure Base where
  s : Bool
  nx : BitVec 3
  op : BitVec 6
  d : BitVec 6
  a : BitVec 6
  b : BitVec 6
  f : BitVec 4
  deriving DecidableEq, Repr

/-- The two parcels of a base word, high parcel first (R36). -/
def Base.ofParcels (hi lo : Parcel) : Base :=
  { s := hi.getLsbD 15, nx := hi.extractLsb' 12 3, op := hi.extractLsb' 6 6, d := hi.extractLsb' 0 6,
    a := lo.extractLsb' 10 6, b := lo.extractLsb' 4 6, f := lo.extractLsb' 0 4 }

def Base.hi (x : Base) : Parcel := BitVec.ofBool x.s ++ x.nx ++ x.op ++ x.d
def Base.lo (x : Base) : Parcel := x.a ++ x.b ++ x.f

/-- The base word as a number, the form in which tval reports it (R63). -/
def wordOf (hi lo : Parcel) : BitVec 32 := hi ++ lo

def Base.imm10 (x : Base) : BitVec 10 := x.b ++ x.f
def Base.imm16 (x : Base) : BitVec 16 := x.a ++ x.b ++ x.f

/-- A parcel that is a prefix wherever it stands (R49). -/
def isPrefixParcel (p : Parcel) : Bool := p.extractLsb' 12 3 = 7

def MemOrd.ofCode (c : BitVec 2) : MemOrd :=
  match c.toNat with | 0 => .none | 1 => .acquire | 2 => .release | _ => .acqrel
def MemOrd.code : MemOrd → BitVec 2
  | .none => 0 | .acquire => 1 | .release => 2 | .acqrel => 3
def Scope.ofCode (c : BitVec 2) : Scope :=
  match c.toNat with | 0 => .core | 1 => .cluster | 2 => .device | _ => .system
def Scope.code : Scope → BitVec 2
  | .core => 0 | .cluster => 1 | .device => 2 | .system => 3

/-- The register number 0 to 7 in the low bits of a code. -/
def low3 (c : BitVec 3) : Fin 8 := ⟨c.toNat, c.isLt⟩

/-- One prefix parcel (R49); none where a bit that must be 0 is 1, or KIND is 7 (R50). -/
def Pfx.ofParcel (p : Parcel) : Option Pfx :=
  if p.getLsbD 15 then none else
  let y : BitVec 9 := p.extractLsb' 0 9
  match (p.extractLsb' 9 3).toNat with
  | 0 => some (.imm y)
  | 1 => if y.extractLsb' 0 3 = 0 then some (.src (y.extractLsb' 3 6)) else none
  | 2 => if y.getLsbD 8 then none else some (.page (y.extractLsb' 0 8))
  | 3 => some (.disp y)
  | 4 => some (.cond (y.getLsbD 8) (low3 (y.extractLsb' 5 3)) (y.getLsbD 4) (y.getLsbD 3) (low3 (y.extractLsb' 0 3)))
  | 5 => if y.extractLsb' 4 5 = 0 then some (.ord (.ofCode (y.extractLsb' 2 2)) (.ofCode (y.extractLsb' 0 2))) else none
  | 6 => if y.getLsbD 8 then none else some (.safe (y.extractLsb' 0 8))
  | _ => none

def Nx.ofCode (c : BitVec 3) : Nx :=
  match c.toNat with | 0 => .seq | 1 => .fin | 2 => .go | 3 => .goc | 4 => .loop | 5 => .call | _ => .ret
def Nx.code : Nx → BitVec 3
  | .seq => 0 | .fin => 1 | .go => 2 | .goc => 3 | .loop => 4 | .call => 5 | .ret => 6

/-! ### Register codes (R41) -/

def greg? (c : BitVec 6) : Option GReg :=
  if h : c.toNat < 32 then some (.g ⟨c.toNat, h⟩) else
  match c.toNat with
  | 32 => some (.port .north)
  | 33 => some (.port .east)
  | 34 => some (.port .south)
  | 35 => some (.port .west)
  | _ => none

/-- A code in any other position than a g-file one (R41). -/
def reg? (c : BitVec 6) : Option (Fin 32) := if h : c.toNat < 32 then some ⟨c.toNat, h⟩ else none

/-- A predicate or mask number, or any other field whose bits [5:3] must be 0. -/
def small? (c : BitVec 6) : Option (Fin 8) := if h : c.toNat < 8 then some ⟨c.toNat, h⟩ else none

/-- A field that the entry lists as unused (R40). -/
def zero? {n : Nat} (c : BitVec n) : Option Unit := if c = 0 then some () else none

def scalar? (isG : Bool) (c : BitVec 6) : Option Scalar :=
  if isG then (greg? c).map .gx else (reg? c).map .fx

/-! ### Minor codes -/

def Cond.ofCode (n : Nat) : Option Cond :=
  match n with
  | 0 => some .eq | 1 => some .ne | 2 => some .lt | 3 => some .ge | 4 => some .ltu | 5 => some .geu
  | 6 => some .bits | 7 => some .bitc | _ => none
def Cond.code : Cond → Nat
  | .eq => 0 | .ne => 1 | .lt => 2 | .ge => 3 | .ltu => 4 | .geu => 5 | .bits => 6 | .bitc => 7

def FCond.ofCode (n : Nat) : Option FCond :=
  match n with | 0 => some .eq | 1 => some .lt | 2 => some .le | 3 => some .un | 4 => some .ne | _ => none
def FCond.code : FCond → Nat
  | .eq => 0 | .lt => 1 | .le => 2 | .un => 3 | .ne => 4

def VCond.ofCode (n : Nat) : Option VCond :=
  match n with
  | 0 => some .eq | 1 => some .ne | 2 => some .lt | 3 => some .ge | 4 => some .ltu | 5 => some .geu
  | 6 => some .le | 7 => some .un | _ => none
def VCond.code : VCond → Nat
  | .eq => 0 | .ne => 1 | .lt => 2 | .ge => 3 | .ltu => 4 | .geu => 5 | .le => 6 | .un => 7

def Size.ofCode (c : BitVec 2) : Size := match c.toNat with | 0 => .b | 1 => .h | 2 => .w | _ => .d
def Size.code : Size → BitVec 2
  | .b => 0 | .h => 1 | .w => 2 | .d => 3

def AmoOp.ofCode (n : Nat) : Option AmoOp :=
  match n with
  | 0 => some .add | 1 => some .swp | 2 => some .and | 3 => some .or | 4 => some .xor | 5 => some .min
  | 6 => some .max | 7 => some .minu | 8 => some .maxu | 9 => some .addw | _ => none
def AmoOp.code : AmoOp → Nat
  | .add => 0 | .swp => 1 | .and => 2 | .or => 3 | .xor => 4 | .min => 5 | .max => 6 | .minu => 7 | .maxu => 8
  | .addw => 9

def FenceKind.ofCode (n : Nat) : Option FenceKind :=
  match n with | 0 => some .acq | 1 => some .rel | 2 => some .full | _ => none
def FenceKind.code : FenceKind → BitVec 2
  | .acq => 0 | .rel => 1 | .full => 2

def Cvt.ofCode (n : Nat) : Option Cvt :=
  match n with
  | 0 => some .f32f64 | 1 => some .f64f32 | 2 => some .f16f32 | 3 => some .f32f16 | 4 => some .bf16f32
  | 5 => some .f32bf16 | 6 => some .i64f64 | 7 => some .i64f32 | 8 => some .u64f64 | 9 => some .u64f32
  | 10 => some .f64i64 | 11 => some .f32i64 | 12 => some .f64u64 | 13 => some .f32u64 | 14 => some .wf19f32
  | 15 => some .f32wf19 | _ => none
def Cvt.code : Cvt → Nat
  | .f32f64 => 0 | .f64f32 => 1 | .f16f32 => 2 | .f32f16 => 3 | .bf16f32 => 4 | .f32bf16 => 5 | .i64f64 => 6
  | .i64f32 => 7 | .u64f64 => 8 | .u64f32 => 9 | .f64i64 => 10 | .f32i64 => 11 | .f64u64 => 12 | .f32u64 => 13
  | .wf19f32 => 14 | .f32wf19 => 15

def ElemTy.ofCode (c : BitVec 3) : ElemTy :=
  match c.toNat with
  | 0 => .i8 | 1 => .i16 | 2 => .i32 | 3 => .i64 | 4 => .bf16 | 5 => .fp16 | 6 => .f32 | _ => .f64
def ElemTy.code : ElemTy → BitVec 3
  | .i8 => 0 | .i16 => 1 | .i32 => 2 | .i64 => 3 | .bf16 => 4 | .fp16 => 5 | .f32 => 6 | .f64 => 7

def TableSel.ofCode (c : BitVec 3) : Option TableSel :=
  match c.toNat with
  | 0 => some .e4m3 | 1 => some .e5m2 | 2 => some .int8 | 3 => some .e2m1 | 4 => some .ta | 5 => some .tb | _ => none
def TableSel.code : TableSel → BitVec 3
  | .e4m3 => 0 | .e5m2 => 1 | .int8 => 2 | .e2m1 => 3 | .ta => 4 | .tb => 5

def RedOp.ofCode (n : Nat) : Option RedOp :=
  match n with | 0 => some .sum | 1 => some .max | 2 => some .min | 3 => some .and | 4 => some .or | _ => none
def RedOp.code : RedOp → BitVec 6
  | .sum => 0 | .max => 1 | .min => 2 | .and => 3 | .or => 4

def SfuFn.ofCode (c : BitVec 3) : SfuFn :=
  match c.toNat with
  | 0 => .exp2 | 1 => .log2 | 2 => .rcp | 3 => .rsq | 4 => .sin | 5 => .cos | 6 => .tanh | _ => .erf
def SfuFn.code : SfuFn → BitVec 3
  | .exp2 => 0 | .log2 => 1 | .rcp => 2 | .rsq => 3 | .sin => 4 | .cos => 5 | .tanh => 6 | .erf => 7

def MaskOp.ofCode (n : Nat) : Option MaskOp :=
  match n with
  | 0 => some .and | 1 => some .or | 2 => some .xor | 3 => some .andn | 4 => some .not | 5 => some .mov | _ => none
def MaskOp.code : MaskOp → BitVec 4
  | .and => 0 | .or => 1 | .xor => 2 | .andn => 3 | .not => 4 | .mov => 5

def HandleState.ofCode (c : BitVec 2) : HandleState :=
  match c.toNat with | 0 => .free | 1 => .filling | 2 => .full | _ => .draining
def HandleState.code : HandleState → BitVec 2
  | .free => 0 | .filling => 1 | .full => 2 | .draining => 3

/-! ### The five pages -/

/-- Page 0 (R56). -/
def decodePage0 (w : Pre) (x : Base) : Option Instr :=
  let f := x.f.toNat
  let r3 (k : Pre → GReg → GReg → GReg → Instr) : Option Instr := do
    some (k w (← greg? x.d) (← greg? x.a) (← greg? x.b))
  let r2 (k : Pre → GReg → GReg → Instr) : Option Instr := do
    zero? x.b; some (k w (← greg? x.d) (← greg? x.a))
  let i2 (k : Pre → GReg → GReg → BitVec 10 → Instr) : Option Instr := do
    some (k w (← greg? x.d) (← greg? x.a) x.imm10)
  let sh (k : Pre → GReg → GReg → BitVec 6 → Instr) : Option Instr := do
    zero? (x.imm10.extractLsb' 6 4); some (k w (← greg? x.d) (← greg? x.a) (x.imm10.extractLsb' 0 6))
  let a1 (k : Pre → GReg → Instr) : Option Instr := do
    zero? x.d; zero? x.b; some (k w (← greg? x.a))
  let csr (k : Pre → GReg → BitVec 10 → Instr) : Option Instr := do
    zero? x.a; some (k w (← greg? x.d) x.imm10)
  let p3 (k : Pre → PReg → PReg → PReg → Instr) : Option Instr := do
    some (k w (← small? x.d) (← small? x.a) (← small? x.b))
  let p2 (k : Pre → PReg → PReg → Instr) : Option Instr := do
    zero? x.b; some (k w (← small? x.d) (← small? x.a))
  let nul (k : Pre → Instr) : Option Instr := do
    zero? x.d; zero? x.a; zero? x.b; some (k w)
  match x.op.toNat with
  | 0x00 =>
    match f with
    | 0 => r3 .add | 1 => r3 .sub | 2 => r3 .and | 3 => r3 .or | 4 => r3 .xor | 5 => r3 .andn | 6 => r3 .shl
    | 7 => r3 .shr | 8 => r3 .sar | 9 => r3 .rol | 10 => r3 .min | 11 => r3 .max | 12 => r3 .minu | 13 => r3 .maxu
    | 14 => r3 .addw | _ => r3 .subw
  | 0x01 => i2 .addi
  | 0x02 => i2 .andi
  | 0x03 => i2 .ori
  | 0x04 => i2 .xori
  | 0x05 => sh .shli
  | 0x06 => sh .shri
  | 0x07 => sh .sari
  | 0x08 =>
    match f with
    | 0 => r3 .mul | 1 => r3 .mulh | 2 => r3 .mulhu | 3 => r3 .mulw | 4 => r3 .div | 5 => r3 .divu | 6 => r3 .rem
    | 7 => r3 .remu | _ => none
  | 0x09 =>
    match f with
    | 0 => r2 .clz | 1 => r2 .ctz | 2 => r2 .popc | 3 => r2 .brev | 4 => r2 .bswap | 5 => r2 .sextb | 6 => r2 .sexth
    | 7 => r2 .sextw | 8 => r2 .zextb | 9 => r2 .zexth | 10 => r2 .zextw | _ => none
  | 0x0A => do some (.movi w (← greg? x.d) x.imm16)
  | 0x0B => do
    zero? (x.f.extractLsb' 2 2)
    some (.lea w (← greg? x.d) (← greg? x.a) (← greg? x.b) (x.f.extractLsb' 0 2))
  | 0x0C => do some (.cmp w (← Cond.ofCode f) (← small? x.d) (← greg? x.a) (← greg? x.b))
  | 0x0D => do
    some (.cmpi w (← Cond.ofCode (x.d.extractLsb' 3 3).toNat) (low3 (x.d.extractLsb' 0 3)) (← greg? x.a) x.imm10)
  | 0x0E => do
    zero? (x.f.extractLsb' 3 1)
    some (.sel w (← greg? x.d) (low3 (x.f.extractLsb' 0 3)) (← greg? x.a) (← greg? x.b))
  | 0x0F =>
    match f with
    | 0 => p3 .pand | 1 => p3 .por | 2 => p3 .pxor | 3 => p3 .pandn | 4 => p2 .pnot | 5 => p2 .pmov | _ => none
  | 0x10 => i2 .ldb
  | 0x11 => i2 .ldbu
  | 0x12 => i2 .ldh
  | 0x13 => i2 .ldhu
  | 0x14 => i2 .ldw
  | 0x15 => i2 .ldwu
  | 0x16 => i2 .ldd
  | 0x18 => i2 .stb
  | 0x19 => i2 .sth
  | 0x1A => i2 .stw
  | 0x1B => i2 .std
  | 0x1C => r2 (fun w d a => .lda w (.ofCode (x.f.extractLsb' 0 2)) (.ofCode (x.f.extractLsb' 2 2)) d a)
  | 0x1D => r2 (fun w d a => .stl w (.ofCode (x.f.extractLsb' 0 2)) (.ofCode (x.f.extractLsb' 2 2)) d a)
  | 0x1E => do some (.amo w (← AmoOp.ofCode f) (← greg? x.d) (← greg? x.a) (← greg? x.b))
  | 0x1F =>
    match f with
    | 0 => r3 (.cas · false) | 1 => r3 (.cas · true) | _ => none
  | 0x20 => do
    let k ← FenceKind.ofCode (x.f.extractLsb' 2 2).toNat
    nul (.fence · k (.ofCode (x.f.extractLsb' 0 2)))
  | 0x21 => do
    zero? x.d
    some (.send w (← greg? x.a) (← reg? x.b) ⟨x.f.toNat, x.f.isLt⟩)
  | 0x22 => do
    zero? x.d; zero? x.f
    some (.hdef w (← greg? x.a) (← greg? x.b))
  | 0x23 =>
    match f with
    | 0 => a1 .hen | 1 => a1 .hdis | 2 => a1 .hsetp | 3 => a1 .hclrp | _ => none
  | 0x24 => do
    zero? x.d; zero? x.b; zero? x.f
    some (.spawn w (← reg? x.a))
  | 0x25 => do zero? x.f; a1 .tdec
  | 0x26 => do zero? x.f; r2 .wfm
  | 0x27 =>
    match f with
    | 0 => a1 .bar | 1 => a1 .bara | 2 => a1 .barw | _ => none
  | 0x28 =>
    match f with
    | 0 => a1 .jmpr | 1 => a1 .jmprCall | _ => none
  | 0x29 => do zero? x.d; some (.tgt w x.imm16)
  | 0x2A => do zero? x.f; a1 .lps
  | 0x2B => do zero? x.d; zero? x.a; some (.lpsi w x.imm10)
  | 0x2C =>
    match f with
    | 0 => nul .disb | 1 => nul .gang2 | 2 => nul .gang4 | 3 => nul .gang8 | 4 => nul .rejn | _ => none
  | 0x2D =>
    match f with
    | 0 => do zero? x.b; some (.movrGf w (← reg? x.d) (← greg? x.a))
    | 1 => do zero? x.b; some (.movrFg w (← greg? x.d) (← reg? x.a))
    | 2 => a1 .movrGp
    | 3 => do zero? x.a; zero? x.b; some (.movrPg w (← greg? x.d))
    | _ => none
  | 0x2E => csr .srd
  | 0x2F => csr .swr
  | 0x30 => csr .ssb
  | 0x31 => csr .scb
  | 0x32 => do zero? x.f; nul .cmit
  | 0x33 => do
    zero? x.d; zero? x.a
    match x.imm10.toNat with
    | 0 => some (.mver w)
    | 1 => some (.gpub w)
    | 2 => some (.grev w)
    | 3 => some (.spgd w)
    | _ => some (.mcall w x.imm10)
  | 0x34 => do zero? x.d; some (.brk w x.imm16)
  | _ => none

/-- Page 1 (R57). -/
def decodePage1 (w : Pre) (x : Base) : Option Instr :=
  let dbl := x.f.getLsbD 3
  let f3 (k : Pre → Bool → FReg → FReg → FReg → Instr) : Option Instr := do
    some (k w dbl (← reg? x.d) (← reg? x.a) (← reg? x.b))
  let f2 (k : Pre → Bool → FReg → FReg → Instr) : Option Instr := do
    zero? x.b; some (k w dbl (← reg? x.d) (← reg? x.a))
  match x.op.toNat with
  | 0x00 =>
    match (x.f.extractLsb' 0 3).toNat with
    | 0 => f3 .fadd | 1 => f3 .fsub | 2 => f3 .fmul | 3 => f3 .fdiv | 4 => f3 .fmin | 5 => f3 .fmax | 6 => f2 .fsqrt
    | _ => none
  | 0x01 =>
    match (x.f.extractLsb' 0 3).toNat with
    | 0 => f3 .fma | 1 => f3 .fms | 2 => f3 .fnma | 3 => f3 .fnms | _ => none
  | 0x02 => do
    some (.fcmp w dbl (← FCond.ofCode (x.f.extractLsb' 0 3).toNat) (← small? x.d) (← reg? x.a) (← reg? x.b))
  | 0x03 => do
    zero? x.b
    let k ← Cvt.ofCode x.f.toNat
    some (.fcvt w k (← scalar? (6 ≤ x.f.toNat && x.f.toNat ≤ 9) x.d) (← scalar? (10 ≤ x.f.toNat && x.f.toNat ≤ 13) x.a))
  | 0x04 => do
    zero? x.b; zero? (x.f.extractLsb' 0 3)
    some (.fcls w dbl (← greg? x.d) (← reg? x.a))
  | 0x05 =>
    match (x.f.extractLsb' 0 3).toNat with
    | 0 => f2 .fmv | 1 => f2 .fneg | 2 => f2 .fabs | 3 => f3 .fcpys | _ => none
  | 0x06 => do
    zero? x.d; zero? x.b; zero? (x.f.extractLsb' 2 2)
    some (.tbld w (x.f.getLsbD 0) (x.f.getLsbD 1) (← greg? x.a))
  | 0x07 => do
    zero? x.b
    some (.enc w (← TableSel.ofCode (x.f.extractLsb' 0 3)) (x.f.getLsbD 3) (← greg? x.d) (← reg? x.a))
  | 0x08 => do
    zero? x.b; zero? (x.f.extractLsb' 3 1)
    some (.dec w (← TableSel.ofCode (x.f.extractLsb' 0 3)) (← reg? x.d) (← greg? x.a))
  | 0x09 => do
    zero? x.b; zero? x.f
    some (.scal w (← greg? x.d) (← reg? x.a))
  | _ => none

/-- Page 2 (R58). -/
def decodePage2 (w : Pre) (x : Base) : Option Instr :=
  let t := ElemTy.ofCode (x.f.extractLsb' 0 3)
  let hiF : BitVec 1 := x.f.extractLsb' 3 1
  let vsrc : Option VSrc := if hiF = 1 then (scalar? t.isInt x.b).map .bcast else (reg? x.b).map .vec
  let v3 (k : Pre → ElemTy → VReg → VReg → VSrc → Instr) : Option Instr := do
    some (k w t (← reg? x.d) (← reg? x.a) (← vsrc))
  let ls (k : Pre → ElemTy → VReg → GReg → Instr) : Option Instr := do
    zero? hiF; zero? x.b; some (k w t (← reg? x.d) (← greg? x.a))
  let lss (k : Pre → ElemTy → VReg → GReg → GReg → Instr) : Option Instr := do
    zero? hiF; some (k w t (← reg? x.d) (← greg? x.a) (← greg? x.b))
  let lsv (k : Pre → ElemTy → VReg → GReg → VReg → Instr) : Option Instr := do
    zero? hiF; some (k w t (← reg? x.d) (← greg? x.a) (← reg? x.b))
  match x.op.toNat with
  | 0x00 => v3 .vadd
  | 0x01 => v3 .vsub
  | 0x02 => v3 .vmul
  | 0x03 => v3 .vfma
  | 0x04 => v3 .vmin
  | 0x05 => v3 .vmax
  | 0x06 => v3 .vand
  | 0x07 => v3 .vor
  | 0x08 => v3 .vxor
  | 0x09 => v3 .vshl
  | 0x0A => v3 .vshr
  | 0x0B => v3 .vsar
  | 0x0C => do
    some (.vcmp w t (← VCond.ofCode (x.d.extractLsb' 3 3).toNat) (low3 (x.d.extractLsb' 0 3)) (← reg? x.a) (← vsrc))
  | 0x0D => v3 .vsel
  | 0x0E => do
    zero? hiF; zero? (x.b.extractLsb' 3 3)
    some (.vcvt w t (ElemTy.ofCode (x.b.extractLsb' 0 3)) (← reg? x.d) (← reg? x.a))
  | 0x0F => do
    zero? x.b
    some ((if hiF = 1 then Instr.vneg else Instr.vabs) w t (← reg? x.d) (← reg? x.a))
  | 0x10 => do
    zero? hiF
    some (.vred w t (← RedOp.ofCode x.b.toNat) (← scalar? t.isInt x.d) (← reg? x.a))
  | 0x11 => do
    zero? hiF; zero? x.b
    some (.vbc w t (← reg? x.d) (← scalar? t.isInt x.a))
  | 0x12 => do
    zero? hiF
    some (.vperm w t (← reg? x.d) (← reg? x.a) (← reg? x.b))
  | 0x13 => do
    zero? hiF
    some (.vsld w t (← reg? x.d) (← reg? x.a) (← greg? x.b))
  | 0x14 =>
    if hiF = 1 then do some (.vext w t (← scalar? t.isInt x.d) (← reg? x.a) (← greg? x.b))
    else do some (.vins w t (← reg? x.d) (← scalar? t.isInt x.a) (← greg? x.b))
  | 0x15 => ls .vld
  | 0x16 => ls .vst
  | 0x17 => lss .vlds
  | 0x18 => lss .vsts
  | 0x19 => lsv .vgth
  | 0x1A => lsv .vsct
  | 0x1B => do
    zero? hiF
    some (.vdotqq w (← TableSel.ofCode (x.f.extractLsb' 0 3)) (← reg? x.d) (← reg? x.a) (← reg? x.b))
  | 0x1C => do
    zero? x.f
    some (.vdothh w (← reg? x.d) (← reg? x.a) (← reg? x.b))
  | 0x1D => do
    zero? hiF
    some (.vdotnn w (← TableSel.ofCode (x.f.extractLsb' 0 3)) (← reg? x.d) (← reg? x.a) (← reg? x.b))
  | 0x1E => do
    zero? hiF
    some (.vtopk w t (← reg? x.d) (← reg? x.a) (← greg? x.b))
  | 0x1F => do
    zero? x.b
    some (.venc w (← TableSel.ofCode (x.f.extractLsb' 0 3)) (x.f.getLsbD 3) (← reg? x.d) (← reg? x.a))
  | 0x20 => do
    zero? x.b; zero? hiF
    some (.vdec w (← TableSel.ofCode (x.f.extractLsb' 0 3)) (← reg? x.d) (← reg? x.a))
  | 0x21 => do
    zero? x.b; zero? hiF
    some (.vsfu w (.ofCode (x.f.extractLsb' 0 3)) (← reg? x.d) (← reg? x.a))
  | 0x22 => do
    zero? x.b; zero? (x.f.extractLsb' 1 3)
    let r ← match x.d.toNat with
      | 28 => some (0 : Fin 4) | 29 => some 1 | 30 => some 2 | 31 => some 3 | _ => none
    if x.f.getLsbD 0 then some (.strmOn w r (← greg? x.a)) else do zero? x.a; some (.strmOff w r)
  | 0x23 => do
    some (.vmsk w (← MaskOp.ofCode x.f.toNat) (← small? x.d) (← small? x.a) (← small? x.b))
  | _ => none

/-- Page 3 (R59). -/
def decodePage3 (w : Pre) (x : Base) : Option Instr :=
  let r2 (k : Pre → GReg → GReg → Instr) : Option Instr := do
    zero? x.b; zero? x.f; some (k w (← greg? x.d) (← greg? x.a))
  match x.op.toNat with
  | 0x00 => r2 .mmaqq
  | 0x01 => r2 .mmahh
  | 0x02 => r2 .mmann
  | 0x03 => do zero? x.d; zero? x.b; zero? x.f; some (.mzero w (← greg? x.a))
  | 0x04 => r2 .mwait
  | 0x05 => r2 .mpoll
  | 0x06 => do
    zero? x.d; zero? x.b; zero? (x.f.extractLsb' 2 2)
    let p : BitVec 2 := x.f.extractLsb' 0 2
    some (.mtbl w ⟨p.toNat, p.isLt⟩ (← greg? x.a))
  | 0x07 => do zero? x.f; some (.mlsf w (← reg? x.d) (← greg? x.a) (← greg? x.b))
  | 0x08 => do zero? x.f; some (.mst w (← greg? x.d) (← greg? x.a) (← greg? x.b))
  | 0x10 => r2 .copy
  | 0x11 => r2 .cwait
  | 0x12 => r2 .cpoll
  | 0x13 => do
    zero? x.d; zero? x.b; zero? (x.f.extractLsb' 2 2)
    some (.bwait w (.ofCode (x.f.extractLsb' 0 2)) (← greg? x.a))
  | 0x14 => do
    zero? x.d; zero? x.b; zero? (x.f.extractLsb' 2 2)
    some (.bset w (.ofCode (x.f.extractLsb' 0 2)) (← greg? x.a))
  | 0x15 => r2 .bstat
  | _ => none

/-- Page 4 (R60). -/
def decodePage4 (w : Pre) (x : Base) : Option Instr :=
  let nul (k : Pre → Instr) : Option Instr := do
    zero? x.d; zero? x.a; zero? x.b; zero? x.f; some (k w)
  let ab (k : Pre → GReg → GReg → Instr) : Option Instr := do
    zero? x.d; zero? x.f; some (k w (← greg? x.a) (← greg? x.b))
  let a1 (k : Pre → GReg → Instr) : Option Instr := do
    zero? x.d; zero? x.b; zero? x.f; some (k w (← greg? x.a))
  match x.op.toNat with
  | 0x00 => do zero? x.f; some (.gcall w (← reg? x.d) (← reg? x.a) (← reg? x.b))
  | 0x01 => nul .gret
  | 0x02 => do zero? x.b; some (.dsr w (← greg? x.d) (← greg? x.a) x.f)
  | 0x03 => do zero? x.b; zero? x.f; some (.cue w (← greg? x.d) (← reg? x.a))
  | 0x04 => ab .emit
  | 0x05 => do zero? x.f; some (.rng w (← greg? x.d) (← greg? x.a) (← greg? x.b))
  | 0x06 => do zero? x.d; zero? x.f; some (.hpost w (← greg? x.a) (← reg? x.b))
  | 0x07 => nul .mret
  | 0x08 => ab .invpg
  | 0x09 => ab .keyld
  | 0x0A => a1 .keyz
  | 0x0B => ab .ctxsv
  | 0x0C => ab .ctxld
  | 0x0D => nul .halt
  | 0x0E => a1 .hrel
  | _ => none

/-! ### The decoder (R53) -/

/-- The instruction of a chain that obeys R50 and a base word: steps 2 to 4 of R53. -/
def decodeWord (chain : List Pfx) (hi lo : Parcel) : Instr :=
  let x := Base.ofParcels hi lo
  let w : Pre := { s := x.s, nx := .ofCode x.nx, chain := chain }
  let bad : Instr := .illegalInstruction 0x01 ((wordOf hi lo).setWidth 64)
  let r := match chainPage chain with
    | 0 => decodePage0 w x
    | 1 => decodePage1 w x
    | 2 => decodePage2 w x
    | 3 => decodePage3 w x
    | 4 => decodePage4 w x
    | _ => none
  match r with
  | none => bad
  | some i =>
    if i.formOk then
      match i.prefixFault w with
      | some k => .illegalInstruction 0x02 (BitVec.ofNat 64 k)
      | none => i
    else bad

/-- The instruction at the head of a sequence of parcels; none where the sequence ends inside it. The prefixes
already read stand in `before`, latest first. Parcels are judged in order (R49, R50). -/
def decodeFrom (before : List Pfx) : List Parcel → Option Instr
  | [] => none
  | h :: t =>
    if isPrefixParcel h then
      match Pfx.ofParcel h with
      | none => some (.illegalInstruction 0x02 (BitVec.ofNat 64 before.length))
      | some p =>
        if 4 ≤ before.length || p.clash before then
          some (.illegalInstruction 0x02 (BitVec.ofNat 64 before.length))
        else decodeFrom (p :: before) t
    else
      match t with
      | [] => none
      | lo :: _ => some (decodeWord before.reverse h lo)

/-- The decoder: total on any parcels, answering ILLEGAL_INSTRUCTION with cause and tval where there is none. -/
def decodeParcels (ps : List Parcel) : Option Instr := decodeFrom [] ps

/-- Parcels stored little-endian (R36). -/
def parcelsOfBytes : List Byte → List Parcel
  | b0 :: b1 :: t => (b1 ++ b0 : BitVec 16) :: parcelsOfBytes t
  | _ => []

def bytesOfParcels : List Parcel → List Byte
  | [] => []
  | p :: t => p.extractLsb' 0 8 :: p.extractLsb' 8 8 :: bytesOfParcels t

/-- The decoder on bytes in address order. -/
def decodeBytes (bs : List Byte) : Option Instr := decodeParcels (parcelsOfBytes bs)

/-! ### WAITP, custom-0 of the stage-manager harts (R331) -/

/-- The three forms of WAITP; none for every other word. -/
def decodeWaitp (v : BitVec 32) : Option Instr :=
  let reg (p : Nat) : Fin 32 := ⟨(v.extractLsb' p 5).toNat, (v.extractLsb' p 5).isLt⟩
  if v.extractLsb' 0 7 = 0x0B then
    match (v.extractLsb' 12 3).toNat with
    | 0 => if v.extractLsb' 15 17 = 0 then some (.waitpQ (reg 7)) else none
    | 1 => if v.extractLsb' 25 7 = 0 then some (.waitpGeu (reg 7) (reg 15) (reg 20)) else none
    | 2 => if v.extractLsb' 25 7 = 0 then some (.waitpNe (reg 7) (reg 15) (reg 20)) else none
    | _ => none
  else none

/-! ### The encoder (R36 to R60) -/

def GReg.code : GReg → BitVec 6
  | .g n => BitVec.ofNat 6 n.val
  | .port .north => 32
  | .port .east => 33
  | .port .south => 34
  | .port .west => 35

def regCode {n : Nat} (r : Fin n) : BitVec 6 := BitVec.ofNat 6 r.val

def Scalar.code : Scalar → BitVec 6
  | .gx r => r.code
  | .fx r => regCode r

def VSrc.code : VSrc → BitVec 6
  | .vec r => regCode r
  | .bcast x => x.code

def VSrc.bit : VSrc → BitVec 1
  | .vec _ => 0
  | .bcast _ => 1

/-- A prefix parcel (R49). -/
def Pfx.toParcel (p : Pfx) : Parcel :=
  let mk (kind : BitVec 3) (y : BitVec 9) : Parcel := 7#4 ++ kind ++ y
  match p with
  | .imm y => mk 0 y
  | .src c => mk 1 (c ++ 0#3)
  | .page n => mk 2 (0#1 ++ n)
  | .disp y => mk 3 y
  | .cond neg p onNx z m =>
    mk 4 (BitVec.ofBool neg ++ BitVec.ofNat 3 p.val ++ BitVec.ofBool onNx ++ BitVec.ofBool z ++ BitVec.ofNat 3 m.val)
  | .ord o c => mk 5 (0#5 ++ o.code ++ c.code)
  | .safe i => mk 6 (0#1 ++ i)

/-- OP, D, A, B and F of an instruction. -/
structure Fields where
  op : BitVec 6
  d : BitVec 6
  a : BitVec 6
  b : BitVec 6
  f : BitVec 4
  deriving DecidableEq, Repr

/-- Fields of the I format: imm10 in the places of B and F. -/
def fieldsI (op d a : BitVec 6) (imm : BitVec 10) : Fields :=
  ⟨op, d, a, imm.extractLsb' 4 6, imm.extractLsb' 0 4⟩

/-- Fields of the J format: imm16 in the places of A, B and F. -/
def fieldsJ (op d : BitVec 6) (imm : BitVec 16) : Fields :=
  ⟨op, d, imm.extractLsb' 10 6, imm.extractLsb' 4 6, imm.extractLsb' 0 4⟩

/-- A 3R word of page 0 with three g-file operands. -/
def fieldsG (op : BitVec 6) (f : BitVec 4) (d a b : GReg) : Fields := ⟨op, d.code, a.code, b.code, f⟩

/-- F of page 1 with the precision in F[3]. -/
def fDbl (dbl : Bool) (f : BitVec 3) : BitVec 4 := BitVec.ofBool dbl ++ f

def fieldsF (op : BitVec 6) (f : BitVec 4) (d a b : FReg) : Fields := ⟨op, regCode d, regCode a, regCode b, f⟩

def fieldsV (op : BitVec 6) (t : ElemTy) (d a : VReg) (b : VSrc) : Fields :=
  ⟨op, regCode d, regCode a, b.code, b.bit ++ t.code⟩

def fieldsP (f : BitVec 4) (d a b : PReg) : Fields := ⟨0x0F, regCode d, regCode a, regCode b, f⟩

def fT (t : ElemTy) : BitVec 4 := 0#1 ++ t.code

/-- The fields of every core instruction (R56 to R60). -/
def Instr.fields? : Instr → Option Fields
  | .add _ d a b => some (fieldsG 0 0 d a b)
  | .sub _ d a b => some (fieldsG 0 1 d a b)
  | .and _ d a b => some (fieldsG 0 2 d a b)
  | .or _ d a b => some (fieldsG 0 3 d a b)
  | .xor _ d a b => some (fieldsG 0 4 d a b)
  | .andn _ d a b => some (fieldsG 0 5 d a b)
  | .shl _ d a b => some (fieldsG 0 6 d a b)
  | .shr _ d a b => some (fieldsG 0 7 d a b)
  | .sar _ d a b => some (fieldsG 0 8 d a b)
  | .rol _ d a b => some (fieldsG 0 9 d a b)
  | .min _ d a b => some (fieldsG 0 10 d a b)
  | .max _ d a b => some (fieldsG 0 11 d a b)
  | .minu _ d a b => some (fieldsG 0 12 d a b)
  | .maxu _ d a b => some (fieldsG 0 13 d a b)
  | .addw _ d a b => some (fieldsG 0 14 d a b)
  | .subw _ d a b => some (fieldsG 0 15 d a b)
  | .addi _ d a imm => some (fieldsI 0x01 d.code a.code imm)
  | .andi _ d a imm => some (fieldsI 0x02 d.code a.code imm)
  | .ori _ d a imm => some (fieldsI 0x03 d.code a.code imm)
  | .xori _ d a imm => some (fieldsI 0x04 d.code a.code imm)
  | .shli _ d a n => some (fieldsI 0x05 d.code a.code (0#4 ++ n))
  | .shri _ d a n => some (fieldsI 0x06 d.code a.code (0#4 ++ n))
  | .sari _ d a n => some (fieldsI 0x07 d.code a.code (0#4 ++ n))
  | .mul _ d a b => some (fieldsG 0x08 0 d a b)
  | .mulh _ d a b => some (fieldsG 0x08 1 d a b)
  | .mulhu _ d a b => some (fieldsG 0x08 2 d a b)
  | .mulw _ d a b => some (fieldsG 0x08 3 d a b)
  | .div _ d a b => some (fieldsG 0x08 4 d a b)
  | .divu _ d a b => some (fieldsG 0x08 5 d a b)
  | .rem _ d a b => some (fieldsG 0x08 6 d a b)
  | .remu _ d a b => some (fieldsG 0x08 7 d a b)
  | .clz _ d a => some ⟨0x09, d.code, a.code, 0, 0⟩
  | .ctz _ d a => some ⟨0x09, d.code, a.code, 0, 1⟩
  | .popc _ d a => some ⟨0x09, d.code, a.code, 0, 2⟩
  | .brev _ d a => some ⟨0x09, d.code, a.code, 0, 3⟩
  | .bswap _ d a => some ⟨0x09, d.code, a.code, 0, 4⟩
  | .sextb _ d a => some ⟨0x09, d.code, a.code, 0, 5⟩
  | .sexth _ d a => some ⟨0x09, d.code, a.code, 0, 6⟩
  | .sextw _ d a => some ⟨0x09, d.code, a.code, 0, 7⟩
  | .zextb _ d a => some ⟨0x09, d.code, a.code, 0, 8⟩
  | .zexth _ d a => some ⟨0x09, d.code, a.code, 0, 9⟩
  | .zextw _ d a => some ⟨0x09, d.code, a.code, 0, 10⟩
  | .movi _ d imm => some (fieldsJ 0x0A d.code imm)
  | .lea _ d a b sh => some ⟨0x0B, d.code, a.code, b.code, 0#2 ++ sh⟩
  | .cmp _ c p a b => some ⟨0x0C, regCode p, a.code, b.code, BitVec.ofNat 4 c.code⟩
  | .cmpi _ c p a imm => some (fieldsI 0x0D (BitVec.ofNat 3 c.code ++ BitVec.ofNat 3 p.val) a.code imm)
  | .sel _ d p a b => some ⟨0x0E, d.code, a.code, b.code, BitVec.ofNat 4 p.val⟩
  | .pand _ d a b => some (fieldsP 0 d a b)
  | .por _ d a b => some (fieldsP 1 d a b)
  | .pxor _ d a b => some (fieldsP 2 d a b)
  | .pandn _ d a b => some (fieldsP 3 d a b)
  | .pnot _ d a => some (fieldsP 4 d a 0)
  | .pmov _ d a => some (fieldsP 5 d a 0)
  | .ldb _ d a imm => some (fieldsI 0x10 d.code a.code imm)
  | .ldbu _ d a imm => some (fieldsI 0x11 d.code a.code imm)
  | .ldh _ d a imm => some (fieldsI 0x12 d.code a.code imm)
  | .ldhu _ d a imm => some (fieldsI 0x13 d.code a.code imm)
  | .ldw _ d a imm => some (fieldsI 0x14 d.code a.code imm)
  | .ldwu _ d a imm => some (fieldsI 0x15 d.code a.code imm)
  | .ldd _ d a imm => some (fieldsI 0x16 d.code a.code imm)
  | .stb _ d a imm => some (fieldsI 0x18 d.code a.code imm)
  | .sth _ d a imm => some (fieldsI 0x19 d.code a.code imm)
  | .stw _ d a imm => some (fieldsI 0x1A d.code a.code imm)
  | .std _ d a imm => some (fieldsI 0x1B d.code a.code imm)
  | .lda _ z c d a => some ⟨0x1C, d.code, a.code, 0, c.code ++ z.code⟩
  | .stl _ z c d a => some ⟨0x1D, d.code, a.code, 0, c.code ++ z.code⟩
  | .amo _ o d a b => some ⟨0x1E, d.code, a.code, b.code, BitVec.ofNat 4 o.code⟩
  | .cas _ dbl d a b => some ⟨0x1F, d.code, a.code, b.code, 0#3 ++ BitVec.ofBool dbl⟩
  | .fence _ k c => some ⟨0x20, 0, 0, 0, k.code ++ c.code⟩
  | .send _ a b n => some ⟨0x21, 0, a.code, regCode b, BitVec.ofNat 4 n.val⟩
  | .hdef _ a b => some ⟨0x22, 0, a.code, b.code, 0⟩
  | .hen _ a => some ⟨0x23, 0, a.code, 0, 0⟩
  | .hdis _ a => some ⟨0x23, 0, a.code, 0, 1⟩
  | .hsetp _ a => some ⟨0x23, 0, a.code, 0, 2⟩
  | .hclrp _ a => some ⟨0x23, 0, a.code, 0, 3⟩
  | .spawn _ a => some ⟨0x24, 0, regCode a, 0, 0⟩
  | .tdec _ a => some ⟨0x25, 0, a.code, 0, 0⟩
  | .wfm _ d a => some ⟨0x26, d.code, a.code, 0, 0⟩
  | .bar _ a => some ⟨0x27, 0, a.code, 0, 0⟩
  | .bara _ a => some ⟨0x27, 0, a.code, 0, 1⟩
  | .barw _ a => some ⟨0x27, 0, a.code, 0, 2⟩
  | .jmpr _ a => some ⟨0x28, 0, a.code, 0, 0⟩
  | .jmprCall _ a => some ⟨0x28, 0, a.code, 0, 1⟩
  | .tgt _ imm => some (fieldsJ 0x29 0 imm)
  | .lps _ a => some ⟨0x2A, 0, a.code, 0, 0⟩
  | .lpsi _ imm => some (fieldsI 0x2B 0 0 imm)
  | .disb _ => some ⟨0x2C, 0, 0, 0, 0⟩
  | .gang2 _ => some ⟨0x2C, 0, 0, 0, 1⟩
  | .gang4 _ => some ⟨0x2C, 0, 0, 0, 2⟩
  | .gang8 _ => some ⟨0x2C, 0, 0, 0, 3⟩
  | .rejn _ => some ⟨0x2C, 0, 0, 0, 4⟩
  | .movrGf _ d a => some ⟨0x2D, regCode d, a.code, 0, 0⟩
  | .movrFg _ d a => some ⟨0x2D, d.code, regCode a, 0, 1⟩
  | .movrGp _ a => some ⟨0x2D, 0, a.code, 0, 2⟩
  | .movrPg _ d => some ⟨0x2D, d.code, 0, 0, 3⟩
  | .srd _ d n => some (fieldsI 0x2E d.code 0 n)
  | .swr _ d n => some (fieldsI 0x2F d.code 0 n)
  | .ssb _ d n => some (fieldsI 0x30 d.code 0 n)
  | .scb _ d n => some (fieldsI 0x31 d.code 0 n)
  | .cmit _ => some ⟨0x32, 0, 0, 0, 0⟩
  | .mver _ => some (fieldsI 0x33 0 0 0)
  | .gpub _ => some (fieldsI 0x33 0 0 1)
  | .grev _ => some (fieldsI 0x33 0 0 2)
  | .spgd _ => some (fieldsI 0x33 0 0 3)
  | .mcall _ n => some (fieldsI 0x33 0 0 n)
  | .brk _ c => some (fieldsJ 0x34 0 c)
  | .fadd _ p d a b => some (fieldsF 0x00 (fDbl p 0) d a b)
  | .fsub _ p d a b => some (fieldsF 0x00 (fDbl p 1) d a b)
  | .fmul _ p d a b => some (fieldsF 0x00 (fDbl p 2) d a b)
  | .fdiv _ p d a b => some (fieldsF 0x00 (fDbl p 3) d a b)
  | .fmin _ p d a b => some (fieldsF 0x00 (fDbl p 4) d a b)
  | .fmax _ p d a b => some (fieldsF 0x00 (fDbl p 5) d a b)
  | .fsqrt _ p d a => some (fieldsF 0x00 (fDbl p 6) d a 0)
  | .fma _ p d a b => some (fieldsF 0x01 (fDbl p 0) d a b)
  | .fms _ p d a b => some (fieldsF 0x01 (fDbl p 1) d a b)
  | .fnma _ p d a b => some (fieldsF 0x01 (fDbl p 2) d a b)
  | .fnms _ p d a b => some (fieldsF 0x01 (fDbl p 3) d a b)
  | .fcmp _ p c d a b => some ⟨0x02, regCode d, regCode a, regCode b, fDbl p (BitVec.ofNat 3 c.code)⟩
  | .fcvt _ k d a => some ⟨0x03, d.code, a.code, 0, BitVec.ofNat 4 k.code⟩
  | .fcls _ p d a => some ⟨0x04, d.code, regCode a, 0, fDbl p 0⟩
  | .fmv _ p d a => some (fieldsF 0x05 (fDbl p 0) d a 0)
  | .fneg _ p d a => some (fieldsF 0x05 (fDbl p 1) d a 0)
  | .fabs _ p d a => some (fieldsF 0x05 (fDbl p 2) d a 0)
  | .fcpys _ p d a b => some (fieldsF 0x05 (fDbl p 3) d a b)
  | .tbld _ slot tc a => some ⟨0x06, 0, a.code, 0, 0#2 ++ BitVec.ofBool tc ++ BitVec.ofBool slot⟩
  | .enc _ t inf d a => some ⟨0x07, d.code, regCode a, 0, BitVec.ofBool inf ++ t.code⟩
  | .dec _ t d a => some ⟨0x08, regCode d, a.code, 0, 0#1 ++ t.code⟩
  | .scal _ d a => some ⟨0x09, d.code, regCode a, 0, 0⟩
  | .vadd _ t d a b => some (fieldsV 0x00 t d a b)
  | .vsub _ t d a b => some (fieldsV 0x01 t d a b)
  | .vmul _ t d a b => some (fieldsV 0x02 t d a b)
  | .vfma _ t d a b => some (fieldsV 0x03 t d a b)
  | .vmin _ t d a b => some (fieldsV 0x04 t d a b)
  | .vmax _ t d a b => some (fieldsV 0x05 t d a b)
  | .vand _ t d a b => some (fieldsV 0x06 t d a b)
  | .vor _ t d a b => some (fieldsV 0x07 t d a b)
  | .vxor _ t d a b => some (fieldsV 0x08 t d a b)
  | .vshl _ t d a b => some (fieldsV 0x09 t d a b)
  | .vshr _ t d a b => some (fieldsV 0x0A t d a b)
  | .vsar _ t d a b => some (fieldsV 0x0B t d a b)
  | .vcmp _ t c m a b =>
    some ⟨0x0C, BitVec.ofNat 3 c.code ++ BitVec.ofNat 3 m.val, regCode a, b.code, b.bit ++ t.code⟩
  | .vsel _ t d a b => some (fieldsV 0x0D t d a b)
  | .vcvt _ td ts d a => some ⟨0x0E, regCode d, regCode a, 0#3 ++ ts.code, fT td⟩
  | .vabs _ t d a => some ⟨0x0F, regCode d, regCode a, 0, 0#1 ++ t.code⟩
  | .vneg _ t d a => some ⟨0x0F, regCode d, regCode a, 0, 1#1 ++ t.code⟩
  | .vred _ t o d a => some ⟨0x10, d.code, regCode a, o.code, fT t⟩
  | .vbc _ t d a => some ⟨0x11, regCode d, a.code, 0, fT t⟩
  | .vperm _ t d a b => some ⟨0x12, regCode d, regCode a, regCode b, fT t⟩
  | .vsld _ t d a b => some ⟨0x13, regCode d, regCode a, b.code, fT t⟩
  | .vins _ t d a b => some ⟨0x14, regCode d, a.code, b.code, 0#1 ++ t.code⟩
  | .vext _ t d a b => some ⟨0x14, d.code, regCode a, b.code, 1#1 ++ t.code⟩
  | .vld _ t d a => some ⟨0x15, regCode d, a.code, 0, fT t⟩
  | .vst _ t d a => some ⟨0x16, regCode d, a.code, 0, fT t⟩
  | .vlds _ t d a b => some ⟨0x17, regCode d, a.code, b.code, fT t⟩
  | .vsts _ t d a b => some ⟨0x18, regCode d, a.code, b.code, fT t⟩
  | .vgth _ t d a b => some ⟨0x19, regCode d, a.code, regCode b, fT t⟩
  | .vsct _ t d a b => some ⟨0x1A, regCode d, a.code, regCode b, fT t⟩
  | .vdotqq _ t d a b => some (fieldsF 0x1B (0#1 ++ t.code) d a b)
  | .vdothh _ d a b => some (fieldsF 0x1C 0 d a b)
  | .vdotnn _ t d a b => some (fieldsF 0x1D (0#1 ++ t.code) d a b)
  | .vtopk _ t d a b => some ⟨0x1E, regCode d, regCode a, b.code, fT t⟩
  | .venc _ t inf d a => some ⟨0x1F, regCode d, regCode a, 0, BitVec.ofBool inf ++ t.code⟩
  | .vdec _ t d a => some ⟨0x20, regCode d, regCode a, 0, 0#1 ++ t.code⟩
  | .vsfu _ fn d a => some ⟨0x21, regCode d, regCode a, 0, 0#1 ++ fn.code⟩
  | .strmOn _ d a => some ⟨0x22, BitVec.ofNat 6 (28 + d.val), a.code, 0, 1⟩
  | .strmOff _ d => some ⟨0x22, BitVec.ofNat 6 (28 + d.val), 0, 0, 0⟩
  | .vmsk _ o d a b => some ⟨0x23, regCode d, regCode a, regCode b, o.code⟩
  | .mmaqq _ d a => some ⟨0x00, d.code, a.code, 0, 0⟩
  | .mmahh _ d a => some ⟨0x01, d.code, a.code, 0, 0⟩
  | .mmann _ d a => some ⟨0x02, d.code, a.code, 0, 0⟩
  | .mzero _ a => some ⟨0x03, 0, a.code, 0, 0⟩
  | .mwait _ d a => some ⟨0x04, d.code, a.code, 0, 0⟩
  | .mpoll _ d a => some ⟨0x05, d.code, a.code, 0, 0⟩
  | .mtbl _ p a => some ⟨0x06, 0, a.code, 0, BitVec.ofNat 4 p.val⟩
  | .mlsf _ d a b => some ⟨0x07, regCode d, a.code, b.code, 0⟩
  | .mst _ d a b => some ⟨0x08, d.code, a.code, b.code, 0⟩
  | .copy _ d a => some ⟨0x10, d.code, a.code, 0, 0⟩
  | .cwait _ d a => some ⟨0x11, d.code, a.code, 0, 0⟩
  | .cpoll _ d a => some ⟨0x12, d.code, a.code, 0, 0⟩
  | .bwait _ z a => some ⟨0x13, 0, a.code, 0, 0#2 ++ z.code⟩
  | .bset _ z a => some ⟨0x14, 0, a.code, 0, 0#2 ++ z.code⟩
  | .bstat _ d a => some ⟨0x15, d.code, a.code, 0, 0⟩
  | .gcall _ d a b => some ⟨0x00, regCode d, regCode a, regCode b, 0⟩
  | .gret _ => some ⟨0x01, 0, 0, 0, 0⟩
  | .dsr _ d a f => some ⟨0x02, d.code, a.code, 0, f⟩
  | .cue _ d a => some ⟨0x03, d.code, regCode a, 0, 0⟩
  | .emit _ a b => some ⟨0x04, 0, a.code, b.code, 0⟩
  | .rng _ d a b => some ⟨0x05, d.code, a.code, b.code, 0⟩
  | .hpost _ a b => some ⟨0x06, 0, a.code, regCode b, 0⟩
  | .mret _ => some ⟨0x07, 0, 0, 0, 0⟩
  | .invpg _ a b => some ⟨0x08, 0, a.code, b.code, 0⟩
  | .keyld _ a b => some ⟨0x09, 0, a.code, b.code, 0⟩
  | .keyz _ a => some ⟨0x0A, 0, a.code, 0, 0⟩
  | .ctxsv _ a b => some ⟨0x0B, 0, a.code, b.code, 0⟩
  | .ctxld _ a b => some ⟨0x0C, 0, a.code, b.code, 0⟩
  | .halt _ => some ⟨0x0D, 0, 0, 0, 0⟩
  | .hrel _ a => some ⟨0x0E, 0, a.code, 0, 0⟩
  | _ => none

/-- The base word of a core instruction. -/
def Instr.base? (i : Instr) : Option Base :=
  match i.pre?, i.fields? with
  | some w, some x => some ⟨w.s, w.nx.code, x.op, x.d, x.a, x.b, x.f⟩
  | _, _ => none

/-- The base word as tval reports it; 0 for what is no core instruction. -/
def Instr.baseWord (i : Instr) : Word :=
  match i.base? with
  | some x => (wordOf x.hi x.lo).setWidth 64
  | none => 0

/-- The parcels of a core instruction in address order: its chain, then its base word (R36). -/
def encode (i : Instr) : List Parcel :=
  match i.pre?, i.base? with
  | some w, some x => w.chain.map Pfx.toParcel ++ [x.hi, x.lo]
  | _, _ => []

/-- The instruction read from a table word: the table gives a base word of page 0 as one 32-bit number whose high
parcel comes first in the stream. -/
def decodeTableWord (nbits w : Nat) : Option Instr :=
  if nbits = 32 then
    let v := BitVec.ofNat 32 w
    match decodeParcels [v.extractLsb' 16 16, v.extractLsb' 0 16] with
    | some (.illegalInstruction ..) => decodeWaitp v
    | r => r
  else none

end Sys2Proof
end

