-- ==== Sys2Proof/Config.lean ====
section
/-!
DEFINITION. What the spec leaves open: constants without a body, so that nothing can be proved of their values.
-/

namespace Sys2Proof.Config

/-- A byte of ciphertext, by key, address and counter: what an unprotected read finds on a line written protected, and
what a protected read finds on one written otherwise (R240; log 19). -/
opaque cipherByte : BitVec 256 → Nat → Nat → BitVec 8

/-- The n-th free value of the run, applied to State.fresh (log 2). -/
opaque freeWord : Nat → BitVec 64

/-- A 32-byte value the security controller draws, applied to State.fresh: nonces, checkpoint keys (R292, R315). -/
opaque freeBytes32 : Nat → BitVec 256

/-- The device's RSA-3072 signature of a report's bytes (R293; log 19). -/
opaque signature : List (BitVec 8) → BitVec 3072

/-- SHA-256 of the identity public key (R293). -/
opaque identityDigest : BitVec 256

/-- The endpoints that a partition's commands may name (R322; log 113). -/
opaque endpointOf : Nat → BitVec 48 → Bool

/-- The device's own endpoint identifier and the profiles it offers, as it states them at link-up (R333, R334; log 114). -/
opaque endpointId : BitVec 48
opaque ownProfiles : BitVec 3

/-- The credits a link starts with on a VC (R332, R345; log 117). -/
opaque fullCredits : Fin 2 → Nat

/-- The monitor's version and the first word of its measurement, as MVER reports them (R215; log 20). -/
opaque monitorVersion : BitVec 64
opaque monitorMeasurement : BitVec 32

/-- A special function's result and flags where the interval arithmetic of the model does not decide the rounding:
function number and argument (R147; log 21). -/
opaque sfuValue : Nat → BitVec 32 → BitVec 32 × BitVec 5

/-- Which of two codes ENC takes on a tie where bit 0 does not decide (R124; log 23): the lower and the higher code. -/
opaque encTieHigh : Nat → Nat → Bool

/-- Digest of a record whose layout the spec does not give: a domain-creation record, a partition signature, by the numbers
it is made from (R293, R314; log 45). -/
opaque digestOf : List Nat → BitVec 256

/-- The bytes of TRAINDATA a stack's training leaves, by stack and place (R342; log 1). -/
opaque trainedByte : Nat → Nat → BitVec 8

/-- The package's power averaged over a millisecond, in W, by the millisecond's number (R349; log 128). -/
opaque packagePower : Nat → BitVec 12

/-- What a read finds at a place of device register space for which the spec gives the reader no register, by the clock,
the reader's core, bank and instruction count, and the address (R222; log 28). -/
opaque deviceWord : List Nat → BitVec 64

end Sys2Proof.Config
end

