-- ==== Sys2Proof/Machine/CoreState.lean ====
section
/-!
DEFINITION. The state of a core and of what it shares with its troupe and cluster, as plain data (R10 to R33, R42,
R86, R90, R106, R110, R154 to R175, R189, R194, R197, R214, R220, R227, R234, R237, R271, R281, R283).
-/

namespace Sys2Proof.Machine

/-- Bytes by address, addresses rising, no zero byte listed: an unlisted byte reads 0. -/
abbrev Memory := List Host.Cell

/-- Where a byte lies: a physical address, an offset in a core's scratchpad, an offset in a troupe's accumulator
memory (R222). -/
inductive Place where
  | phys (pa : Nat)
  | scratch (core : CoreId) (off : Nat)
  | acc (troupe : TroupeId) (off : Nat)
  deriving DecidableEq, Repr

/-! ### Thread contexts -/

/-- A decode-table slot (R106): 256 WF19 values, width 4 or 8, two's complement or sign-magnitude, valid. -/
structure Table where
  entries : Vector (BitVec 19) 256
  w4 : Bool
  twos : Bool
  valid : Bool
  deriving DecidableEq, Repr

/-- A domain-stack entry (R197). -/
structure DomEntry where
  retpc : Word
  lc : Word
  ls : Word
  caller : Tag
  callee : Tag
  lfloor : Nat
  pfloor : Nat
  gate : BitVec 8
  cpart : BitVec 5
  sreg : Fin 32
  window : BitVec 31
  fflg : BitVec 5
  fen : BitVec 5
  region : BitVec 32
  lsf : BitVec 32
  left : BitVec 63
  limited : Bool
  handle : Word
  deriving DecidableEq, Repr

/-- `gstat` (R31). -/
structure Gstat where
  inGang : Bool
  leader : Bool
  size : BitVec 2
  detached : Bool
  reason : BitVec 4
  member : BitVec 3
  cause : BitVec 8
  deriving DecidableEq, Repr

/-- A pending verification of a protected line (R91, R241); `injected` where an armed injection made it fail (R221). -/
structure Verif where
  line : Nat
  ok : Bool
  injected : Bool := false
  deriving DecidableEq, Repr

/-- A strip fetched ahead, with the verification its pop leaves pending (R149). -/
structure Strip where
  data : BitVec 512
  check : Option Verif
  deriving DecidableEq, Repr

/-- One register of v28 to v31 in stream mode (R148, R149): the pattern, the strips popped, and strips fetched ahead. -/
structure Stream where
  on : Bool
  base : Word
  inner : BitVec 32
  outer : BitVec 32
  istride : BitVec 32
  ostride : BitVec 32
  popped : Nat
  ahead : List Strip
  deriving DecidableEq, Repr

/-- The registers and CSRs of a context, with what its save frame and its restore image carry (R14, R15, R220,
R302). -/
structure Regs where
  pc : Word
  g : Vector Word 32
  f : Vector Word 32
  v : Vector (BitVec 512) 32
  p : Vector Bool 8
  m : Vector Word 8
  lc : Word
  ls : Word
  t0 : Word
  link : List Word
  loops : List (Word × Word)
  dom : List DomEntry
  ta : Table
  tb : Table
  fflg : BitVec 5
  fen : BitVec 5
  frm : BitVec 3
  valw : BitVec 3
  lsf : BitVec 32
  malw : BitVec 3
  gwin : BitVec 2
  gbud : BitVec 10
  tcause : Word
  tval : Word
  tpc : Word
  instret : Word
  gfa : Word
  gstat : Gstat
  sh : Vector Word 8
  bucket : BitVec 16
  chan : BitVec 6
  region : BitVec 32
  mrow : Word
  mgst : Word
  rplyMode : Bool
  rplyMismatch : Bool
  rplyBeyond : Bool
  guardPending : Bool
  /-- Barriers with an arrival record, and the phase of each (R189). -/
  arrOpen : BitVec 32
  arrPhase : BitVec 32
  streams : Vector Stream 4
  /-- The domain tag the context runs under (R23, R199). -/
  tag : Tag
  deriving DecidableEq, Repr

/-- The states of R17. -/
inductive CtxState where
  | dormant | ready | parked | blocked | held | saved
  deriving DecidableEq, Repr

/-- What sent a message, and so what its refusal returns to: a context of a core, an engine of a troupe, a walker, the
network interface for a held context, a stage manager, a suspended copy command, the monitor (R21, R112, R160, R181, R238,
R260, R326). -/
inductive Origin where
  | core
  | engine (troupe : TroupeId) (copy : Bool)
  | walker (troupe : TroupeId) (copy : Bool)
  | fpNotice (core : CoreId) (ctx : CtxId)
  | stage (die : DieId) (share : Nat)
  | hostCopy (num : Nat)
  | monitor
  deriving DecidableEq, Repr

/-- A message: destination core address, header (R179), payload, charged region (R33), and the stream key that seals it;
none where the receiver's own slot does (R285). -/
structure Message where
  dest : BitVec 19
  header : Word
  payload : List Word
  region : BitVec 32
  origin : Origin
  key : Option (BitVec 256) := none
  deriving DecidableEq, Repr

/-- What a BLOCKED context waits on (R370). A wait before the effect issues its instruction again; the others keep
their condition and finish the instruction that began them. -/
inductive Wait where
  /-- Before the effect. While `committing`, the commit point lets the outbox leave (R176). -/
  | reissue (committing : Bool)
  /-- A message of a channel; `since` orders the waits of a core, `got` is the message an arrival gave it (R182). -/
  | message (i : Instr) (chan : BitVec 6) (since : Nat) (got : Option Message)
  /-- A phase of a barrier; `ended` once it has completed (R189). -/
  | phase (i : Instr) (bar : Fin 32) (ph : Bool) (ended : Bool)
  | job (i : Instr) (id : Word)
  | handle (i : Instr) (h : Fin 32) (st : HandleState)
  | cue (i : Instr) (n : Word) (token : Word)
  /-- A detached follower at the REJN of this address (R153). -/
  | rejoin (addr : Word)
  /-- An END whose long results have not returned (R25). -/
  | ending
  /-- A killed activation whose store buffer waits for a busy tile (R25, R156). -/
  | dying
  deriving DecidableEq, Repr

/-- A register as R48 names it in tval: file code and number. -/
structure RegRef where
  file : Nat
  num : Nat
  deriving DecidableEq, Repr

/-- The result of an MLSF: the tile and row group, the register it will set, and the count of the queue entries accepted
before it (R171). -/
structure FlagRead where
  tile : Fin 16
  rg : Nat
  d : Fin 32
  order : Nat
  deriving DecidableEq, Repr

/-- A long-latency result that has not returned, with the lost-significance bits it will set, and the flags of an MLSF
(R47, R130, R171). -/
structure LongResult where
  lsf : BitVec 32
  flags : Option FlagRead := none
  deriving DecidableEq, Repr

/-- A store in the store buffer (R86, R89, R93, R250): the page's memory type, and the outermost domain and the channel of
the activation that issued it (R254), and the launch share that counts that activation (R260). -/
structure Store where
  seq : Nat
  place : Place
  bytes : List Byte
  release : Bool
  acquire : Bool
  ty : BitVec 2
  prot : Bool
  tag : Tag
  outer : Tag
  chan : BitVec 6
  launch : Option (DieId × Nat)
  deriving DecidableEq, Repr

/-- One aligned 8-byte unit of a scratchpad as it stood before a write (R90). -/
structure Undo where
  core : CoreId
  off : Nat
  bytes : List Byte
  deriving DecidableEq, Repr

/-- A task record, with the region it is charged to, its domain and its push time (R27, R185, R265). -/
structure TaskRec where
  slots : Vector Word 4
  region : BitVec 32
  pushed : Nat
  deriving DecidableEq, Repr

/-- What an outbox entry carries (R175). -/
inductive OutBody where
  | message (m : Message)
  | task (slots : Vector Word 4)
  | dec (core : CoreId) (off : Nat)
  deriving DecidableEq, Repr

/-- An outbox entry: `after` counts the stores issued before it (R176). -/
structure OutEntry where
  body : OutBody
  region : BitVec 32
  tag : Tag
  after : Nat
  deriving DecidableEq, Repr

/-- An accepted item that has not started (R20, R181, R184). -/
structure Item where
  msg : Message
  accepted : Nat
  deriving DecidableEq, Repr

/-- An enabled FP event (R111, R112): the flags, the address and the operands of the notice, whether it was sent, and the
clock before which a refused one is not sent again (R114). -/
structure FpEvent where
  flags : BitVec 5
  addr : Word
  opA : Word
  opB : Word
  sent : Bool
  again : Nat
  deriving DecidableEq, Repr

/-- An instruction forwarded to a gang follower with the leader's address and next address; the latter is none until the
leader has it, and `mine` is the follower's own once it has executed the instruction before that (R152). -/
structure Forwarded where
  instr : Instr
  addr : Word
  next : Option Word
  mine : Option Word
  deriving DecidableEq, Repr

/-- The restore image of the last commit point or start, with the item that started the activation (R302). -/
structure RestorePoint where
  regs : Regs
  item : Option Item
  atStart : Bool
  deriving DecidableEq, Repr

/-- A thread context (R14, R17). -/
structure Context where
  regs : Regs
  state : CtxState
  wait : Option Wait
  halted : Bool
  /-- Stopped for a request, and the live-mask index of the safe point it stopped at (R270, R273). -/
  stopped : Bool
  safe : Option (BitVec 8)
  pending : List RegRef
  outstanding : List LongResult
  outbox : List OutEntry
  undo : List Undo
  storeBuf : List Store
  storeSeq : Nat
  verifs : List Verif
  restorable : Bool
  restore : Option RestorePoint
  /-- Rolled back to this restore point; of a DORMANT context, to its start, with the item redelivered (R277, R303). -/
  rolledBack : Bool
  event : Option FpEvent
  queue : List Forwarded
  /-- A gang leader has forwarded the instruction it waits in (R152). -/
  sentOn : Bool
  /-- The launch share that counts this activation (R260). -/
  launch : Option (DieId × Nat)
  deriving DecidableEq, Repr

/-! ### The core -/

/-- The state a core holds once for each domain (R13, R184, R227, R280). -/
structure DomState where
  board : Vector Word 64
  pend : BitVec 64
  deque : List TaskRec
  tvec : Word
  fpsup : Word
  slmt : Word
  guard : BitVec 2048
  /-- The acceptance shadow: present while resident and not installed after having been installed. -/
  shadow : Bool
  deriving DecidableEq, Repr

/-- A protection window (R281). -/
structure Window where
  base : BitVec 46
  limit : BitVec 46
  dtag : Tag
  rd : Bool
  wr : Bool
  ex : Bool
  space : Bool
  v : Bool
  clash : Bool
  deriving DecidableEq, Repr

/-- A key slot (R219, R283, R286). -/
structure KeySlot where
  tag : Tag
  loaded : Bool
  halted : Bool
  used : Nat
  data : BitVec 256
  tweak : BitVec 256
  stream : BitVec 256
  deriving DecidableEq, Repr

/-- A refusal held at its sender's network interface, with the credit it holds and the clock before which it is not
tried again (R181). -/
structure HeldRefusal where
  credit : Option CoreId
  msg : Message
  again : Nat
  deriving DecidableEq, Repr

/-- A pending or served entry to M mode (R213, R273). -/
structure MEntry where
  cause : BitVec 8
  ctx : CtxId
  /-- A core entry serves no context (R273). -/
  core : Bool
  epc : Word
  val : Word
  /-- The answer that raised an entry of cause 0x21 (R212). -/
  answer : Option Message := none
  deriving DecidableEq, Repr

/-- `pmreq` but for its write-only field (R271). -/
structure Pmreq where
  stop : BitVec 8
  stopped : BitVec 8
  forced : Bool
  smreq : Bool
  deriving DecidableEq, Repr

/-- A cached translation (R234): virtual base and page size, tag, and the leaf. -/
structure TlbEntry where
  tag : Tag
  va : Nat
  size : Nat
  pa : Nat
  r : Bool
  w : Bool
  x : Bool
  ty : BitVec 2
  prot : Bool
  deriving DecidableEq, Repr

/-- A core (R13). Context 8 of `ctxs` is the M-mode bank (R213). -/
structure Core where
  ctxs : Vector Context 9
  scratch : Memory
  scratchPoison : List Nat
  inbox : List Item
  refusals : List HeldRefusal
  credits : Nat
  doms : List (Nat × DomState)
  installed : Tag
  windows : Vector Window 16
  keys : Vector KeySlot 64
  keysel : Fin 64
  mctx : CtxId
  tdsp : BitVec 4
  tdom : Tag
  mcause : BitVec 8
  mepc : Word
  mtval : Word
  mtvec : Word
  dstkb : BitVec 40
  einja : BitVec 52
  einjType : BitVec 2
  einjArm : Bool
  einjFired : Bool
  pmreq : Pmreq
  spbud : BitVec 13
  stopClock : Option Nat
  stopBudget : Bool
  /-- A HALT has stopped issue on the other contexts and waits for their results (R217). -/
  halting : Bool
  mmode : Option MEntry
  mqueue : List MEntry
  saveCounter : Word
  lastStart : Vector (Option Nat) 8
  lastSteal : Port
  lastTheft : Option Nat
  /-- The clock of the last start, or theft that gave none: one start a clock (R266, R267). -/
  startClock : Option Nat
  /-- The context that issued last, the M bank in its served context's place (R17, R213). -/
  lastIssue : CtxId
  /-- Words waiting at the four ports, oldest first, with the writer's tag (R10, R42). -/
  ports : Vector (List (Word × Tag)) 4
  tlb : List TlbEntry
  mismatches : List Nat
  degraded : Bool
  retired : Bool
  /-- Stopped until core reset after a trap in M mode (R213). -/
  dead : Bool
  resetClock : Nat
  deriving DecidableEq, Repr

/-! ### The troupe -/

/-- A table pair (R163). -/
structure TablePair where
  a : Table
  b : Table
  tag : Tag
  deriving DecidableEq, Repr

inductive MatKind where
  | qq | hh | nn
  deriving DecidableEq, Repr

/-- The descriptor of a matrix job (R162). -/
structure TileDesc where
  abase : Word
  bbase : Word
  ascale : Word
  bscale : Word
  astride : Nat
  bstride : Nat
  k : Nat
  tile : Fin 16
  pair : Fin 4
  zfirst : Bool
  notify : Bool
  chan : BitVec 6
  handle : Option (Fin 32)
  asstride : Nat
  bsstride : Nat
  deriving DecidableEq, Repr

/-- The rows MST writes (R172). -/
structure StDesc where
  tile : Fin 16
  first : Nat
  count : Nat
  fmt : BitVec 2
  dstride : Int
  dst : Word
  deriving DecidableEq, Repr

inductive MatWork where
  | mma (kind : MatKind) (d : TileDesc) (alw : BitVec 3) (gwin : BitVec 2) (gbud : BitVec 10)
  | zero (tile : Fin 16)
  | table (pair : Fin 4) (p : TablePair)
  | st (d : StDesc)
  deriving DecidableEq, Repr

/-- Who issued an engine job and what it is charged to (R33, R158, R166). -/
structure JobOwner where
  core : CoreId
  ctx : CtxId
  tag : Tag
  region : BitVec 32
  deriving DecidableEq, Repr

inductive JobPhase where
  | queued | running | suspended
  deriving DecidableEq, Repr

/-- A translation fault that suspends a job (R238, R239): address, write, code, clock, whether the notice is out or
accepted, the clock before which a refused one is not sent again, the clock of the last walk. -/
structure JobFault where
  va : Nat
  write : Bool
  code : BitVec 2
  since : Nat
  noticed : Bool
  again : Nat
  walked : Nat
  deriving DecidableEq, Repr

structure MatEntry where
  owner : JobOwner
  work : MatWork
  seq : BitVec 24
  /-- Its number among all entries the queue has accepted. -/
  order : Nat
  /-- The clock it was accepted at: it can issue from the next. -/
  accepted : Nat
  phase : JobPhase
  rg : Nat
  flags : BitVec 5
  lsnew : Bool
  /-- Stall clocks so far, and the issue clocks its row group still needs (R173). -/
  stall : Nat
  left : Nat
  fault : Option JobFault
  deriving DecidableEq, Repr

/-- The copy descriptor (R190). -/
structure CopyDesc where
  src : Word
  dst : Word
  rowBytes : Nat
  rows : Nat
  sspace : Fin 5
  dspace : Fin 5
  chan : BitVec 6
  notify : Bool
  handle : Option (Fin 32)
  sstride : Nat
  dstride : Nat
  deriving DecidableEq, Repr

structure CopyEntry where
  owner : JobOwner
  desc : CopyDesc
  seq : BitVec 24
  phase : JobPhase
  rows : Nat
  fault : Option JobFault
  deriving DecidableEq, Repr

/-- A retired job's status, held until its sequence number is 256 behind (R159, R193). -/
structure JobStatus where
  seq : BitVec 24
  owner : JobOwner
  status : Word
  stall : Nat
  taken : Bool
  deriving DecidableEq, Repr

/-- A buffer handle (R194). -/
structure Handle where
  state : HandleState
  held : Bool
  tag : Tag
  deriving DecidableEq, Repr

structure Troupe where
  acc : Memory
  flags : Vector (BitVec 4096) 16
  owners : Vector (Option Tag) 16
  pairs : Vector TablePair 4
  mat : List MatEntry
  matSeq : Nat
  /-- Entries of the matrix queue accepted so far (R157, R171). -/
  matOrder : Nat
  matDone : List JobStatus
  copies : List CopyEntry
  copySeq : Nat
  copyDone : List JobStatus
  /-- Refused completions, each with the clock before which it is not sent again (R160). -/
  completions : List (Nat × Message)
  handles : Vector Handle 32
  tlb : List TlbEntry
  accPoison : List Nat
  /-- Whether the troupe is active, the clock since which it has issued nothing, the clock of its request for admission
  (R346, R347). -/
  active : Bool
  quietFrom : Nat
  request : Option Nat
  /-- Issue clocks in the longest window of the governor, by stretch of 64 clocks (R173). -/
  issued : List (Nat × Nat)
  deriving DecidableEq, Repr

/-- A matrix job stands at the head of the queue, running: it has a row group to issue. -/
def Troupe.jobReady (t : Troupe) : Bool :=
  match t.mat with
  | e :: _ => e.phase = .running && (match e.work with | .mma .. => true | _ => false)
  | [] => false

/-- A request for admission stands only while a job is ready (R346). -/
def Troupe.dropRequest (t : Troupe) : Troupe := if t.jobReady then t else { t with request := none }

/-- An inactive troupe whose job is ready requests admission, from the clock it began to (R346). -/
def Troupe.asks (t : Troupe) (clock : Nat) : Troupe :=
  if t.jobReady && !t.active then { t with request := some (t.request.getD clock) } else t.dropRequest

/-- A troupe that has issued nothing for 4,096 clocks is inactive (R346). -/
def Troupe.rest (t : Troupe) (clock : Nat) : Troupe :=
  if t.active && t.quietFrom + 4096 ≤ clock then { t with active := false } else t

/-! ### The cluster -/

/-- A cluster barrier (R189). -/
structure Barrier where
  phase : Bool
  count : Nat
  total : Nat
  tag : Option Tag
  deriving DecidableEq, Repr

/-- A shootdown: SHVA, DTAG, ALL and who started it (R237). -/
structure Shootdown where
  va : Nat
  tag : Tag
  all : Bool
  deriving DecidableEq, Repr

/-- A cached pointer entry (R234): level 0 to 3, tag, virtual address above, table base. -/
structure WalkEntry where
  level : Nat
  tag : Tag
  va : Nat
  base : Nat
  deriving DecidableEq, Repr

structure Cluster where
  barriers : Vector Barrier 32
  drbase : BitVec 33
  shva : BitVec 40
  dtag : Tag
  all : Bool
  refused : Bool
  running : Option Shootdown
  waiting : List Shootdown
  walk : List WalkEntry
  gated : Bool
  waking : Bool
  /-- Writes of the translation block by functions, made while the cluster was gated or waking: function, offset, value (R351). -/
  held : List (FuncId × Nat × Word)
  deriving DecidableEq, Repr

end Sys2Proof.Machine
end

