-- ==== Sys2Proof/Machine/DieState.lean ====
section
/-!
DEFINITION. The state of a die and of the device's memory, protection and reliability units, as plain data
(R208, R210, R220, R240, R261, R284, R292, R293, R306, R308).
-/

namespace Sys2Proof.Machine

/-! ### Error log and cue sheet -/

/-- An error record (R307): its eight slots. -/
structure LogRecord where
  slots : Vector Word 8
  deriving DecidableEq, Repr

/-- The error log of a die (R306): the records still held, by number mod 4,096. -/
structure ErrorLog where
  records : List (Nat × LogRecord)
  count : Nat
  read : Nat
  lost : Nat
  vector : BitVec 6
  enable : Bool
  deriving DecidableEq, Repr

inductive StreamState where
  | active | lost | ended | replay
  deriving DecidableEq, Repr

/-- One cue of a stream: its entry (R207), whether it was emitted, whether a journal supplied it, and the number of its
output record in the host queue, once posted (R312). -/
structure Cue where
  ord : Nat
  entry : Vector Word 4
  emitted : Bool
  replayed : Bool
  record : Option (BitVec 32) := none
  deriving DecidableEq, Repr

/-- A flit sent and not acknowledged: first and last ordinal, clock of the last sending, resends (R309). -/
structure CueFlit where
  first : Nat
  last : Nat
  sent : Nat
  resends : Nat
  deriving DecidableEq, Repr

/-- A cue stream (R308). `cues` holds the cues above TRUNCORD; `journal` the ordinals of journalled ones not yet consumed
(R313). -/
structure CueStream where
  seqid : BitVec 32
  part : PartId
  outq : QueueId
  ustudy : BitVec 48
  state : StreamState
  ended : Bool
  nextOrd : Nat
  ackOrd : Nat
  truncOrd : Option Nat
  ckref : Word
  ckord : Option Nat
  retainBase : Nat
  retainSize : Nat
  retainFull : Bool
  cues : List Cue
  journal : List Nat
  /-- Lowest ordinal not yet sent in a flit, and the clock at which the first of them arrived. -/
  unsent : Nat
  firstClock : Nat
  flits : List CueFlit
  /-- The clock of the last acknowledgement that advanced ACKORD (R309), and the highest position truncated (R312). -/
  acked : Nat
  truncPos : Option Nat
  deriving DecidableEq, Repr

/-- A record waiting in a die's posting buffer, with the cue an output record is of (R209, R210). -/
structure Post where
  queue : QueueId
  slots : Vector Word 4
  cue : Option Word
  deriving DecidableEq, Repr

/-- A die's share of one LAUNCH (R259, R260): activations not yet ended, refused messages to retry, and the packet with
its queue, region, bucket, handler, priority and shapes. A refused message has the clock before which it is not sent again. -/
structure LaunchShare where
  queue : QueueId
  seq : BitVec 32
  slots : Vector Word 16
  region : BitVec 32
  bucket : BitVec 16
  handler : BitVec 32
  prio : Nat
  shapes : Vector Word 8
  left : Nat
  held : List (Nat × Message)
  deriving DecidableEq, Repr

/-- An interrupt vector (R329): HOLDOFF, COUNT, PENDING, its mask bit, and the clock of its oldest pending event. -/
structure IrqVector where
  holdoff : Nat
  count : Nat
  pending : Nat
  masked : Bool
  since : Option Nat
  deriving DecidableEq, Repr

/-! ### Frames, protected lines, keys -/

/-- One level of a save frame (R220). The register part is present on the innermost level only; the frame stands as
a record in place of its ciphertext, with the stream key that seals it and the bytes written over it since. -/
structure Frame where
  /-- The address of the save's level 0. -/
  base : Nat
  level : Nat
  depth : Nat
  ctx : CtxId
  core : CoreId
  tag : Tag
  key : Option (BitVec 256)
  overlaid : List (Nat × Byte)
  counter : Word
  regs : Option Regs
  link : List Word
  loops : List (Word × Word)
  entry : Option DomEntry
  /-- The state of R17 with its wait, the outbox, the undo log and the held event of the innermost level. -/
  state : CtxState
  wait : Option Wait
  outbox : List OutEntry
  undo : List Undo
  event : Option FpEvent
  region : BitVec 32
  chan : BitVec 6
  launch : Option (DieId × Nat)
  /-- The context was freed: the frame stays valid for any DORMANT context of the core (R271). -/
  freed : Bool
  /-- The activation stands in this save alone: it has not been restored from it. -/
  live : Bool
  deriving DecidableEq, Repr

/-- The XTS keys a die's encryption engines hold for a tag (R284). -/
structure EngineKey where
  tag : Tag
  data : BitVec 256
  tweak : BitVec 256
  deriving DecidableEq, Repr

/-- What stands beside a 64-byte line of DRAM or a vault (R240, R343): its counter, and the keys of its last protected
write, none where it was last written unprotected. A line not listed is fresh. -/
structure LineMeta where
  counter : Nat
  writer : Option EngineKey
  deriving DecidableEq, Repr

/-! ### Domains and partitions -/

structure Domain where
  part : PartId
  killed : Bool
  /-- Highest gate generation used under the tag (R278). -/
  lastGen : BitVec 24
  /-- The window plan of DOMAIN_CREATE (R293). -/
  plan : List Window
  deriving DecidableEq, Repr

inductive PartState where
  | unlocked | locked | run | error
  deriving DecidableEq, Repr

/-- Measurements as read at a clock: the record of a partition (R293, R294). -/
structure Evidence where
  clock : Nat
  meas : Vector (BitVec 256) 5
  pmeas : BitVec 256
  deriving DecidableEq, Repr

/-- A partition as the security controller holds it (R292, R293, R295, R323). -/
structure Partition where
  state : PartState
  nonce : BitVec 256
  pmeas : BitVec 256
  reports : Nat
  /-- Assigned clusters by die, queues, and the declared ALW values (R323). -/
  clusters : BitVec 128
  valw : BitVec 3
  malw : BitVec 3
  replay : Bool
  phase : BitVec 3
  restarts : BitVec 16
  done : Nat
  total : Nat
  gated : Bool
  record : Evidence
  gateRecord : Evidence
  /-- The key that seals the partition's cue entries (R308). -/
  journalKey : BitVec 256
  deriving DecidableEq, Repr

end Sys2Proof.Machine
end

