-- ==== Sys2Proof/Machine/HostState.lean ====
section
/-!
DEFINITION. The state of the host side, the stage managers, the fabric, bring-up and power, as plain data
(R259, R293, R313, R315, R319, R320, R328, R330 to R334, R337 to R351).
-/

namespace Sys2Proof.Machine

/-! ### Queues -/

/-- A command queue (R319). `done` counts, by packet sequence, the dies that have completed their share (R321). -/
structure CmdQueue where
  func : FuncId
  base : Word
  log2n : BitVec 5
  vec : BitVec 6
  run : Bool
  stopped : Bool
  reason : BitVec 4
  tail : BitVec 32
  done : List (Nat × Nat)
  deriving DecidableEq, Repr

/-- A completion queue (R328). -/
structure CplQueue where
  func : FuncId
  base : Word
  log2n : BitVec 5
  vec : BitVec 6
  en : Bool
  head : BitVec 32
  tail : BitVec 32
  shadow : Word
  deriving DecidableEq, Repr

/-! ### Stage managers -/

/-- A packet as a die has read it: address, sequence number, slots (R320, R321). -/
structure Packet where
  addr : Nat
  seq : BitVec 32
  slots : Vector Word 16
  deriving DecidableEq, Repr

/-- What a queue's thread on a die does with its packet (R320, R325). -/
inductive ThreadState where
  | idle
  /-- Read and not started. -/
  | fetched (p : Packet)
  /-- A WAIT that polls. -/
  | polling (p : Packet)
  /-- A FENCE or SIGNAL: `met` once this die has added 1 to DECISION. -/
  | fencing (p : Packet) (met : Bool)
  deriving DecidableEq, Repr

/-- A stage manager's thread for a queue: fetch count, packets to pass over, and the registers of its hart
(R320, R324, R330). -/
structure Thread where
  count : BitVec 32
  skip : Nat
  state : ThreadState
  x : Vector Word 32
  pc : Word
  mcause : Word
  mepc : Word
  mtval : Word
  mtvec : Word
  /-- `mscratch`, MIE and MPIE of `mstatus`, the retired instructions, what `mcycle` is ahead of the clock, and the reservation of
  an LR: its address and the bytes it read (log 119). -/
  mscratch : Word
  mie : Bool
  mpie : Bool
  instret : Word
  cycles : Word
  reserved : Option (Nat × List Byte)
  deriving DecidableEq, Repr

/-! ### Gornath fabric -/

/-- A flit sent and not acknowledged: KIND, SEQ, VC, the clock of its sending, its replays (R332). -/
structure SentFlit where
  kind : BitVec 8
  seq : BitVec 16
  vc : Fin 2
  sent : Nat
  replays : Nat
  deriving DecidableEq, Repr

/-- A link (R332, R334, R344, R345): the highest sequence received intact and the highest acknowledged by the peer;
`running` is the step that runs or ran last, which STEP may have moved on from; `replaying` holds sequence numbers that failed
their CRC here, with the replays of each; `stated` what the device stated at link-up, its identifier and profiles. -/
structure Link where
  step : BitVec 3
  running : BitVec 3
  busy : Bool
  fail : Bool
  up : Bool
  auto : Bool
  disable : Bool
  peer : BitVec 48
  profiles : BitVec 3
  replays : Nat
  downs : Nat
  failedAt : Option Nat
  rxSeq : BitVec 16
  txSeq : BitVec 16
  replaying : List (BitVec 16 × Nat)
  stated : Option (BitVec 48 × BitVec 3)
  /-- The KINDs of the flits that wait for the link on each VC; the replay buffer of 64; the SEQ of the next flit. -/
  waiting : Vector (List (BitVec 8)) 2
  buffer : List SentFlit
  nextSeq : BitVec 16
  /-- Flits sent on each VC whose credits the peer has not returned, and received ones whose credits are owed to it. -/
  spent : Vector Nat 2
  owed : Vector Nat 2
  /-- The clock of the last ACK. -/
  ackClock : Nat
  deriving DecidableEq, Repr

/-- What a transfer carries or asks for (R315, R333). -/
inductive TransferBody where
  /-- A WRITE of bytes at an offset of the endpoint's area. -/
  | write (off : Nat) (data : List Byte)
  /-- A READ of a PEER_COPY: its offset and length at the endpoint. -/
  | read (off len : Nat)
  /-- A READ of a stream's journal (R313). -/
  | journal (die : DieId) (slot : Nat) (first : Nat)
  /-- Data that answers a peer's READ (R333). -/
  | answer (off : Nat) (data : List Byte)
  /-- A piece of a checkpoint image: its offset and length, and where its link's stripe ends; the manifest (R315, R316). -/
  | image (off len stop : Nat)
  | manifest
  deriving DecidableEq, Repr

/-- A transfer not yet acknowledged, on the link that carries it, with the sending endpoint (R333). -/
structure Transfer where
  tag : Word
  link : Fin 16
  body : TransferBody
  src : BitVec 48
  deriving DecidableEq, Repr

/-- What a cue unit sends to an understudy (R309, R310, R312): an opening flit with CKREF and CKORD, a flit of entries sealed
under a journal key, a message to drop the journal up to an ordinal, a closing flit. -/
inductive CueMessage where
  | opening (ckref : Word) (ckord : Option Nat)
  | entries (first last : Nat) (key : BitVec 256)
  | drop (upTo : Nat)
  | closing
  deriving DecidableEq, Repr

structure CueSend where
  endpoint : BitVec 48
  die : DieId
  slot : Nat
  body : CueMessage
  deriving DecidableEq, Repr

/-- A PEER_COPY in progress: the performing die, queue, packet, the transfers it still waits for, blocks failed. -/
structure PeerJob where
  die : DieId
  queue : QueueId
  packet : Packet
  tags : List Word
  failed : Nat
  /-- A translation fault of its data was not resolved. -/
  fault : Bool := false
  deriving DecidableEq, Repr

/-- What a suspended copy still does: a COPY_HOST from a block on, with the blocks failed so far and the link's answers; a
PEER_COPY toward the peer; the data of a READ_DATA, from a block on (R326, R333). -/
inductive CopyWork where
  | host (next failed : Nat) (links : List LinkAnswer)
  | peerOut
  | peerIn (tag : Word) (off : Nat) (data : List Byte) (next failed : Nat)
  deriving DecidableEq, Repr

/-- A copy command suspended by a translation fault, under the fault path of its region (R238, R326). -/
structure HostCopy where
  num : Nat
  die : DieId
  queue : QueueId
  packet : Packet
  work : CopyWork
  fault : JobFault
  deriving DecidableEq, Repr

/-- The completion of a host read over CXL.mem: function, address, bytes, poison indication (R301, R318). -/
structure HostRead where
  fn : FuncId
  pa : Nat
  data : List Byte
  poison : Bool
  deriving DecidableEq, Repr

/-! ### Checkpoints (R315, R316) -/

inductive CkptPhase where
  /-- Waiting for the partitions' engine queues since this clock. -/
  | draining (since : Nat)
  | writing
  | manifest
  deriving DecidableEq, Repr

/-- A checkpoint image, as a record in place of the sealed bytes (log 3). `crcs` holds the CRC-32C of every 512 bytes that are
not all 0: of physical memory, and of scratchpads and accumulators by core and troupe. -/
structure Image where
  cells : Memory
  lines : List (Nat × LineMeta)
  scratch : List (Nat × Memory)
  troupes : List (Nat × Troupe)
  doms : List (Nat × List (Nat × DomState))
  crcs : List (Nat × BitVec 32)
  localCrcs : List (Nat × Nat × BitVec 32)
  key : BitVec 256
  deriving DecidableEq, Repr

/-- The manifest of an image: the partitions' signatures, the CKORDs by sequence id, the region tree, the image's CRC (R315). -/
structure Manifest where
  signatures : List (Nat × BitVec 256)
  ckords : List (Nat × Option Nat)
  regions : List (Nat × List Word)
  crc : Word
  deriving DecidableEq, Repr

structure Checkpoint where
  die : DieId
  queue : QueueId
  packet : Packet
  parts : BitVec 32
  links : BitVec 16
  endpoint : BitVec 48
  phase : CkptPhase
  image : Option (Image × Manifest)
  /-- The streams' CKORDs before, by 4,096·die + slot (log 50). -/
  before : List (Nat × Option Nat)
  /-- Contexts the checkpoint saved, with the frame of each. -/
  saved : List (CoreId × CtxId × Nat)
  /-- The contexts asked to stop, by core (R273). -/
  asked : List (CoreId × BitVec 8)
  deriving DecidableEq, Repr

/-! ### Bring-up, HBM, power -/

/-- A boot image: its bytes, and whether its signature verifies under the key its KEYID names (R338; log 53). -/
structure BootImage where
  bytes : List Byte
  signed : Bool
  deriving DecidableEq, Repr

/-- The fuses: the boot-ROM digest, the SHA-256 of the vendor key and of the owner key, the owner-only bit, the minimum SVN of
each kind (R293, R337, R338). -/
structure Fuses where
  rom : BitVec 256
  vendor : BitVec 256
  owner : BitVec 256
  ownerOnly : Bool
  svn : Vector (BitVec 32) 3
  deriving DecidableEq, Repr

/-- BOOTST, the recovery address and length, the flash's two slots with an image of each kind, the fuses, and the images
accepted in this bring-up, [] where none is yet (R337 to R339). -/
structure Boot where
  stage : BitVec 4
  err : BitVec 4
  stack : BitVec 4
  slot : Bool
  owner : Bool
  recovery : Bool
  addr : Word
  len : Word
  /-- A cold start is under way: stage 3 is due. -/
  cold : Bool
  flash : Vector (Vector BootImage 3) 2
  fuses : Fuses
  running : Vector (List Byte) 3
  deriving DecidableEq, Repr

/-- An HBM training block (R341, R342). `passed` is the last step up to which each one's last run passed on all channels; `fails`
counts the failed runs of each step in this bring-up (R340). -/
structure Hbm where
  step : BitVec 4
  /-- The step that runs or ran last, which STEP may have moved on from. -/
  running : BitVec 4
  busy : Bool
  fail : Bool
  attempts : Nat
  pass : BitVec 32
  retrain : Nat
  data : Memory
  passed : Nat
  fails : Vector Nat 7
  /-- The firmware's nonvolatile copy of TRAINDATA. -/
  kept : Memory
  deriving DecidableEq, Repr

/-- The power block (R348, R351). -/
structure Power where
  waken : Nat
  capw : Nat
  avgw : Nat
  thr : Nat
  /-- Milliseconds whose end has updated THR (R349). -/
  updated : Nat
  gate : Vector (BitVec 32) 4
  failed : Vector (BitVec 32) 4
  deriving DecidableEq, Repr

/-- The host side and what serves it. -/
structure HostSide where
  cmdq : Vector CmdQueue 32
  cplq : Vector CplQueue 32
  msix : List (FuncId × Fin 64)
  links : Vector Link 16
  transfers : List Transfer
  nextTag : Nat
  jobs : List PeerJob
  /-- Copies suspended by a translation fault, and the number of the next (R326). -/
  copies : List HostCopy
  nextCopy : Nat
  /-- What the cue units have sent, newest last (R309). -/
  cueSends : List CueSend
  /-- The checkpoint last loaded: what CKREF names, and its manifest (R313). -/
  loaded : Option (Word × Manifest)
  /-- Acknowledgements sent to peers: link and TAG (R333, R334). -/
  acks : List (Fin 16 × Word)
  /-- Completions of host reads (R318). -/
  reads : List HostRead
  /-- The area peers reach by WRITE and READ (R333, R334; log 27). -/
  area : Memory
  checkpoint : Option Checkpoint
  boot : Boot
  hbm : Vector Hbm 12
  power : Power
  meas : Vector (BitVec 256) 5
  /-- The retired-core maps published, newest first, by epoch; the newest is the security controller's (R259, R299). -/
  epochs : List (Nat × List Nat)
  railFault : Bool
  deriving DecidableEq, Repr

/-! ### Values after reset -/

def CmdQueue.reset : CmdQueue :=
  { func := 0, base := 0, log2n := 0, vec := 0, run := false, stopped := false, reason := 0, tail := 0, done := [] }

def CplQueue.reset : CplQueue :=
  { func := 0, base := 0, log2n := 0, vec := 0, en := false, head := 0, tail := 0, shadow := 0 }

def Thread.reset : Thread :=
  { count := 0, skip := 0, state := .idle, x := .replicate 32 0, pc := 0, mcause := 0, mepc := 0, mtval := 0, mtvec := 0,
    mscratch := 0, mie := false, mpie := false, instret := 0, cycles := 0, reserved := none }

def Link.reset : Link :=
  { step := 0, running := 0, busy := false, fail := false, up := false, auto := true, disable := false, peer := 0, profiles := 0,
    replays := 0, downs := 0, failedAt := none, rxSeq := 0, txSeq := 0, replaying := [],
    stated := none, waiting := .replicate 2 [], buffer := [], nextSeq := 0, spent := .replicate 2 0, owed := .replicate 2 0, ackClock := 0 }

def BootImage.none : BootImage := { bytes := [], signed := false }

def Fuses.reset : Fuses := { rom := 0, vendor := 0, owner := 0, ownerOnly := false, svn := .replicate 3 0 }

def Boot.reset : Boot :=
  { stage := 0, err := 0, stack := 0, slot := false, owner := false, recovery := false, addr := 0, len := 0, cold := true,
    flash := .replicate 2 (.replicate 3 .none), fuses := .reset, running := .replicate 3 [] }

def Hbm.reset : Hbm :=
  { step := 0, running := 0, busy := false, fail := false, attempts := 0, pass := 0, retrain := 100, data := [], passed := 0, fails := .replicate 7 0,
    kept := [] }

def Power.reset : Power :=
  { waken := 32, capw := 3000, avgw := 0, thr := 64, updated := 0, gate := .replicate 4 0, failed := .replicate 4 0 }

def HostSide.reset : HostSide :=
  { cmdq := .replicate 32 .reset, cplq := .replicate 32 .reset, msix := [], links := .replicate 16 .reset, transfers := [],
    nextTag := 0, jobs := [], copies := [], nextCopy := 0, cueSends := [], loaded := none, acks := [], reads := [],
    area := [], checkpoint := none, boot := .reset, hbm := .replicate 12 .reset, power := .reset,
    meas := .replicate 5 0, epochs := [(0, [])], railFault := false }

end Sys2Proof.Machine
end

