-- ==== Sys2Proof/Machine/State.lean ====
section
/-!
DEFINITION. The state of the machine as plain data, its value after reset, and the reasons a step can stop.
-/

namespace Sys2Proof.Machine

/-- Where a word stands in which an error is found: memory, by a read of it; a scratchpad, accumulator memory, another SRAM structure
of a die (R300). -/
inductive SoftSite where
  | mem (pa : Nat)
  | scratch (core : CoreId) (off : Nat)
  | acc (troupe : TroupeId) (off : Nat)
  | other (die : DieId)
  deriving DecidableEq, Repr

/-- What the host does to its own memory: a store, or an atomic addition or exchange of a double word (R251). -/
inductive HostAccess where
  | write (bytes : List Byte)
  | add (x : Word)
  | exchange (x : Word)
  deriving DecidableEq, Repr

/-- A move of one agent of the machine: the model's own notion of the schedule (log 1). -/
inductive Move where
  /-- The core issues from the context R17 chooses. -/
  | issue (core : CoreId)
  /-- A wait of the context is tested again. -/
  | wake (core : CoreId) (ctx : CtxId)
  /-- The monitor serves the call the core entered M mode for, and leaves M mode (R215, R216). -/
  | serve (core : CoreId)
  /-- Clocks pass. -/
  | tick (n : Nat)
  /-- A step of the hardware or an outside input. -/
  | event (e : Instr)
  /-- A stage-manager hart executes a word. -/
  | hart (die : DieId) (q : QueueId)
  /-- The monitor switches a core to a resident domain (R275). -/
  | switch (core : CoreId) (tag : Tag)
  /-- The prompter's retry of an instruction matches (R298). -/
  | retry (core : CoreId) (ctx : CtxId)
  /-- An error is found in an SRAM word (R300). -/
  | soft (site : SoftSite) (o : EccOutcome)
  /-- The host writes its own memory (R251). -/
  | hostMem (pa : Nat) (a : HostAccess)
  /-- A published epoch reaches a die (R259). -/
  | epoch (die : DieId)
  /-- A suspended copy command is walked for again, or its service times out (R238, R326). -/
  | copyService (num : Nat)
  /-- The scrub engine clears lines of a partition's phase (R295). -/
  | scrub (part : PartId) (lines : Nat)
  /-- The security-controller firmware does the work of stage 1 or stage 4 (R337). -/
  | boot
  /-- A link sends its next flit; one that fails at the peer is replayed; a link without an ACK goes down (R332). -/
  | sendFlit (link : Fin 16)
  | replayFlit (link : Fin 16) (seq : BitVec 16)
  | linkTimer (link : Fin 16)
  /-- The security controller takes the journal key of a partition (R308). -/
  | journalKey (part : PartId) (key : BitVec 256)
  /-- A checkpoint image is loaded: what CKREF names, the image, its manifest (R313). -/
  | loadImage (ref : Word) (image : Image) (manifest : Manifest)
  deriving DecidableEq, Repr

/-- Who acts in the current step (log 1). -/
structure Turn where
  core : CoreId
  ctx : BankId
  hartDie : DieId
  hart : QueueId
  /-- The place of the model's own schedule in its round. -/
  sweep : Nat
  deriving DecidableEq, Repr

/-- What is in flight on the network (R178, R181, R186): a message with the core whose credit it holds, a refusal on
its way back, or a decrement on its way to its home core with the key that seals it. -/
inductive Flight where
  | message (credit : Option CoreId) (m : Message)
  | refusal (credit : Option CoreId) (m : Message)
  | dec (src : CoreId) (e : OutEntry) (key : Option (BitVec 256))
  deriving DecidableEq, Repr

/-- A die (R208, R210, R306, R308). -/
structure Die where
  log : ErrorLog
  streams : List (Nat × CueStream)
  posts : List Post
  shares : List (Nat × LaunchShare)
  keys : List EngineKey
  threads : Vector Thread 32
  /-- The retired-core maps of the last four epochs it has received, newest first, by epoch (R259). -/
  epochs : List (Nat × List Nat)
  /-- The stage manager's 512 KiB of SRAM (R330). -/
  sram : Memory
  /-- Admission intervals of R347 served so far. -/
  admitted : Nat
  deriving DecidableEq, Repr

/-- The machine. Cores, troupes, clusters, domains and regions are listed by number; one not listed stands as reset
leaves it. -/
structure State where
  clock : Nat
  agenda : List Move
  turn : Turn
  fresh : Nat
  mem : Memory
  poison : List Nat
  /-- Poisoned words of SRAM structures other than scratchpads and accumulator memory: the die, and the address of the record
  (R300; log 112). -/
  spoilt : List (DieId × Word)
  lines : List (Nat × LineMeta)
  frames : List (Nat × Frame)
  net : List Flight
  cores : List (Nat × Core)
  troupes : List (Nat × Troupe)
  clusters : List (Nat × Cluster)
  dies : Vector Die 4
  /-- Region numbers and the addresses of their control blocks, with clocks charged and not yet folded (R261, R263). -/
  regions : List (Nat × Nat)
  unfolded : List (Nat × Nat)
  domains : List (Nat × Domain)
  partitions : Vector Partition 32
  /-- The monitor's own memory: the region of each gate's publisher, and the core and region of each GREV whose REVOKE
  notice is outstanding, by 256·tag + index (R33, R289). -/
  published : List (Nat × BitVec 32)
  revoking : List (Nat × (CoreId × BitVec 32))
  /-- Interrupt vectors by 64·function + vector (R329). -/
  vectors : List (Nat × IrqVector)
  host : HostSide
  deriving DecidableEq, Repr

/-- Reasons the machine stops with a fault: there is none. Every fault of the spec is an exception that is taken, a completion
status, a record or a stopped core, and the machine goes on. -/
inductive Fault where
  deriving DecidableEq, Repr

/-- Reasons a step has no meaning. -/
inductive Refusal where
  /-- An instruction without a meaning; no arm answers so. Safe: the run ends. -/
  | notModelled (mnemonic : String)
  deriving DecidableEq, Repr

/-- The outcome of a step. -/
abbrev Out := Host.Outcome State Fault Refusal

/-! ### Reset -/

def Table.empty : Table := { entries := .replicate 256 0, w4 := false, twos := false, valid := false }

def Gstat.none : Gstat :=
  { inGang := false, leader := false, size := 0, detached := false, reason := 0, member := 0, cause := 0 }

def Stream.off : Stream :=
  { on := false, base := 0, inner := 0, outer := 0, istride := 0, ostride := 0, popped := 0, ahead := [] }

/-- Every register of a context as R23 leaves it before the payload is written; after reset the same values stand,
which the spec does not give (log 14). -/
def Regs.clear : Regs :=
  { pc := 0, g := .replicate 32 0, f := .replicate 32 0, v := .replicate 32 0,
    p := (Vector.replicate 8 false).set 0 true, m := (Vector.replicate 8 0).set 0 (BitVec.allOnes 64),
    lc := 0, ls := 0, t0 := 0, link := [], loops := [], dom := [], ta := .empty, tb := .empty,
    fflg := 0, fen := 0, frm := 0, valw := 2, lsf := 0, malw := 2, gwin := 0, gbud := 64,
    tcause := 0, tval := 0, tpc := 0, instret := 0, gfa := 0, gstat := .none, sh := .replicate 8 0, bucket := 0,
    chan := 0, region := 0, mrow := 0, mgst := 0, rplyMode := false, rplyMismatch := false, rplyBeyond := false,
    guardPending := false, arrOpen := 0, arrPhase := 0, streams := .replicate 4 .off, tag := 0 }

def Context.reset : Context :=
  { regs := .clear, state := .dormant, wait := none, halted := false, stopped := false, safe := none, pending := [],
    outstanding := [], outbox := [], undo := [], storeBuf := [], storeSeq := 0, verifs := [], restorable := false,
    restore := none, rolledBack := false, event := none, queue := [], sentOn := false, launch := none }

/-- Bits [18:6] of a core's own address: core, cluster, die (R12). -/
def coreAddr (c : Nat) : BitVec 19 := BitVec.ofNat 19 (64 * c)

/-- Per-domain state of a core after core reset and at domain creation (R13, R19, R111, R184, R227). -/
def DomState.reset (core : Nat) : DomState :=
  { board := .replicate 64 0, pend := 0, deque := [], tvec := 0, fpsup := (coreAddr core).setWidth 64 ||| 59#64, slmt := 0,
    guard := 0, shadow := false }

def Window.reset : Window :=
  { base := 0, limit := 0, dtag := 0, rd := false, wr := false, ex := false, space := false, v := false, clash := false }

def KeySlot.empty : KeySlot :=
  { tag := 0, loaded := false, halted := false, used := 0, data := 0, tweak := 0, stream := 0 }

/-- A core after core reset. -/
def Core.reset : Core :=
  { ctxs := .replicate 9 .reset, scratch := [], scratchPoison := [], inbox := [], refusals := [], credits := 16,
    doms := [], installed := 0, windows := .replicate 16 .reset, keys := .replicate 64 .empty, keysel := 0,
    mctx := 0, tdsp := 0, tdom := 0, mcause := 0, mepc := 0, mtval := 0, mtvec := 0, dstkb := 0,
    einja := 0, einjType := 0, einjArm := false, einjFired := false,
    pmreq := { stop := 0, stopped := 0, forced := false, smreq := false }, spbud := 6580, stopClock := none,
    stopBudget := false, halting := false, mmode := none, mqueue := [], saveCounter := 0, lastStart := .replicate 8 none,
    lastSteal := .west, lastTheft := none, startClock := none, lastIssue := 7, ports := .replicate 4 [], tlb := [], mismatches := [],
    degraded := false, retired := false, dead := false, resetClock := 0 }

def Handle.reset : Handle := { state := .free, held := false, tag := 0 }

def TablePair.reset : TablePair := { a := .empty, b := .empty, tag := 0 }

/-- A troupe after core reset (R154, R155, R158, R163, R194). -/
def Troupe.reset : Troupe :=
  { acc := [], flags := .replicate 16 0, owners := .replicate 16 none, pairs := .replicate 4 .reset, mat := [],
    matSeq := 0, matOrder := 0, matDone := [], copies := [], copySeq := 0, copyDone := [], completions := [],
    handles := .replicate 32 .reset, tlb := [], accPoison := [], active := false, quietFrom := 0, request := none, issued := [] }

def Barrier.reset : Barrier := { phase := false, count := 0, total := 0, tag := none }

def Cluster.reset : Cluster :=
  { barriers := .replicate 32 .reset, drbase := 0, shva := 0, dtag := 0, all := false, refused := false,
    running := none, waiting := [], walk := [], gated := false, waking := false, held := [] }

def ErrorLog.reset : ErrorLog :=
  { records := [], count := 0, read := 0, lost := 0, vector := 0, enable := false }

def Die.reset : Die :=
  { log := .reset, streams := [], posts := [], shares := [], keys := [], threads := .replicate 32 .reset, epochs := [(0, [])], sram := [], admitted := 0 }

def Evidence.reset : Evidence := { clock := 0, meas := .replicate 5 0, pmeas := 0 }

def Partition.reset : Partition :=
  { state := .unlocked, nonce := 0, pmeas := 0, reports := 0, clusters := 0, valw := 2, malw := 2, replay := false,
    phase := 0, restarts := 0, done := 0, total := 0, gated := false,
    record := .reset, gateRecord := .reset, journalKey := 0 }

/-- The machine right after reset. -/
def State.reset : State :=
  { clock := 0, agenda := [], turn := { core := 0, ctx := 0, hartDie := 0, hart := 0, sweep := 0 }, fresh := 0, mem := [],
    poison := [], spoilt := [], lines := [], frames := [], net := [], cores := [], troupes := [], clusters := [],
    dies := .replicate 4 .reset, regions := [], unfolded := [], domains := [],
    partitions := .replicate 32 .reset, published := [], revoking := [], vectors := [], host := .reset }

end Sys2Proof.Machine
end

