-- ==== Sys2Proof/Machine/Mem.lean ====
section
/-!
DEFINITION. Lists by number, memory in its canonical form, byte order, and the homes of cores, troupes, clusters and
contexts in the state.
-/

namespace Sys2Proof.Machine

/-! ### Lists by number -/

/-- The entry of a number. -/
def lookup {α : Type} : List (Nat × α) → Nat → Option α
  | [], _ => none
  | (k, x) :: t, n => if k = n then some x else lookup t n

/-- Enters a value under a number, numbers rising. -/
def insert {α : Type} : List (Nat × α) → Nat → α → List (Nat × α)
  | [], n, v => [(n, v)]
  | (k, x) :: t, n, v =>
    if n < k then (n, v) :: (k, x) :: t
    else if n = k then (n, v) :: t
    else (k, x) :: insert t n v

def erase {α : Type} (l : List (Nat × α)) (n : Nat) : List (Nat × α) := l.filter (fun e => e.1 ≠ n)

/-! ### Memory -/

/-- A byte; what no entry lists reads 0 (R343; log 5). -/
def Memory.read : Memory → Nat → Byte
  | [], _ => 0
  | (k, x) :: t, a => if k = a then x else Memory.read t a

/-- Writes a byte and keeps the canonical form. -/
def Memory.write : Memory → Nat → Byte → Memory
  | [], a, b => if b = 0 then [] else [(a, b)]
  | (k, x) :: t, a, b =>
    if a < k then (if b = 0 then (k, x) :: t else (a, b) :: (k, x) :: t)
    else if a = k then (if b = 0 then t else (a, b) :: t)
    else (k, x) :: Memory.write t a b

def Memory.readN (m : Memory) (a n : Nat) : List Byte := (List.range n).map (fun i => m.read (a + i))

def Memory.writeL (m : Memory) (a : Nat) : List Byte → Memory
  | [] => m
  | b :: t => (m.write a b).writeL (a + 1) t

/-- Addresses rise and no entry is 0. -/
def Memory.above (lo : Nat) : Memory → Bool
  | [] => true
  | (k, x) :: t => lo ≤ k && x ≠ 0 && Memory.above (k + 1) t

/-- The canonical form. -/
def Memory.wf (m : Memory) : Bool := Memory.above 0 m

/-- Removes every entry of [a, a + n). -/
def Memory.clear (m : Memory) (a n : Nat) : Memory := m.filter (fun e => e.1 < a || a + n ≤ e.1)

/-! ### Byte order (R5) -/

def leNat : List Byte → Nat
  | [] => 0
  | b :: t => b.toNat + 256 * leNat t

def leBytes : Nat → Nat → List Byte
  | 0, _ => []
  | n + 1, v => BitVec.ofNat 8 v :: leBytes n (v / 256)

def leWord (bs : List Byte) : Word := BitVec.ofNat 64 (leNat bs)

/-- The 8-byte slots of a block of bytes. -/
def slotsOf (bs : List Byte) (n : Nat) : List Word :=
  (List.range n).map (fun i => leWord ((bs.drop (8 * i)).take 8))

def bytesOfSlots (ws : List Word) : List Byte := (ws.map (fun w => leBytes 8 w.toNat)).flatten

/-- Bits lo to lo + n − 1 of a word, as a number. -/
def fld (w : Word) (lo n : Nat) : Nat := (w.extractLsb' lo n).toNat

def bit (w : Word) (i : Nat) : Bool := w.getLsbD i

/-- A number in bits lo and above. -/
def at' (v lo : Nat) : Word := BitVec.ofNat 64 (v <<< lo)

def atB (b : Bool) (lo : Nat) : Word := if b then at' 1 lo else 0

/-- sext(x, n) of R64. -/
def sext (x : Word) (n : Nat) : Word := (x.setWidth n).signExtend 64
/-- zext(x, n) of R64. -/
def zext (x : Word) (n : Nat) : Word := (x.setWidth n).setWidth 64

/-! ### Numbering (R9) -/

def dieOf (c : CoreId) : DieId := ⟨c.val / 2048, by omega⟩
def clusterOf (c : CoreId) : ClusterId := ⟨c.val / 64, by omega⟩
def troupeOf (c : CoreId) : TroupeId := ⟨c.val / 8, by omega⟩
/-- Core number n in its cluster. -/
def coreN (c : CoreId) : Nat := c.val % 64
def coreX (c : CoreId) : Nat := c.val % 8
def coreY (c : CoreId) : Nat := c.val % 64 / 8
/-- Core n of the cluster of c. -/
def sibling (c : CoreId) (n : Fin 64) : CoreId := ⟨c.val / 64 * 64 + n.val, by omega⟩
/-- The core of a core address's bits [18:6]. -/
def coreOfAddr (a : BitVec 19) : CoreId := ⟨a.toNat / 64, by have := a.isLt; omega⟩
def chanOfAddr (a : BitVec 19) : BitVec 6 := a.setWidth 6
def troupeCluster (t : TroupeId) : ClusterId := ⟨t.val / 8, by omega⟩
def troupeDie (t : TroupeId) : DieId := ⟨t.val / 256, by omega⟩
/-- Core x of a troupe. -/
def troupeCore (t : TroupeId) (x : Fin 8) : CoreId := ⟨8 * t.val + x.val, by omega⟩
def bank (k : CtxId) : BankId := ⟨k.val, by omega⟩
def mBank : BankId := 8

/-! ### Homes in the state -/

def State.core (s : State) (c : CoreId) : Core := (lookup s.cores c.val).getD .reset
def State.setCore (s : State) (c : CoreId) (x : Core) : State := { s with cores := insert s.cores c.val x }
def State.updCore (s : State) (c : CoreId) (f : Core → Core) : State := s.setCore c (f (s.core c))

def State.troupe (s : State) (t : TroupeId) : Troupe := (lookup s.troupes t.val).getD .reset
def State.setTroupe (s : State) (t : TroupeId) (x : Troupe) : State := { s with troupes := insert s.troupes t.val x }
def State.updTroupe (s : State) (t : TroupeId) (f : Troupe → Troupe) : State := s.setTroupe t (f (s.troupe t))

def State.cluster (s : State) (c : ClusterId) : Cluster := (lookup s.clusters c.val).getD .reset
def State.setCluster (s : State) (c : ClusterId) (x : Cluster) : State :=
  { s with clusters := insert s.clusters c.val x }
def State.updCluster (s : State) (c : ClusterId) (f : Cluster → Cluster) : State := s.setCluster c (f (s.cluster c))

def State.updDie (s : State) (d : DieId) (f : Die → Die) : State := { s with dies := s.dies.set d (f s.dies[d]) }

def State.ctx (s : State) (c : CoreId) (k : BankId) : Context := (s.core c).ctxs[k]
def State.setCtx (s : State) (c : CoreId) (k : BankId) (x : Context) : State :=
  s.updCore c (fun q => { q with ctxs := q.ctxs.set k x })
def State.updCtx (s : State) (c : CoreId) (k : BankId) (f : Context → Context) : State := s.setCtx c k (f (s.ctx c k))

/-- The context whose instruction executes. -/
def State.me (s : State) : Context := s.ctx s.turn.core s.turn.ctx
def State.updMe (s : State) (f : Context → Context) : State := s.updCtx s.turn.core s.turn.ctx f
def State.regs (s : State) : Regs := s.me.regs
def State.updRegs (s : State) (f : Regs → Regs) : State := s.updMe (fun x => { x with regs := f x.regs })
/-- The core whose instruction executes. -/
def State.myCore (s : State) : Core := s.core s.turn.core
/-- M mode in force for the executing bank (R213). -/
def State.mMode (s : State) : Bool := s.turn.ctx = mBank

/-- The cores the state lists; every other one stands as at reset. -/
def State.listedCores (s : State) : List CoreId :=
  s.cores.filterMap (fun e => if h : e.1 < 8192 then some ⟨e.1, h⟩ else none)

/-- The machine with a bank of a core as the one that executes. -/
def State.onBank (s : State) (c : CoreId) (b : BankId) : State := { s with turn := { s.turn with core := c, ctx := b } }

/-- The context number of the executing bank; the served context in M mode. -/
def State.myCtx (s : State) : CtxId :=
  if h : s.turn.ctx.val < 8 then ⟨s.turn.ctx.val, h⟩ else s.myCore.mctx

/-- The per-domain state a core holds for a tag (R13). -/
def Core.dom (q : Core) (c : CoreId) (t : Tag) : DomState := (lookup q.doms t.toNat).getD (.reset c.val)
def Core.setDom (q : Core) (t : Tag) (d : DomState) : Core := { q with doms := insert q.doms t.toNat d }
def State.dom (s : State) (c : CoreId) (t : Tag) : DomState := (s.core c).dom c t
def State.updDom (s : State) (c : CoreId) (t : Tag) (f : DomState → DomState) : State :=
  s.updCore c (fun q => q.setDom t (f (q.dom c t)))

/-- A domain is resident while a loaded key slot of the core holds its tag (R279). -/
def Core.resident (q : Core) (t : Tag) : Bool := q.keys.toList.any (fun k => k.loaded && k.tag = t)

/-- The lowest loaded slot of a tag (R283). -/
def Core.slotOf (q : Core) (t : Tag) : Option (Fin 64) := (List.finRange 64).find? (fun i => q.keys[i].loaded && q.keys[i].tag = t)

/-- The stream key a core holds for a tag (R283, R285). -/
def Core.streamKey (q : Core) (t : Tag) : Option (BitVec 256) := (q.slotOf t).map (fun i => q.keys[i].stream)

/-- The outermost domain of a context: the caller of its lowest entry, or its own tag (R369). -/
def Regs.outerTag (r : Regs) : Tag := match r.dom.getLast? with | some e => e.caller | none => r.tag

/-- No rail fault holds the cores and engines in reset (R335). -/
def State.powered (s : State) : Bool := !s.host.railFault

def State.domain? (s : State) (t : Tag) : Option Domain := lookup s.domains t.toNat
def State.killedTag (s : State) (t : Tag) : Bool := match s.domain? t with | some d => d.killed | none => false
/-- The partition of a tag; partition 0 where the tag names no domain. -/
def State.partOf (s : State) (t : Tag) : PartId := match s.domain? t with | some d => d.part | none => 0

/-! ### The neighbour ports (R10) -/

end Sys2Proof.Machine

namespace Sys2Proof

def Port.idx : Port → Fin 4
  | .north => 0 | .east => 1 | .south => 2 | .west => 3
def Port.opp : Port → Port
  | .north => .south | .east => .west | .south => .north | .west => .east
def Port.regCode : Port → Nat
  | .north => 32 | .east => 33 | .south => 34 | .west => 35
def Port.next : Port → Port
  | .north => .east | .east => .south | .south => .west | .west => .north

end Sys2Proof

namespace Sys2Proof.Machine

/-- The neighbour in a direction, none where the port is absent by position (R10). -/
def neighbourOf (c : CoreId) (p : Port) : Option CoreId :=
  match p with
  | .north => if h : 8 ≤ coreN c then some ⟨c.val - 8, by omega⟩ else none
  | .south => if h : coreN c < 56 then some ⟨c.val + 8, by simp only [coreN] at h; omega⟩ else none
  | .west => if h : 1 ≤ coreX c then some ⟨c.val - 1, by omega⟩ else none
  | .east => if h : coreX c < 7 then some ⟨c.val + 1, by simp only [coreX] at h; omega⟩ else none

/-- The neighbour behind a port that is present: by position, and not retired (R299). -/
def State.neighbour (s : State) (c : CoreId) (p : Port) : Option CoreId :=
  match neighbourOf c p with
  | some n => if (s.core n).retired then none else some n
  | none => none

/-! ### Physical memory (R222) -/

inductive Home where
  | dram | vault | dev | host | none
  deriving DecidableEq, Repr

def homeOf (pa : Nat) : Home :=
  if pa < 0xC000000000 then .dram
  else if 0x10000000000 ≤ pa && pa < 0x100C0000000 then .vault
  else if 0x20000000000 ≤ pa && pa < 0x30000000000 then .dev
  else if 0x8000000000000 ≤ pa && pa < 0x10000000000000 then .host
  else .none

/-- The die whose encryption engine holds a line (R223, R224, R284). -/
def lineDie (pa : Nat) : DieId :=
  if pa < 0xC000000000 then ⟨pa / 4096 % 12 / 3, by omega⟩
  else ⟨(pa - 0x10000000000) / 0x1800000 / 32 % 4, by omega⟩

/-- The aligned 8-byte units that meet [a, a + n). -/
def unitsOf (a n : Nat) : List Nat :=
  if n = 0 then [] else (List.range ((a + n - 1) / 8 - a / 8 + 1)).map (fun i => 8 * (a / 8 + i))

def poisonedIn (l : List Nat) (a n : Nat) : Option Nat := (unitsOf a n).find? (fun u => l.contains u)

/-- A write of whole aligned units clears their poison (R300). -/
def clearPoison (l : List Nat) (a n : Nat) : List Nat := l.filter (fun u => !(a ≤ u && u + 8 ≤ a + n))

/-- The save frame that holds a physical address, and the frame's own address (R220). -/
def State.frameAt (s : State) (pa : Nat) : Option (Nat × Frame) := s.frames.find? (fun e => e.1 ≤ pa && pa < e.1 + 16384)

/-- A byte of a save frame by its offset: ciphertext, but for the trailer, whose level, depth, context, domain tag and save counter
stand plain in 8 bytes each before the GCM tag (R220; the places in the trailer are the model's, DESIGN CHOICE; log 126). The IV
names core and counter, not the address, so a frame reads the same wherever it is copied. -/
def Frame.byte (f : Frame) (i : Nat) : Byte :=
  let plain : List Nat := [f.level, f.depth, f.ctx.val, f.tag.toNat, f.counter.toNat]
  if 0x3FC0 ≤ i && i < 0x3FE8 then ((leBytes 8 (plain.getD ((i - 0x3FC0) / 8) 0)).getD (i % 8) 0)
  else if 0x3FF8 ≤ i then 0
  else Config.cipherByte (f.key.getD 0) i (f.counter.toNat + 2 ^ 64 * f.core.val)

/-- The engine of a line's die holds the tag's keys (R284). -/
def State.engineKey (s : State) (line : Nat) (t : Tag) : Option EngineKey := s.dies[lineDie line].keys.find? (fun k => k.tag = t)

/-- The bytes of a line that one write leaves alone, as the write leaves them: a line that changes between plain and
protected, or between keys, holds there what the other side reads as ciphertext; a fresh line is zeros under any key
(R240, R343; log 19). -/
def rekeyed (old : Option LineMeta) (new : LineMeta) (line : Nat) (m : Memory) : Memory :=
  match old with
  | none => m
  | some o =>
    if o.writer = new.writer then m
    else
      let key : BitVec 256 := match o.writer, new.writer with | some k, _ => k.data | none, some k => k.data | none, none => 0
      m.writeL line ((List.range 64).map (fun i => Config.cipherByte key (line + i) o.counter))

/-- One line of a write: its counter rises, and its MAC is the writer's (R240, R343). Device and host memory have no such
lines. -/
def State.touchLine (s : State) (key : Option EngineKey) (line : Nat) : State :=
  if homeOf line = .dram || homeOf line = .vault then
    let old := lookup s.lines line
    let new : LineMeta := { counter := (match old with | some o => o.counter | none => 0) + 1, writer := key }
    { s with mem := rekeyed old new line s.mem, lines := insert s.lines line new }
  else s

/-- The 64-byte lines that meet [a, a + n). -/
def linesOf (a n : Nat) : List Nat :=
  if n = 0 then [] else (List.range ((a + n - 1) / 64 - a / 64 + 1)).map (fun i => 64 * (a / 64 + i))

/-- A write into a save frame stands over its ciphertext (R220; log 3). -/
def Frame.written (f : Frame) (base pa : Nat) (bs : List Byte) : Frame :=
  if base + 16384 ≤ pa || pa + bs.length ≤ base then f else { f with overlaid := (bs.zipIdx.map (fun b => (pa + b.2, b.1))) ++ f.overlaid }

/-- Writes bytes to physical memory: memory, poison, and the lines' counters and MACs. A protected write whose engine
holds no key for the tag writes nothing (R284). -/
def State.writePhys (s : State) (pa : Nat) (bs : List Byte) (prot : Option Tag) : State :=
  let key := prot.bind (fun t => s.engineKey pa t)
  if prot.isSome && key.isNone then s
  else
    let s := (linesOf pa bs.length).foldl (fun s line => s.touchLine key line) s
    { s with mem := s.mem.writeL pa bs, poison := clearPoison s.poison pa bs.length
             frames := s.frames.map (fun e => (e.1, e.2.written e.1 pa bs)) }

/-- Whether the MAC of a protected line verifies for a tag: the line's engine holds the tag's keys, and the line was
written under them or is fresh (R240, R284, R343). -/
def State.macOk (s : State) (pa : Nat) (t : Tag) : Bool :=
  let line := pa / 64 * 64
  match s.engineKey line t with
  | none => false
  | some k => match lookup s.lines line with | some l => l.writer = some k | none => true

end Sys2Proof.Machine
end

