-- ==== Sys2Proof/Machine/Log.lean ====
section
/-!
DEFINITION. Error records (R306, R307), interrupt vectors (R329), region control blocks (R261 to R264), and the
registers of the cluster translation blocks (R237).
-/

namespace Sys2Proof.Machine

/-! ### Interrupt vectors -/

def IrqVector.reset : IrqVector := { holdoff := 20, count := 32, pending := 0, masked := true, since := none }

def State.vector (s : State) (fn : FuncId) (v : Fin 64) : IrqVector := (lookup s.vectors (64 * fn.val + v.val)).getD .reset
def State.setVector (s : State) (fn : FuncId) (v : Fin 64) (x : IrqVector) : State :=
  { s with vectors := insert s.vectors (64 * fn.val + v.val) x }

/-- An event counts one on its vector, at most 255; VECTOR_FIRE sends the interrupt (R329). -/
def State.raise (s : State) (fn : FuncId) (v : Fin 64) : State :=
  let x := s.vector fn v
  s.setVector fn v { x with pending := min (x.pending + 1) 255, since := some (x.since.getD s.clock) }

/-! ### Error records -/

/-- What an error record says (R307). -/
structure Rec where
  kind : Nat
  cls : Nat
  injected : Bool := false
  core : Option CoreId := none
  ctx : Nat := 0
  tag : Tag := 0
  part : Option PartId := none
  region : BitVec 32 := 0
  detail : Nat := 0
  addr : Word := 0
  pc : Word := 0
  data : Word := 0
  deriving DecidableEq, Repr

def Rec.slots (r : Rec) (seq clock : Nat) (die : DieId) : Vector Word 8 :=
  #v[BitVec.ofNat 64 seq, BitVec.ofNat 64 clock,
    at' r.kind 0 ||| at' r.cls 8 ||| atB r.injected 11 ||| at' die.val 12 |||
      at' (match r.core with | some c => c.val | none => 0) 16 ||| at' r.ctx 29 ||| at' r.tag.toNat 32 |||
      (match r.part with | some p => at' p.val 48 ||| at' 1 53 | none => 0),
    at' r.region.toNat 0 ||| at' (r.detail % 2 ^ 32) 32, r.addr, r.pc, r.data, 0]

/-- Writes a record to a die's log, and raises its vector for a class of 2 or more (R306). -/
def State.log (s : State) (die : DieId) (r : Rec) : State :=
  let l := s.dies[die].log
  let l' : ErrorLog := { l with
    records := insert l.records (l.count % 4096) { slots := r.slots l.count s.clock die }
    count := l.count + 1
    lost := if 4096 ≤ l.count - l.read then Nat.min (l.lost + 1) (2 ^ 32 - 1) else l.lost }
  let s := s.updDie die (fun d => { d with log := l' })
  if 2 ≤ r.cls && l.enable then s.raise 0 ⟨l.vector.toNat, l.vector.isLt⟩ else s

/-! ### Injected errors (R221) -/

/-- An armed error injection on a line (R221): the core that armed it and its type. -/
def State.injection (s : State) (pa n : Nat) : Option (CoreId × BitVec 2) :=
  (s.listedCores.find? (fun c =>
    let q := s.core c
    q.einjArm && q.einja.toNat / 64 * 64 ≤ pa + n - 1 && pa / 64 * 64 ≤ q.einja.toNat)).map
    (fun c => (c, (s.core c).einjType))

/-- A read by any agent fires an armed injection: the record, and what the read then finds (R221, R300). The
corrected bit is a free value (log 2). -/
def State.inject (s : State) (pa n : Nat) : State × Bool × Bool :=
  match s.injection pa n with
  | none => (s, false, false)
  | some (c, ty) =>
    let a := (s.core c).einja.toNat
    let s := s.updCore c (fun q => { q with einjArm := false, einjFired := true })
    let r : Rec := { kind := 0x01, cls := 0, injected := true, addr := at' a 0 }
    match ty.toNat with
    | 0 => ({ s.log (lineDie a) { r with detail := (Config.freeWord s.fresh).toNat % 64 } with fresh := s.fresh + 1 }, false, false)
    | 1 => ({ s.log (lineDie a) { r with kind := 0x02, cls := 1 } with poison := (a / 8 * 8) :: s.poison }, true, false)
    | _ => (s, false, true)

/-- The hardware's own read of plain words: an armed injection on any line of them fires (R221). -/
def State.readLines (s : State) (pa n : Nat) : State := s.listedCores.foldl (fun s _ => (s.inject pa n).1) s

/-! ### Region control blocks (R261, R262) -/

def State.slot (s : State) (pa k : Nat) : Word := leWord (s.mem.readN (pa + 8 * k) 8)
def State.setSlot (s : State) (pa k : Nat) (w : Word) : State :=
  s.writePhys (pa + 8 * k) (leBytes 8 w.toNat) none

/-- Replaces bits lo to lo + n − 1 of a word. -/
def setFld (w : Word) (lo n v : Nat) : Word :=
  (w &&& ~~~(at' (2 ^ n - 1) lo)) ||| at' (v % 2 ^ n) lo

/-- A block and the blocks above it. -/
def State.chain (s : State) : Nat → Nat → List Nat
  | 0, _ => []
  | n + 1, pa =>
    let up := (s.slot pa 2).toNat
    pa :: (if up = 0 then [] else s.chain n up)

def State.regionPa (s : State) (r : BitVec 32) : Option Nat := lookup s.regions r.toNat

/-- The hardware reads a region's block and those above it: an armed injection there fires (R221, R261). -/
def State.readRegion (s : State) (r : BitVec 32) : State :=
  match s.regionPa r with
  | some pa => (s.chain 8 pa).foldl (fun s b => s.readLines b 128) s
  | none => s

/-- The block whose field an OVR bit gives (R262). -/
def State.override (s : State) (pa ovr : Nat) : Nat :=
  let c := s.chain 8 pa
  (c.find? (fun p => bit (s.slot p 1) (16 + ovr))).getD (c.getLast?.getD pa)

def State.regionLive (s : State) (r : BitVec 32) : Bool :=
  match s.regionPa r with | some pa => fld (s.slot pa 0) 36 2 = 1 | none => false
def State.regionPrio (s : State) (r : BitVec 32) : Nat :=
  match s.regionPa r with | some pa => fld (s.slot (s.override pa 0) 0) 32 3 | none => 7
def State.regionGov (s : State) (r : BitVec 32) : BitVec 2 × BitVec 10 :=
  match s.regionPa r with
  | some pa => let w := s.slot (s.override pa 2) 4; (w.extractLsb' 8 2, w.extractLsb' 16 10)
  | none => (0, 64)
/-- The fault-service core address and channel, where one is recorded. -/
def State.regionFsvc (s : State) (r : BitVec 32) : Option (BitVec 19) :=
  match s.regionPa r with
  | some pa => let w := s.slot (s.override pa 3) 5; if bit w 19 then some (w.setWidth 19) else none
  | none => none
def State.regionTag (s : State) (r : BitVec 32) : Tag :=
  match s.regionPa r with | some pa => (s.slot (s.override pa 4) 1).setWidth 16 | none => 0
def State.regionPart (s : State) (r : BitVec 32) : PartId :=
  match s.regionPa r with
  | some pa => ⟨((s.slot pa 0).extractLsb' 41 5).toNat, ((s.slot pa 0).extractLsb' 41 5).isLt⟩
  | none => 0

/-- The pools a region draws on: the blocks at or above its own pool that set OVR bit 1 (R263). -/
def State.pools (s : State) (r : BitVec 32) : List Nat :=
  match s.regionPa r with
  | some pa => (s.chain 8 pa).filter (fun p => bit (s.slot p 1) 17)
  | none => []

/-- A region is exhausted while USED ≥ BUDGET in its pool or one above it (R264). -/
def State.exhausted (s : State) (r : BitVec 32) : Bool :=
  (s.pools r).any (fun p =>
    let b := fld (s.slot p 3) 0 32
    b ≠ 0xFFFFFFFF && b ≤ (s.slot p 6).toNat)

/-- The regions of the smallest fault domain that encloses a region (R34): the subtree of the nearest block at or
above it with FDOM = 1, or of its root. -/
def State.faultDomain (s : State) (r : BitVec 32) : List Nat :=
  match s.regionPa r with
  | none => [r.toNat]
  | some pa =>
    let c := s.chain 8 pa
    let root := (c.find? (fun p => bit (s.slot p 0) 35)).getD (c.getLast?.getD pa)
    (s.regions.filter (fun e => (s.chain 8 e.2).contains root)).map (·.1)

/-! ### Cluster translation blocks (R237) -/

def blockBase (c : Nat) : Nat := 0x20000000000 + 0x1000 * c

/-- The cluster whose block holds a device address. -/
def blockOf (pa : Nat) : Option ClusterId :=
  if h : 0x20000000000 ≤ pa ∧ pa < 0x20000080000 then some ⟨(pa - 0x20000000000) / 0x1000, by omega⟩ else none

/-- What an agent may do at a cluster's block: the tags it may name, with ALL or without, whether every field reads for it, and
whether it sets DRBASE (R237). -/
structure BlockAgent where
  names : Tag → Bool → Bool
  every : Bool
  root : Bool

/-- The monitor names every tag, and so does the physical function; a virtual function the domains of its partition; a thread
its own domain, without ALL. DRBASE is M mode's alone (R237). The rule is silent on a virtual function and on a stage manager's
hart: the model lets the function name the live domains of its partition and read like a thread, and counts a hart as M mode
(DESIGN CHOICE; log 134). -/
def State.blockAgent (s : State) : BlockWriter → BlockAgent
  | .monitor => { names := fun _ _ => true, every := true, root := true }
  | .host fn =>
    if fn = 0 then { names := fun _ _ => true, every := true, root := false }
    else { names := fun t _ => (s.domain? t).any (fun d => !d.killed && d.part.val + 1 = fn.val), every := false, root := false }
  | .thread t => { names := fun u all => u = t && !all, every := false, root := false }

/-- A thread of a domain, or M mode. -/
def writerOf : Option Tag → BlockWriter
  | none => .monitor
  | some t => .thread t

/-- A read of a block's register. -/
def Cluster.blockRead (x : Cluster) (a : BlockAgent) (off : Nat) : Word :=
  let own := a.every || a.names x.dtag false
  match off with
  | 0x000 => if a.every then x.drbase.setWidth 64 <<< 19 else 0
  | 0x008 => if own then x.shva.setWidth 64 <<< 16 else 0
  | 0x010 => (if own then x.dtag.setWidth 64 ||| atB x.all 16 else 0) ||| atB x.running.isSome 18 ||| atB x.refused 19
  | _ => 0

/-- Starts a shootdown, or holds it behind the running one (R237). -/
def Cluster.go (x : Cluster) : Cluster :=
  let q : Shootdown := { va := x.shva.toNat <<< 16, tag := x.dtag, all := x.all }
  match x.running with
  | none => { x with running := some q }
  | some _ => { x with waiting := x.waiting ++ [q] }

/-- A write of a block's register. A GO the writer may not make sets REFUSED and starts nothing. -/
def Cluster.blockWrite (x : Cluster) (a : BlockAgent) (off : Nat) (w : Word) : Cluster :=
  match off with
  | 0x000 => if a.root then { x with drbase := w.extractLsb' 19 33 } else x
  | 0x008 => { x with shva := w.extractLsb' 16 40 }
  | 0x010 =>
    let x := { x with dtag := w.setWidth 16, all := bit w 16, refused := x.refused && !(bit w 19) }
    if bit w 17 then (if a.names x.dtag x.all then x.go else { x with refused := true }) else x
  | _ => x

end Sys2Proof.Machine
end

