-- ==== Sys2Proof/Machine/Dev.lean ====
section
/-!
DEFINITION. Device register space but for the cluster translation blocks: scrub status, error logs, HBM training
blocks, Gornath link blocks, the power block (R295, R306, R341, R344, R348, R351). M mode and the physical function
reach these registers; a thread's read gives a free value and its write is discarded (log 28).
-/

namespace Sys2Proof.Machine

/-! ### Fields of the host side -/

def State.updHost (s : State) (f : HostSide → HostSide) : State := { s with host := f s.host }
def State.updLink (s : State) (k : Fin 16) (f : Link → Link) : State :=
  s.updHost (fun h => { h with links := h.links.set k (f h.links[k]) })
def State.updHbm (s : State) (k : Fin 12) (f : Hbm → Hbm) : State :=
  s.updHost (fun h => { h with hbm := h.hbm.set k (f h.hbm[k]) })
def State.updPower (s : State) (f : Power → Power) : State := s.updHost (fun h => { h with power := f h.power })
def State.updBoot (s : State) (f : Boot → Boot) : State := s.updHost (fun h => { h with boot := f h.boot })

/-! ### Gornath links -/

/-- An endpoint is reachable with a profile while some link that is UP leads to it (R309, R334). -/
def HostSide.reaches (h : HostSide) (endpoint : BitVec 48) (profile : Nat) : Bool :=
  h.links.toList.any (fun l => l.up && l.peer = endpoint && l.profiles.getLsbD profile)

/-- An UP link to an endpoint that offers a profile. -/
def HostSide.linkTo (h : HostSide) (endpoint : BitVec 48) (profile : Nat) : Option (Fin 16) :=
  (List.finRange 16).find? (fun k => h.links[k].up && h.links[k].peer = endpoint && h.links[k].profiles.getLsbD profile)

/-- A stream becomes LOST: an UNDERSTUDY_LOST record is written (R309). -/
def State.loseStream (s : State) (d : DieId) (slot : Nat) : State :=
  match lookup s.dies[d].streams slot with
  | some q =>
    if q.state = .lost then s
    else
      (s.updDie d (fun x => { x with streams := insert x.streams slot { q with state := .lost, flits := [] } })).log d
        { kind := 0x16, cls := 6, part := some q.part, addr := q.ustudy.setWidth 64, data := BitVec.ofNat 64 slot }
  | none => s

/-- Every stream whose understudy no link reaches becomes LOST (R309, R334). -/
def State.loseStreams (s : State) : State :=
  (List.finRange 4).foldl (fun s (d : DieId) =>
    (s.dies[d].streams.filter (fun e => !s.host.reaches e.2.ustudy 0)).foldl (fun s e => s.loseStream d e.1) s) s

/-- The link a transfer of a lost link is resent over: an UP link to the same endpoint, for a checkpoint one of those
it names (R316, R334). -/
def HostSide.otherLink (h : HostSide) (k : Fin 16) (b : TransferBody) : Option (Fin 16) :=
  let named (j : Fin 16) : Bool := match b, h.checkpoint with
    | .image .., some c | .manifest, some c => c.links.getLsbD j.val
    | _, _ => true
  (List.finRange 16).find? (fun j => j ≠ k && h.links[j].up && h.links[j].peer = h.links[k].peer && named j)

/-- Flits of the KINDs given wait for a link on a VC (R332). -/
def Link.enqueue (l : Link) (vc : Fin 2) (kinds : List (BitVec 8)) : Link :=
  if l.up then { l with waiting := l.waiting.set vc (l.waiting[vc] ++ kinds) } else l

/-- The data flits of a transfer, which its command flit counts (R333). -/
def TransferBody.count : TransferBody → Nat
  | .write _ d | .answer _ d => (d.length + 255) / 256
  | .image _ n _ => (n + 255) / 256
  | _ => 0

/-- The KINDs of a transfer's flits: one of command, then its data (R332, R333). -/
def TransferBody.kinds (b : TransferBody) : List (BitVec 8) := 1 :: List.replicate b.count 2

/-- A link goes down (R332, R334): its transfers move in TAG order to another link, the down count increments, and
streams that lose their understudy become LOST. -/
def State.takeLinkDown (s : State) (k : Fin 16) (fail : Bool) : State :=
  let was := s.host.links[k].up
  let moved (h : HostSide) (t : Transfer) : Transfer :=
    if t.link = k then (match h.otherLink k t.body with | some j => { t with link := j } | none => t) else t
  let again := s.host.transfers.filter (fun t => t.link = k)
  let s := s.updHost (fun h => { h with transfers := h.transfers.map (moved h) })
  let s := again.foldl (fun s t => match s.host.otherLink k t.body with
    | some j => s.updLink j (fun l => l.enqueue 1 t.body.kinds)
    | none => s) s
  let s := s.updLink k (fun l => { l with
    up := false, busy := false, fail := fail, peer := if l.up then 0 else l.peer, profiles := if l.up then 0 else l.profiles
    downs := if l.up then min (l.downs + 1) (2 ^ 32 - 1) else l.downs, replaying := [], stated := none, waiting := .replicate 2 [], buffer := []
    failedAt := if fail then some s.clock else l.failedAt })
  if was then s.loseStreams else s

/-- GO of a link block: the step runs (R344, R345). A step is not begun while one runs or the link is held down. -/
def State.linkGo (s : State) (k : Fin 16) : State :=
  s.updLink k (fun l => if l.busy || l.disable || l.step = 0 || l.step = 7 then l else { l with running := l.step, busy := true, fail := false })

/-- With AUTO = 1 a link that is down trains from step 1, from stage 5 on (R344, R345). -/
def State.autoTrain (s : State) (k : Fin 16) : State :=
  if s.host.boot.stage ≠ 5 then s
  else s.updLink k (fun l =>
    if l.auto && !l.disable && !l.up && !l.busy then { l with step := 1, running := 1, busy := true, fail := false, failedAt := none } else l)

/-- DISABLE of a link block (R344, R345). -/
def State.linkHold (s : State) (k : Fin 16) (on : Bool) : State :=
  let s := if on then s.takeLinkDown k false else s
  let s := s.updLink k (fun l => { l with disable := on })
  if on then s else s.autoTrain k

def Link.word0 (l : Link) : Word :=
  at' l.step.toNat 0 ||| atB l.busy 4 ||| atB l.fail 5 ||| atB l.up 6 ||| atB l.auto 7 ||| atB l.disable 8
def Link.word8 (l : Link) : Word := at' l.peer.toNat 0 ||| at' l.profiles.toNat 48

def State.linkWrite (s : State) (k : Fin 16) (w : Word) : State :=
  let s := s.updLink k (fun l => { l with step := w.setWidth 3, auto := bit w 7 })
  let s := if bit w 8 ≠ s.host.links[k].disable then s.linkHold k (bit w 8) else s
  if bit w 3 then s.linkGo k else s

/-! ### HBM stacks -/

/-- A step may start when none runs and the step before it passed on every channel; after a warm reset the stack
counts as having passed steps 1 to 3 (R341, R342). -/
def Hbm.mayRun (h : Hbm) : Bool := !h.busy && 1 ≤ h.step.toNat && h.step.toNat ≤ 6 && h.step.toNat ≤ h.passed + 1

/-- GO of a training block (R341). -/
def Hbm.go (h : Hbm) : Hbm := if h.mayRun then { h with running := h.step, busy := true, attempts := min (h.attempts + 1) 255 } else h

def Hbm.setStep (h : Hbm) (st : BitVec 4) : Hbm := if h.step = st then h else { h with step := st, attempts := 0 }

def Hbm.read (h : Hbm) (off : Nat) : Word :=
  match off with
  | 0x00 => at' h.step.toNat 0 ||| atB h.busy 5 ||| atB h.fail 6 ||| at' h.attempts 8
  | 0x08 => h.pass.setWidth 64
  | 0x10 => BitVec.ofNat 64 h.retrain
  | _ => if 0x100 ≤ off && off < 0x200 then leWord (h.data.readN (off - 0x100) 8) else 0

/-- A write by the security-controller firmware. -/
def Hbm.write (h : Hbm) (off : Nat) (w : Word) : Hbm :=
  match off with
  | 0x00 => let h := h.setStep (w.setWidth 4); if bit w 4 then h.go else h
  | 0x10 => if 10 ≤ fld w 0 16 && fld w 0 16 ≤ 1000 then { h with retrain := fld w 0 16 } else h
  | _ => if 0x100 ≤ off && off < 0x200 then { h with data := h.data.writeL (off - 0x100) (leBytes 8 w.toNat) } else h

/-! ### Power -/

def clusterAt (d : DieId) (c : Fin 32) : ClusterId := ⟨32 * d.val + c.val, by omega⟩

/-- A cluster whose contexts are DORMANT and whose engine queues are empty (R351). -/
def State.clusterIdle (s : State) (c : ClusterId) : Bool :=
  s.cores.all (fun e => e.1 / 64 ≠ c.val || (List.finRange 8).all (fun k => e.2.ctxs[bank k].state = .dormant)) &&
    s.troupes.all (fun e => e.1 / 8 ≠ c.val || (e.2.mat = [] && e.2.copies = []))

/-- What the security controller records of a partition (R294). -/
def State.evidence (s : State) (p : PartId) : Evidence :=
  { clock := s.clock, meas := s.host.meas, pmeas := s.partitions[p].pmeas }

/-- The clusters assigned to a partition by a set of gate words. -/
def Partition.allGated (p : Partition) (gate : Vector (BitVec 32) 4) : Bool :=
  p.clusters ≠ 0 && (List.finRange 128).all (fun c =>
    !p.clusters.getLsbD c.val || (gate[c.val / 32]'(by omega)).getLsbD (c.val % 32))

/-- After a change of the gate words a partition is gated when all its clusters are; its record is taken (R294, R351). -/
def State.regate (s : State) : State :=
  (List.finRange 32).foldl (fun s (p : PartId) =>
    let now := s.partitions[p].allGated s.host.power.gate
    let x := s.partitions[p]
    if now = x.gated then s
    else { s with partitions := s.partitions.set p { x with gated := now, gateRecord := if now then s.evidence p else x.gateRecord } }) s

/-- A write of a die's gate word: a bit takes effect for an idle cluster only; the others are reported (R351). -/
def State.gateWrite (s : State) (d : DieId) (w : BitVec 32) : State :=
  let s := (List.finRange 32).foldl (fun s (c : Fin 32) =>
    let k := clusterAt d c
    let want := w.getLsbD c.val
    let on := want && (s.clusterIdle k || (s.cluster k).gated)
    let s := s.updCluster k (fun x => { x with gated := on, waking := x.waking && !on })
    let b : BitVec 32 := 1#32 <<< c.val
    s.updPower (fun p => { p with
      gate := p.gate.set d (if on then p.gate[d] ||| b else p.gate[d] &&& ~~~b)
      failed := p.failed.set d (if want && !on then p.failed[d] ||| b else p.failed[d] &&& ~~~b) })) s
  s.regate

/-- Clears a cluster's gate bit; its supply then settles (R351). -/
def State.wakeCluster (s : State) (c : ClusterId) : State :=
  let b : BitVec 32 := 1#32 <<< (c.val % 32)
  let d : DieId := ⟨c.val / 32, by omega⟩
  if (s.cluster c).gated then
    ((s.updCluster c (fun x => { x with gated := false, waking := true })).updPower (fun p => { p with
      gate := p.gate.set d (p.gate[d] &&& ~~~b) })).regate
  else s

/-- Something addressed to a cluster is done; for a gated one it waits and the cluster wakes, for a waking one it waits (R351). -/
def State.whenAwake (s : State) (c : ClusterId) (f : State → State) : State :=
  if (s.cluster c).gated then s.wakeCluster c else if (s.cluster c).waking then s else f s

def Power.read (p : Power) (off : Nat) : Word :=
  match off with
  | 0x00 => BitVec.ofNat 64 p.waken
  | 0x08 => BitVec.ofNat 64 p.capw
  | 0x10 => at' p.avgw 0 ||| at' p.thr 12
  | _ =>
    if h : 0x20 ≤ off ∧ off < 0x40 then (p.gate[(off - 0x20) / 8]'(by omega)).setWidth 64
    else if h : 0x40 ≤ off ∧ off < 0x60 then (p.failed[(off - 0x40) / 8]'(by omega)).setWidth 64
    else 0

def State.powerWrite (s : State) (off : Nat) (w : Word) : State :=
  match off with
  | 0x00 => let n := fld w 0 6; if 1 ≤ n && n ≤ 32 then s.updPower (fun p => { p with waken := n }) else s
  | 0x08 => let n := fld w 0 12; if 1200 ≤ n && n ≤ 3000 then s.updPower (fun p => { p with capw := n }) else s
  | _ => if h : 0x20 ≤ off ∧ off < 0x40 then s.gateWrite ⟨(off - 0x20) / 8, by omega⟩ (w.setWidth 32) else s

/-! ### Error logs and scrub status -/

def ErrorLog.read64 (l : ErrorLog) (off : Nat) : Word :=
  match off with
  | 0x00 => BitVec.ofNat 64 l.count
  | 0x08 => BitVec.ofNat 64 l.read
  | 0x10 => BitVec.ofNat 64 l.lost
  | 0x18 => at' l.vector.toNat 0 ||| atB l.enable 6
  | _ =>
    if 0x10000 ≤ off && off < 0x50000 then
      match lookup l.records ((off - 0x10000) / 64) with
      | some r => r.slots[off / 8 % 8]?.getD 0
      | none => 0
    else 0

def ErrorLog.write64 (l : ErrorLog) (off : Nat) (w : Word) : ErrorLog :=
  match off with
  | 0x08 => if w.toNat ≤ l.count then { l with read := w.toNat } else l
  | 0x18 => { l with vector := w.setWidth 6, enable := bit w 6 }
  | _ => l

def Partition.scrubWord (p : Partition) (off : Nat) : Word :=
  match off with
  | 0x00 => at' p.phase.toNat 0 ||| at' p.restarts.toNat 16
  | 0x08 => BitVec.ofNat 64 p.done
  | 0x10 => BitVec.ofNat 64 p.total
  | _ => 0

/-! ### The whole space -/

/-- A read where the spec gives the reader no register: a free value (log 28). -/
def State.unownedRead (s : State) (pa : Nat) : Word :=
  Config.deviceWord [s.clock, s.turn.core.val, s.turn.ctx.val, s.regs.instret.toNat, pa]

/-- The 8-byte register at an address, as M mode and the physical function read it. -/
def State.devRead (s : State) (pa : Nat) : Word :=
  if h : 0x20100000000 ≤ pa ∧ pa < 0x20100000800 then
    Partition.scrubWord (s.partitions[(pa - 0x20100000000) / 0x40]'(by omega)) (pa % 0x40)
  else if h : 0x20200000000 ≤ pa ∧ pa < 0x20204000000 then
    ErrorLog.read64 (s.dies[(pa - 0x20200000000) / 0x1000000]'(by omega)).log (pa % 0x1000000)
  else if h : 0x20300000000 ≤ pa ∧ pa < 0x203000C0000 then
    Hbm.read (s.host.hbm[(pa - 0x20300000000) / 0x10000]'(by omega)) (pa % 0x10000)
  else if h : 0x20400000000 ≤ pa ∧ pa < 0x20400010000 then
    let l := s.host.links[(pa - 0x20400000000) / 0x1000]'(by omega)
    match pa % 0x1000 with
    | 0 => l.word0
    | 8 => l.word8
    | _ => 0
  else if 0x20500000000 ≤ pa && pa < 0x20500000060 then s.host.power.read (pa - 0x20500000000)
  else s.unownedRead pa

/-- A write of the 8-byte register at an address by M mode or the physical function; they only read the training blocks
(R341). -/
def State.devWrite (s : State) (pa : Nat) (w : Word) : State :=
  if h : 0x20200000000 ≤ pa ∧ pa < 0x20204000000 then
    s.updDie ⟨(pa - 0x20200000000) / 0x1000000, by omega⟩ (fun d => { d with log := d.log.write64 (pa % 0x1000000) w })
  else if h : 0x20400000000 ≤ pa ∧ pa < 0x20400010000 then
    if pa % 0x1000 = 0 then s.linkWrite ⟨(pa - 0x20400000000) / 0x1000, by omega⟩ w else s
  else if 0x20500000000 ≤ pa && pa < 0x20500000060 then s.powerWrite (pa - 0x20500000000) w
  else s

end Sys2Proof.Machine
end

