-- ==== Sys2Proof/Machine/Kill.lean ====
section
/-!
DEFINITION. What ends, unwinds or rolls back an activation: refusals and withdrawals, gangs disbanding, fault-domain
and domain kills, gate-call unwinding, rollback, integrity violations, and queued M-mode entries (R21, R25, R31, R34,
R91, R181, R203, R213, R302 to R305, R369).
-/

namespace Sys2Proof.Machine

/-! ### Messages -/

def hdrBit (m : Message) (i : Nat) : Bool := bit m.header i
def Message.isRefusal (m : Message) : Bool := hdrBit m 24
def Message.isTask (m : Message) : Bool := hdrBit m 23
def Message.isDoorbell (m : Message) : Bool := hdrBit m 48
def Message.isNotice (m : Message) : Bool := hdrBit m 49
def Message.isLaunch (m : Message) : Bool := hdrBit m 50
def Message.tag (m : Message) : Tag := m.header.extractLsb' 32 16
def Message.chan (m : Message) : BitVec 6 := m.dest.setWidth 6
def Message.core (m : Message) : CoreId := coreOfAddr m.dest
/-- The core the header names as sender (R179). -/
def Message.sender (m : Message) : CoreId :=
  coreOfAddr (m.header.extractLsb' 6 13 ++ (0 : BitVec 6))
/-- The inbox room a message takes (R181). A doorbell has no payload here: it takes 8 bytes, which the spec does not say (R184;
DESIGN CHOICE; log 132). -/
def Message.room (m : Message) : Nat := 8 * (m.payload.length + 1)

/-- Header of R179 with the fields given and the others 0. -/
def mkHeader (chan : BitVec 6) (sender : CoreId) (slots : Nat) (tag : Tag) : Word :=
  at' chan.toNat 0 ||| at' sender.val 6 ||| at' (slots - 1) 19 ||| at' tag.toNat 32

/-- The refusal of a message (R181). -/
def Message.refuse (m : Message) (perm : Bool) : Message :=
  let h := setFld (setFld (setFld (setFld (setFld m.header 0 6 62) 6 13 m.core.val) 24 1 1) 25 6 m.chan.toNat) 31 1
    (if perm then 1 else 0)
  { m with dest := (BitVec.ofNat 13 m.sender.val : BitVec 13) ++ (62 : BitVec 6), header := h }

def State.send (s : State) (f : Flight) : State := { s with net := s.net ++ [f] }

/-- A flight credit returns to its core (R178). -/
def State.credit (s : State) (credit : Option CoreId) : State :=
  match credit with
  | some c => s.updCore c (fun q => { q with credits := min (q.credits + 1) 16 })
  | none => s

/-- Returns an item to its sender as a refusal (R181). -/
def State.sendBack (s : State) (credit : Option CoreId) (m : Message) (perm : Bool) : State :=
  s.send (.refusal credit (m.refuse perm))

/-- Withdraws an accepted item: messages return to their senders with PERM = 1, doorbells are withdrawn, monitor
notices and refusals are discarded (R21, R34). -/
def State.withdraw (s : State) (c : CoreId) (m : Message) : State :=
  if m.isNotice || m.isRefusal then s
  else if m.isDoorbell then
    s.updDom c m.tag (fun d => { d with pend := d.pend &&& ~~~(1#64 <<< m.chan.toNat) })
  else s.sendBack none m true

/-- Withdraws every waiting item of a core that a test picks, in arrival order. -/
def State.withdrawIf (s : State) (c : CoreId) (p : Message → Bool) : State :=
  let box := (s.core c).inbox
  let s := s.updCore c (fun q => { q with inbox := box.filter (fun i => !p i.msg) })
  (box.filter (fun i => p i.msg)).foldl (fun s i => s.withdraw c i.msg) s

/-! ### Stores -/

/-- A write to a place by an agent: `who` is the domain tag, none for M mode. Device registers are reached by whole
8-byte registers (R237). -/
def State.writePlace (s : State) (who : Option Tag) (prot : Bool) (p : Place) (bs : List Byte) : State :=
  match p with
  | .phys pa =>
    if homeOf pa = .dev then
      match blockOf pa with
      | some c => s.updCluster c (fun x => x.blockWrite (s.blockAgent (writerOf who)) (pa % 0x1000) (leWord bs))
      | none => if who.isNone then s.devWrite pa (leWord bs) else s
    else s.writePhys pa bs (if prot then who else none)
  | .scratch c o =>
    s.updCore c (fun q => { q with scratch := q.scratch.writeL o bs, scratchPoison := clearPoison q.scratchPoison o bs.length })
  | .acc t o =>
    s.updTroupe t (fun x => { x with acc := x.acc.writeL o bs, accPoison := clearPoison x.accPoison o bs.length })

def State.perform (s : State) (st : Store) : State := s.writePlace (some st.tag) st.prot st.place st.bytes

/-- The entry names the tile (R156). -/
def MatWork.names (w : MatWork) (tile : Nat) : Bool :=
  match w with
  | .mma _ d .. => d.tile.val = tile
  | .zero t => t.val = tile
  | .st d => d.tile.val = tile
  | .table .. => false

/-- A tile is busy from the acceptance of an entry of the matrix queue that names it until the entry completes (R156). Copy
jobs on accumulator space name offsets, not tiles, and make none busy (log 103). -/
def Troupe.busy (t : Troupe) (tile : Nat) : Bool := t.mat.any (fun e => e.work.names tile)

/-- The store waits in its buffer for the entries of a busy tile (R156). -/
def State.tileHeld (s : State) (st : Store) : Bool :=
  match st.place with
  | .acc t o => (s.troupe t).busy (o / 16384)
  | _ => false

/-- Performs the stores of a context's buffer, oldest first, up to the first that waits for a busy tile (R25, R86, R156). -/
def State.drain (s : State) (c : CoreId) (k : BankId) : State :=
  let l := (s.ctx c k).storeBuf
  (l.takeWhile (fun st => !s.tileHeld st)).foldl State.perform
    (s.updCtx c k (fun x => { x with storeBuf := l.dropWhile (fun st => !s.tileHeld st) }))

/-- Replays the undo log backward: logged bytes end as they were (R90, R304). -/
def State.undo (s : State) (c : CoreId) (k : BankId) : State :=
  let l := (s.ctx c k).undo
  l.foldr (fun u s => s.updCore u.core (fun q => { q with scratch := q.scratch.writeL u.off u.bytes }))
    (s.updCtx c k (fun x => { x with undo := [] }))

/-! ### Gangs (R31) -/

/-- The cores of a gang of which (c, k) is a member. -/
def State.gang (s : State) (c : CoreId) (k : BankId) : List CoreId :=
  let g := (s.ctx c k).regs.gstat
  if g.inGang then
    let n := 2 ^ g.size.toNat
    let x0 := coreX c / n * n
    (List.finRange 8).filterMap (fun x =>
      let m := troupeCore (troupeOf c) x
      if x0 ≤ x.val && x.val < x0 + n && (s.ctx m k).regs.gstat.inGang then some m else none)
  else []

/-- Disbands the gang of (c, k): every member goes on alone, and records why (R31, R153). -/
def State.disband (s : State) (c : CoreId) (k : BankId) (reason : BitVec 4) (cause : BitVec 8) : State :=
  let g := (s.ctx c k).regs.gstat
  let off : BitVec 3 := BitVec.ofNat 3 (coreX c % 2 ^ g.size.toNat)
  (s.gang c k).foldl (fun s m => s.updCtx m k (fun x =>
    let x := { x with queue := [], sentOn := false, regs := { x.regs with gstat :=
      { Gstat.none with reason := reason, member := off, cause := cause } } }
    match x.wait with
    | some (.rejoin _) => { x with wait := none, state := if x.state = .blocked then .ready else x.state }
    | _ => x)) s

/-! ### Gate tables (R287, R289) -/

/-- The address of a gate's table entry, where the tag has a table. -/
def State.gateEntry (s : State) (t : Tag) (idx : Nat) : Option Nat :=
  let d := s.slot (0xBFF0000000 + 8 * t.toNat) 0
  if bit d 0 then some (fld d 14 38 <<< 14 + 64 * idx) else none

/-- The REVOKE notice of a gate with no call left inside (R212, R289). -/
def State.revokeNotice (s : State) (t : Tag) (idx : Nat) : State :=
  let s := match s.gateEntry t idx with | some a => s.readLines a 64 | none => s
  match lookup s.revoking (256 * t.toNat + idx), s.gateEntry t idx with
  | some (c, r), some a =>
    if fld (s.slot a 1) 32 32 = 0 then
      let m : Message :=
        { dest := (BitVec.ofNat 13 c.val : BitVec 13) ++ (63 : BitVec 6)
          header := mkHeader 63 c 2 t ||| atB true 49
          payload := [0x02#64 ||| at' idx 8, at' (fld (s.slot a 1) 0 24) 0], region := r, origin := .monitor }
      { s with revoking := erase s.revoking (256 * t.toNat + idx), net := s.net ++ [.message none m] }
    else s
  | _, _ => s

/-- A call leaves its gate: INSIDE falls by one (R287). -/
def State.leaveGate (s : State) (t : Tag) (idx : Nat) : State :=
  match s.gateEntry t idx with
  | some a =>
    let s := s.readLines a 64
    let w := s.slot a 1
    (s.setSlot a 1 (setFld w 32 32 (fld w 32 32 - 1))).revokeNotice t idx
  | none => s

/-- The ORPHAN notice to the callee of a popped entry, on the core of the killed call (R203, R212). -/
def State.orphan (s : State) (c : CoreId) (k : CtxId) (e : DomEntry) : State :=
  let r := (lookup s.published (256 * e.callee.toNat + e.gate.toNat)).getD 0
  let m : Message :=
    { dest := (BitVec.ofNat 13 c.val : BitVec 13) ++ (63 : BitVec 6)
      header := mkHeader 63 c 2 e.callee ||| atB true 49
      payload := [0x01#64 ||| at' e.gate.toNat 8 ||| at' e.caller.toNat 16 ||| at' k.val 32, e.region.setWidth 64]
      region := r, origin := .monitor }
  s.send (.message none m)

/-! ### Ending an activation (R25, R34, R369) -/

/-- Counts a launch activation as ended (R260). -/
def State.launchEnded (s : State) (l : Option (DieId × Nat)) : State :=
  match l with
  | some (d, i) => s.updDie d (fun x =>
      match lookup x.shares i with
      | some h => { x with shares := insert x.shares i { h with left := h.left - 1 } }
      | none => x)
  | none => s

/-- The context after its activation: nothing is kept (R24). -/
def Context.ended (x : Context) : Context :=
  { x with state := .dormant, wait := none, safe := none, pending := [], outstanding := [], outbox := [], undo := [], verifs := [],
           restorable := false, restore := none, rolledBack := false, event := none, queue := [], sentOn := false, launch := none,
           regs := { x.regs with dom := [], link := [], loops := [], streams := .replicate 4 .off, guardPending := false,
                                 arrOpen := 0, gstat := .none } }

/-- What a killed activation keeps while its store buffer waits for a busy tile: its undo log and its launch (R25, R156). -/
def Context.dying (x : Context) : Context :=
  { Context.ended x with state := .blocked, wait := some .dying, undo := x.undo, launch := x.launch }

/-- The kill of the context has begun and its stores have still to perform. -/
def Context.isDying (x : Context) : Bool := x.wait = some .dying

/-- The last of a kill: the store-buffer entries perform, then the undo log is replayed and the context is DORMANT; until a
busy tile lets the buffer empty, the context waits (R25, R156). -/
def State.endKilled (s : State) (c : CoreId) (k : CtxId) : State :=
  let s := s.drain c (bank k)
  let x := s.ctx c (bank k)
  if x.storeBuf = [] then ((s.undo c (bank k)).launchEnded x.launch).updCtx c (bank k) Context.ended
  else s.updCtx c (bank k) Context.dying

/-- The kill of an activation: the calls it is in are unwound with their ORPHAN notices, its outbox is discarded, its stores
perform, its undo log is replayed, and the context is DORMANT (R25, R203). -/
def State.killCtx (s : State) (c : CoreId) (k : CtxId) : State :=
  let x := s.ctx c (bank k)
  if x.state = .dormant || x.isDying then s else
  let s := if x.regs.gstat.inGang then s.disband c (bank k) 3 0 else s
  let s := x.regs.dom.foldl (fun s e => (s.leaveGate e.callee e.gate.toNat).orphan c k e) s
  s.endKilled c k

/-- Every core and context, not SAVED, whose activation a test picks. -/
def State.contextsIf (s : State) (p : CoreId → CtxId → Context → Bool) : List (CoreId × CtxId) :=
  (s.cores.map (fun e => if h : e.1 < 8192 then
      let c : CoreId := ⟨e.1, h⟩
      (List.finRange 8).filterMap (fun k =>
        let x := s.ctx c (bank k)
        if x.state ≠ .dormant && x.state ≠ .saved && p c k x then some (c, k) else none)
    else [])).flatten

def State.listedTroupes (s : State) : List TroupeId :=
  s.troupes.filterMap (fun e => if h : e.1 < 1024 then some ⟨e.1, h⟩ else none)

/-- Status word of a retired matrix job (R159). -/
def matStatus (state err rg : Nat) (flags : BitVec 5) (ls : Bool) : Word :=
  at' state 0 ||| at' err 4 ||| at' rg 8 ||| at' flags.toNat 12 ||| atB ls 17
/-- Status word of a copy job (R193). -/
def copyStatus (state err rows : Nat) : Word := at' state 0 ||| at' err 4 ||| at' rows 8

/-- Sets the handle of an engine job FREE, where it has taken it (R168, R192). -/
def Troupe.freeHandle (t : Troupe) (h : Option (Fin 32)) (taken : Bool) : Troupe :=
  match h with
  | some i => if taken then { t with handles := t.handles.set i .reset } else t
  | none => t

/-- Statuses held: those whose SEQ the count of accepted jobs has not passed by more than 256 (R159, R193). -/
def keepStatus (next : Nat) (l : List JobStatus) (x : JobStatus) : List JobStatus :=
  x :: l.filter (fun y => (BitVec.ofNat 24 next - y.seq).toNat ≤ 256)

/-- Retires the jobs of a troupe that a test picks, with ERR 7 and no completion (R168, R192). -/
def Troupe.killJobs (t : Troupe) (p : JobOwner → Bool) : Troupe :=
  let t := t.mat.foldl (fun t e =>
    if p e.owner then
      let t := match e.work with
        | .mma _ d .. => t.freeHandle d.handle (e.phase ≠ .queued)
        | _ => t
      let st : JobStatus :=
        { seq := e.seq, owner := e.owner, status := matStatus 3 7 e.rg e.flags e.lsnew, stall := e.stall, taken := false }
      match e.work with
      | .mma .. | .st .. => { t with matDone := keepStatus t.matSeq t.matDone st }
      | _ => t
    else t) t
  let t := t.copies.foldl (fun t e =>
    if p e.owner then
      let t := t.freeHandle e.desc.handle (e.phase ≠ .queued)
      let st : JobStatus :=
        { seq := e.seq, owner := e.owner, status := copyStatus 3 7 e.rows, stall := 0, taken := false }
      { t with copyDone := keepStatus t.copySeq t.copyDone st }
    else t) t
  { t with mat := t.mat.filter (fun e => !p e.owner), copies := t.copies.filter (fun e => !p e.owner) }.dropRequest

/-- Drops the save frames a test picks; for those not restored since, the ORPHAN notices of their calls are sent and the contexts they were saved
from stay or become DORMANT (R290). -/
def State.dropFrames (s : State) (p : Frame → Bool) : State :=
  let gone := s.frames.filter (fun e => p e.2 && e.2.live)
  let s := { s with frames := s.frames.filter (fun e => !p e.2) }
  gone.foldl (fun s e =>
    let s := match e.2.entry with
      | some d => (s.leaveGate d.callee d.gate.toNat).orphan e.2.core e.2.ctx d
      | none => s
    if e.2.level ≠ 0 then s
    else
      let s := s.launchEnded e.2.launch
      let x := s.ctx e.2.core (bank e.2.ctx)
      if x.state = .saved && !e.2.freed then s.updCtx e.2.core (bank e.2.ctx) Context.ended else s) s

/-- Drops the held refusals of a core that a test picks; their credits return (R181). -/
def State.dropRefusals (s : State) (c : CoreId) (p : Message → Bool) : State :=
  let gone := (s.core c).refusals.filter (fun h => p h.msg)
  let s := s.updCore c (fun q => { q with refusals := q.refusals.filter (fun h => !p h.msg) })
  gone.foldl (fun s h => s.credit h.credit) s

/-- Kills the regions of a list: their activations, items, task records and engine jobs (R34). -/
def State.killRegions (s : State) (rs : List Nat) : State :=
  let dead (r : BitVec 32) : Bool := rs.contains r.toNat
  let s := rs.foldl (fun s r => match s.regionPa (BitVec.ofNat 32 r) with
    | some pa => s.setSlot pa 0 (setFld (s.slot pa 0) 36 2 2)
    | none => s) s
  let s := s.dropFrames (fun f => dead f.region)
  let s := (s.contextsIf (fun _ _ x => dead x.regs.region)).foldl (fun s e => s.killCtx e.1 e.2) s
  let s := s.listedCores.foldl (fun s c =>
    ((s.withdrawIf c (fun m => dead m.region)).dropRefusals c (fun m => dead m.region)).updCore c (fun q => { q with
      doms := q.doms.map (fun e => (e.1, { e.2 with deque := e.2.deque.filter (fun t => !dead t.region) })) })) s
  s.listedTroupes.foldl (fun s t => s.updTroupe t (fun x => x.killJobs (fun o => dead o.region))) s

/-- A fault that kills a fault domain kills the smallest one that encloses the charged region (R34). -/
def State.killFaultDomain (s : State) (r : BitVec 32) : State := s.killRegions (s.faultDomain r)

/-! ### Unwinding gate calls (R203) -/

/-- Clears what a return or an unwind clears: g from `low` on, every f, v, m and p register, t0 and the table
slots (R201, R203). v28 to v31 leave stream mode too, which the spec does not say (DESIGN CHOICE; log 120). -/
def Regs.clearFrom (r : Regs) (low : Nat) : Regs :=
  { r with g := Vector.ofFn (fun i : Fin 32 => if i.val < low then r.g[i] else 0)
           f := .replicate 32 0, v := .replicate 32 0, p := Regs.clear.p, m := Regs.clear.m, t0 := 0
           ta := { r.ta with valid := false }, tb := { r.tb with valid := false }
           streams := .replicate 4 .off }

/-- Writes a g register; g0 stays 0 (R14). -/
def Regs.setG (r : Regs) (n : Fin 32) (w : Word) : Regs := if n = 0 then r else { r with g := r.g.set n w }

/-- Pops one domain-stack entry with the stack and CSR restoration of GRET (R201), clearing g from `low` on. -/
def Regs.popEntry (r : Regs) (e : DomEntry) (low : Nat) : Regs :=
  let r := r.clearFrom low
  { r with dom := r.dom.drop 1, link := r.link.drop (r.link.length - e.lfloor), loops := r.loops.drop (r.loops.length - e.pfloor)
           lc := e.lc, ls := e.ls, fflg := e.fflg, fen := e.fen, lsf := e.lsf, tcause := 0, tag := e.caller }

/-- The context M mode serves; a core entry serves none (R273). -/
def Core.served (q : Core) : Option CtxId :=
  match q.mmode with
  | some e => if e.core then none else some e.ctx
  | none => none

/-- An entry to M mode waits for the context (R213). -/
def Core.entryFor (q : Core) (k : CtxId) : Bool := q.mqueue.any (fun e => !e.core && e.ctx = k)

/-- The M bank stands at `mtvec`: the monitor has yet to act on the entry. -/
def Core.atVector (q : Core) : Bool := q.ctxs[mBank].state = .ready && q.ctxs[mBank].regs.pc = q.mtvec

/-- The entry of a stop request: cause 0x15, or 0x14 but for a window's opening (R273, R274). -/
def MEntry.stops (e : MEntry) : Bool := e.core && (e.cause = 0x15 || (e.cause = 0x14 && !bit e.val 63))

/-- The M bank is released; with the entry of a stop request the request is over, and STOPPED reads 0 where no other has begun
(R216, R271, R273; log 124). -/
def Core.leave (q : Core) : Core :=
  { q with mmode := none
           pmreq := if q.mmode.any MEntry.stops && q.pmreq.stop = 0 then { q.pmreq with stopped := 0 } else q.pmreq }

/-- The context has no activation to go on with: it is DORMANT or SAVED, or its kill is under way. -/
def Context.gone (x : Context) : Bool := x.state = .saved || x.state = .dormant || x.isDying

/-- Leaves M mode: the served context resumes at mepc unless it was saved or ended (R216). -/
def State.leaveM (s : State) (c : CoreId) : State :=
  let q := s.core c
  let s := s.updCore c Core.leave
  match q.served with
  | some k => s.updCtx c (bank k) (fun x => if x.gone then x else { x with regs := { x.regs with pc := q.mepc } })
  | none => s

/-- A served context that an event has moved resumes where the event left it: `mepc` follows (R203, R216; log 121). -/
def State.follow (s : State) (c : CoreId) (k : CtxId) : State :=
  if (s.core c).served = some k then s.updCore c (fun q => { q with mepc := q.ctxs[bank k].regs.pc }) else s

/-- Unwinds a context to the caller of the entry at depth `depth` from the bottom, with a status; issued stores stay in the
buffer and perform from there (R203). The unwind begins a run, which R46 does not list (DESIGN CHOICE; log 122). -/
def State.unwind (s : State) (c : CoreId) (k : CtxId) (depth : Nat) (status : Nat) : State :=
  let x := s.ctx c (bank k)
  let s := if x.regs.gstat.inGang then s.disband c (bank k) 2 0 else s
  let popped := x.regs.dom.take (x.regs.dom.length - depth)
  let s := popped.foldl (fun s e => s.leaveGate e.callee e.gate.toNat) s
  (s.updCtx c (bank k) (fun x =>
    let r := popped.foldl (fun r e => r.popEntry e 1) x.regs
    let r := match popped.getLast? with
      | some e => { (r.setG e.sreg (BitVec.ofNat 64 status)) with pc := e.retpc }
      | none => r
    { x with regs := r, state := if x.state = .saved then .saved else .ready, wait := none, safe := none, pending := [],
             outstanding := [], outbox := [], undo := [], restorable := false, restore := none, event := none })).follow c k

/-- Kills a domain: its activations end, its callers are unwound, its engine jobs and items go (R369). -/
def State.killDomain (s : State) (t : Tag) : State :=
  let s := match s.domain? t with
    | some d => { s with domains := insert s.domains t.toNat { d with killed := true } }
    | none => s
  -- no REVOKE notice of the domain's gates follows (R289)
  let s := { s with revoking := s.revoking.filter (fun e => e.1 / 256 ≠ t.toNat) }
  let outer := s.frames.filter (fun e => e.2.level = 0 && e.2.tag = t)
  let s := s.dropFrames (fun f => outer.any (fun e => e.2.base = f.base))
  let s := (s.contextsIf (fun _ _ x => x.regs.outerTag = t)).foldl (fun s e => s.killCtx e.1 e.2) s
  let s := (s.contextsIf (fun _ _ x => x.regs.dom.any (fun e => e.callee = t))).foldl (fun s e =>
    let d := (s.ctx e.1 (bank e.2)).regs.dom
    -- the lowest entry whose callee is the domain, counted from the bottom
    let depth := d.reverse.findIdx (fun x => x.callee = t)
    s.unwind e.1 e.2 depth 2) s
  let s := s.listedCores.foldl (fun s c =>
    ((s.withdrawIf c (fun m => m.tag = t)).dropRefusals c (fun m => m.tag = t)).updCore c (fun q => { q with
      doms := q.doms.map (fun e => if e.1 = t.toNat then (e.1, { e.2 with deque := [] }) else e) })) s
  s.listedTroupes.foldl (fun s x => s.updTroupe x (fun y => y.killJobs (fun o => o.tag = t))) s

/-! ### M-mode entries (R213) -/

/-- An entry waits in cause order until the core's M bank is free. -/
def State.queueEntry (s : State) (c : CoreId) (e : MEntry) : State :=
  s.updCore c (fun q =>
    let lo := q.mqueue.takeWhile (fun x => x.cause ≤ e.cause)
    { q with mqueue := lo ++ e :: q.mqueue.drop lo.length })

/-- A trap in M mode: the core stops until core reset, with a record (R213). -/
def State.monitorFault (s : State) (c : CoreId) : State :=
  let q := s.core c
  let s := s.updCore c (fun q => { q with dead := true })
  s.log (dieOf c) { kind := 0x0D, cls := 5, core := some c, ctx := q.mctx.val, detail := q.mcause.toNat, data := q.mtval
                    pc := q.ctxs[mBank].regs.pc }

/-! ### Integrity violations and rollback (R91, R303) -/

/-- An integrity violation of a domain's data: the charged fault domain is killed, the partition moves from RUN to
ERROR, and a record is written (R91, R292). -/
def State.integrity (s : State) (die : DieId) (core : Option CoreId) (ctx : Nat) (t : Tag) (r : BitVec 32) (line : Nat)
    (pc : Word) (injected : Bool) : State :=
  let p := s.partOf t
  let s := s.killFaultDomain r
  let s := if s.partitions[p].state = .run then
      { s with partitions := s.partitions.set p { s.partitions[p] with state := .error } } else s
  s.log die { kind := 0x07, cls := 3, injected := injected, core := core, ctx := ctx, tag := t, part := some p, region := r, addr := at' line 0, pc := pc }

/-- The integrity violation of a context's access, with its M-mode entry (R63, R91). -/
def State.ctxIntegrity (s : State) (c : CoreId) (k : CtxId) (line : Nat) (injected : Bool) : State :=
  let x := s.ctx c (bank k)
  let s := s.integrity (dieOf c) (some c) k.val x.regs.tag x.regs.region line x.regs.pc injected
  s.queueEntry c { cause := 0x11, ctx := k, core := false, epc := x.regs.pc, val := at' line 0 }

/-- The call-board entry of a channel of a domain, and its HANDLER (R19). -/
def State.entry (s : State) (c : CoreId) (t : Tag) (ch : BitVec 6) : Word := (s.dom c t).board[ch.toNat]?.getD 0
def entryHandler (e : Word) : Word := zext e 32

/-- A redelivered item, marked, at the head of its channel's waiting items; where the channel has no handler left, R21
deals with it (R305). -/
def State.redeliver (s : State) (c : CoreId) (i : Item) : State :=
  if entryHandler (s.entry c i.msg.tag i.msg.chan) = 0 then s.withdraw c i.msg
  else s.updCore c (fun q => { q with inbox := { i with msg := { i.msg with header := i.msg.header ||| atB true 51 } } :: q.inbox })

/-- A pending verification of a context that fails (R303). -/
def Context.badVerif (x : Context) : Option Verif := x.verifs.find? (fun v => !v.ok)

/-- The rollback decision loads a restore point (R303). -/
def Context.rollsBack (x : Context) : Bool := x.verifs.all (·.ok) && x.restorable && !x.rolledBack && x.restore.isSome

/-- A rollback waits for the context's store buffer, which waits for a busy tile (R156, R304; log 107). -/
def State.rollbackWaits (s : State) (c : CoreId) (k : CtxId) : Bool :=
  (s.ctx c (bank k)).rollsBack && (s.ctx c (bank k)).storeBuf.any s.tileHeld

/-- The rollback decision for a context (R303, R304). `cause` is 0x12 or 0x13. A gang of the context disbands (R31, R298). A
restore image begins a run, which R46 does not list (DESIGN CHOICE; log 122). -/
def State.rollbackCtx (s : State) (c : CoreId) (k : CtxId) (cause : Nat) : State :=
  let x := s.ctx c (bank k)
  let r := x.regs
  let base : Rec := { kind := 0, cls := 0, core := some c, ctx := k.val, tag := r.tag, part := some (s.partOf r.tag)
                      region := r.region, pc := r.pc }
  match x.badVerif with
  | some v => s.ctxIntegrity c k v.line v.injected
  | none =>
    let s := if r.gstat.inGang then s.disband c (bank k) 2 (BitVec.ofNat 8 cause) else s
    match x.restorable && !x.rolledBack, x.restore with
    | true, some rp =>
      let s := (s.drain c (bank k)).undo c (bank k)
      let s := if rp.atStart then
          let s := s.updCtx c (bank k) (fun x => { Context.ended x with rolledBack := true })
          match rp.item with | some i => s.redeliver c i | none => s
        else (s.updCtx c (bank k) (fun x => { x with
          regs := { rp.regs with guardPending := false, gfa := 0, gstat := x.regs.gstat }, state := .ready, wait := none, safe := none
          pending := [], outstanding := [], outbox := [], verifs := [], event := none, rolledBack := true })).follow c k
      s.log (dieOf c) { base with kind := 0x08, cls := 1, detail := if rp.atStart then 0 else 1 }
    | _, _ =>
      let s := s.killFaultDomain r.region
      s.log (dieOf c) { base with kind := 0x09, cls := 2, detail := cause }

/-- The die that records what is found at a place. -/
def Place.die : Place → DieId
  | .phys pa => lineDie pa
  | .scratch c _ => dieOf c
  | .acc t _ => troupeDie t

/-- A record of an uncorrectable word is one of this place: by address in memory, by core in a scratchpad (R307). -/
def Place.recorded (p : Place) (r : LogRecord) : Bool :=
  fld r.slots[2] 0 8 = 2 &&
    (match p with
      | .phys pa => r.slots[4].toNat / 8 = pa / 8
      | .scratch c _ => fld r.slots[2] 16 13 = c.val
      | .acc .. => fld r.slots[2] 16 13 = 0)

/-- Gives the ECC_UNCORR record just written for a place CLASS 2, the read having caused a kill (R307). -/
def State.uncorrKilled (s : State) (p : Place) : State :=
  let d := p.die
  let l := s.dies[d].log
  let n := (l.count - 1) % 4096
  match lookup l.records n with
  | some r =>
    if l.count ≠ 0 && r.slots[1] = BitVec.ofNat 64 s.clock && p.recorded r then
      let r' : LogRecord := { slots := r.slots.set 2 (setFld r.slots[2] 8 3 2) }
      let s := s.updDie d (fun x => { x with log := { x.log with records := insert x.log.records n r' } })
      if l.enable && fld r.slots[2] 8 3 < 2 then s.raise 0 ⟨l.vector.toNat, l.vector.isLt⟩ else s
    else s
  | none => s

/-- A rollback event of cause 0x12: the decision, then the M-mode entry with the address where the context goes on; an
integrity violation that decides it makes its own entry (R63, R303). -/
def State.rollbackEvent (s : State) (c : CoreId) (k : CtxId) (val : Word) : State :=
  let bad := (s.ctx c (bank k)).badVerif.isSome
  let s := s.rollbackCtx c k 0x12
  if bad then s else s.queueEntry c { cause := 0x12, ctx := k, core := false, epc := (s.ctx c (bank k)).regs.pc, val := val }

/-- Uncorrectable data consumed by a context; where the rollback waits, the instruction waits before its effect and meets the
data again (R301, R303). -/
def State.consumePoison (s : State) (c : CoreId) (k : CtxId) (p : Place) (pa : Nat) : State :=
  if s.rollbackWaits c k then s.updCtx c (bank k) (fun x => { x with state := .blocked, wait := some (.reissue false) }) else
  let s := if (s.ctx c (bank k)).rollsBack || (s.ctx c (bank k)).badVerif.isSome then s else s.uncorrKilled p
  s.rollbackEvent c k (at' pa 0)

end Sys2Proof.Machine
end

