-- ==== Sys2Proof/Machine/Access.lean ====
section
/-!
DEFINITION. Address spaces, translation, protection windows and the checks of an access (R84, R85, R155, R200, R222,
R227 to R233, R282).
-/

namespace Sys2Proof.Machine

inductive Kind where
  | load | store | atomic | fetch
  deriving DecidableEq, Repr

/-- Kinds whose page fault is the store page fault (R84, R94). -/
def Kind.writes : Kind → Bool
  | .store | .atomic => true
  | _ => false

/-! ### Protection windows (R282) -/

def inMonitorRange (a : Nat) : Bool := 0xBFF0000000 ≤ a && a < 0xC000000000

def Window.grants (w : Window) (a : Nat) (scratch : Bool) (kind : Kind) (tag : Tag) : Bool :=
  w.v && w.dtag = tag && tag ≠ 0 && w.space = scratch && 64 * w.base.toNat ≤ a && a ≤ 64 * w.limit.toNat + 63 &&
    (match kind with
      | .load => w.rd
      | .store => w.wr
      | .atomic => w.rd && w.wr
      | .fetch => w.ex)

/-- `window_grants`: `a` is a physical address, or a cluster-window offset where `scratch`. -/
def Core.grants (q : Core) (a : Nat) (scratch : Bool) (kind : Kind) (tag : Tag) : Bool :=
  if !scratch && inMonitorRange a then false
  else if !scratch && (blockOf a).isSome && (kind = .load || kind = .store) then true
  else q.windows.toList.any (fun w => w.grants a scratch kind tag)

/-! ### Translation (R230 to R234) -/

/-- A leaf: the page's physical address and size, permissions, memory type, P (R231). -/
structure Leaf where
  pa : Nat
  size : Nat
  r : Bool
  w : Bool
  x : Bool
  ty : BitVec 2
  prot : Bool
  deriving DecidableEq, Repr

/-- Why a walk fails: the fault code of R239, or an integrity violation or poisoned word on the way, or an armed injection
that its read fires first (R221). -/
inductive WalkFault where
  | code (c : BitVec 2)
  | integrity (line : Nat)
  | poison (pa : Nat)
  | fire (pa : Nat)
  deriving DecidableEq, Repr

def typeForbidden (ty : BitVec 2) (pa : Nat) : Bool :=
  match homeOf pa with
  | .dram | .vault => 2 ≤ ty.toNat
  | .dev => ty.toNat < 2
  | _ => false

/-- Bits of the address that index a level, A to E as 0 to 4 (R230). -/
def levelIndex (level va : Nat) : Nat :=
  match level with
  | 0 => va / 2 ^ 48 % 256
  | 1 => va / 2 ^ 39 % 512
  | 2 => va / 2 ^ 30 % 512
  | 3 => va / 2 ^ 21 % 512
  | _ => va / 2 ^ 16 % 32

def pageSize (level : Nat) : Nat :=
  match level with
  | 2 => 2 ^ 30
  | 3 => 2 ^ 21
  | _ => 2 ^ 16

/-- Alignment of the table below a level. -/
def nextTable (level : Nat) : Nat := if level = 3 then 256 else 4096

/-- Bytes a pointer entry of a level covers. -/
def walkSpan (level : Nat) : Nat := match level with | 0 => 2 ^ 48 | 1 => 2 ^ 39 | 2 => 2 ^ 30 | _ => 2 ^ 21

/-- The walk from a level on, over the physical memory of the state, with the pointer entries it passes; `ok` says which
table bases the windows grant. -/
def State.walkFrom (s : State) (ok : Nat → Bool) (tag : Tag) (va : Nat) :
    Nat → Nat → Nat → Except WalkFault (Leaf × List WalkEntry)
  | 0, _, _ => .error (.code 2)
  | fuel + 1, level, base =>
    if !ok base then .error (.code 2) else
    let ea := base + 8 * levelIndex level va
    if (s.injection ea 8).isSome then .error (.fire ea) else
    if (poisonedIn s.poison ea 8).isSome then .error (.poison ea) else
    if (lookup s.lines (ea / 64 * 64)).any (fun l => l.writer.isSome) && !s.macOk ea tag then .error (.integrity (ea / 64 * 64)) else
    let e := s.slot ea 0
    let addr := fld e 8 44 * 256
    if !bit e 0 then .error (.code 0)
    else if fld e 52 12 ≠ 0 then .error (.code 2)
    else if bit e 6 then
      let leaf : Leaf := { pa := addr, size := pageSize level, r := bit e 1, w := bit e 2, x := bit e 3
                           ty := e.extractLsb' 4 2, prot := bit e 7 }
      if level < 2 || addr % leaf.size ≠ 0 then .error (.code 2)
      else if (leaf.w && !leaf.r) || typeForbidden leaf.ty addr ||
          (leaf.prot && !(homeOf addr = .dram || homeOf addr = .vault)) then .error (.code 2)
      else .ok (leaf, [])
    else if level = 4 || fld e 1 5 ≠ 0 || bit e 7 || addr % nextTable level ≠ 0 then .error (.code 2)
    else do
      let (l, es) ← s.walkFrom ok tag va fuel (level + 1) addr
      .ok (l, { level := level, tag := tag, va := va / walkSpan level * walkSpan level, base := addr } :: es)

/-- The deepest cached pointer entry for an address (R234). -/
def Cluster.pointer (x : Cluster) (tag : Tag) (va : Nat) : Option WalkEntry :=
  [3, 2, 1, 0].findSome? (fun l => x.walk.find? (fun e => e.level = l && e.tag = tag && va / walkSpan l * walkSpan l = e.va))

/-- The walk of R232 by a walker of a cluster, from a cached pointer entry where one stands. -/
def State.walkIn (s : State) (cl : ClusterId) (ok : Nat → Bool) (tag : Tag) (va : Nat) :
    Except WalkFault (Leaf × List WalkEntry) :=
  let x := s.cluster cl
  match x.pointer tag va with
  | some e => s.walkFrom ok tag va 5 (e.level + 1) e.base
  | none =>
    let da := x.drbase.toNat * 2 ^ 19 + 8 * tag.toNat
    if (s.injection da 8).isSome then .error (.fire da) else
    if (poisonedIn s.poison da 8).isSome then .error (.poison da) else
    let d := s.slot da 0
    if !bit d 0 then .error (.code 3) else s.walkFrom ok tag va 5 0 (fld d 8 44 * 256)

/-- The walk for an access of a core's thread, with the pointer entries it passes. -/
def State.walkAll (s : State) (c : CoreId) (tag : Tag) (va : Nat) : Except WalkFault (Leaf × List WalkEntry) :=
  s.walkIn (clusterOf c) (fun a => (s.core c).grants a false .load tag) tag va

def State.walk (s : State) (c : CoreId) (tag : Tag) (va : Nat) : Except WalkFault Leaf := (s.walkAll c tag va).map (·.1)

/-- A cached translation of an address (R234). -/
def tlbFind (l : List TlbEntry) (tag : Tag) (va : Nat) : Option TlbEntry :=
  l.find? (fun e => e.tag = tag && va / e.size * e.size = e.va)

/-- The translation of an address: a cached leaf where one stands, else a walk. -/
def State.translate (s : State) (c : CoreId) (tag : Tag) (va : Nat) : Except WalkFault Leaf :=
  match tlbFind ((s.core c).tlb ++ (s.troupe (troupeOf c)).tlb) tag va with
  | some e => .ok { pa := e.pa, size := e.size, r := e.r, w := e.w, x := e.x, ty := e.ty, prot := e.prot }
  | none => s.walk c tag va

def Leaf.permits (l : Leaf) (k : Kind) : Bool :=
  match k with
  | .load => l.r
  | .store => l.w
  | .atomic => l.r && l.w
  | .fetch => l.x

/-! ### The checks of an access (R84, R85) -/

/-- Why an instruction ends before its own effect is complete: a precise trap or a wait, which leave the state before
it, or a state in which it has ended otherwise (a kept wait, a kill, a rollback). -/
inductive Stop where
  | trap (cause : BitVec 8) (tval : Word)
  /-- A pending guard fault at a reporting point (R229): trap 0x09, the pending bit cleared, gfa kept. -/
  | guardFault (gfa : Word)
  /-- The effect has not begun: the context waits and the instruction is issued again (R370). While `committing`, a
  commit point lets the outbox leave (R176). -/
  | again (committing : Bool)
  /-- A read on the way fires an armed injection, and the instruction is issued again (R221). -/
  | fire (pa : Nat)
  | halt (s : State)

/-- The tag a read of a page is made under: the reader's where the page is protected. -/
def protTag (prot : Bool) (t : Tag) : Option Tag := if prot then some t else none

/-- An accepted access: where it goes, the page's type and protection, the tag whose guard bitmap applies (R228). -/
structure Loc where
  place : Place
  ty : BitVec 2
  prot : Bool
  gtag : Tag
  /-- A scratchpad write there is recorded in the undo log: the own alias and the cluster window (R90). -/
  logged : Bool
  deriving DecidableEq, Repr

def aliasBase : Nat := 0xFFF8000000000000
def clusterBase : Nat := 0xFFF0000000000000
def argBase : Nat := 0xFFF9000000000000
def accBase : Nat := 0xFFFA000000000000

/-- The address of element (0, 0) of a tile (R154, R155). -/
def tileAddr (t : Nat) : Word := BitVec.ofNat 64 (accBase + 16384 * t)

/-- Bytes o to o + n − 1 of a core's 128 KiB lie outside the deque region and inside the scratchpad. -/
def scratchOpen (o n : Nat) : Bool := o + n ≤ 0x1F800

/-- Addresses of the own cluster's scratchpads: the cluster window and the own alias (R166). -/
def ownScratch (addr : Nat) : Bool :=
  (clusterBase ≤ addr && addr < clusterBase + 0x800000) || (aliasBase ≤ addr && addr < aliasBase + 0x20000)

/-- The check of scratchpad bytes of a core of the cluster. -/
def State.checkScratch (s : State) (c target : CoreId) (o n : Nat) (kind : Kind) (tag : Tag) : Bool :=
  scratchOpen o n && (s.mMode || (s.core c).grants (coreN target * 0x20000 + o) true kind tag)

/-- `check_access` without its alignment step, for the executing context. M mode reaches every tile, whoever owns it, as it reaches
every window: R214 and R282 lift translation and windows, and do not name ownership (DESIGN CHOICE; log 76). On an accumulator tile the domain does not own tval is
the tile's element (0, 0), for a strip read too (R149, R155; log 100). -/
def State.checkSpace (s : State) (addr size : Nat) (kind : Kind) : Except Stop Loc :=
  let c := s.turn.core
  let r := s.regs
  let tv : Word := BitVec.ofNat 64 addr
  let deny : Except Stop Loc := .error (.trap 0x06 tv)
  let fault : Except Stop Loc := .error (.trap (if kind.writes then 0x08 else 0x07) tv)
  let local' (target : CoreId) (o : Nat) (tag : Tag) (logged : Bool) : Except Stop Loc :=
    if s.checkScratch c target o size kind tag then
      .ok { place := .scratch target o, ty := 0, prot := false, gtag := tag, logged := logged }
    else deny
  if addr < 2 ^ 56 then
    if s.mMode then
      if homeOf addr = .none then deny else .ok { place := .phys addr, ty := 0, prot := false, gtag := 0, logged := false }
    else
      match s.translate c r.tag addr with
      | .error (.code _) => fault
      | .error (.fire pa) => .error (.fire pa)
      | .error (.integrity line) => .error (.halt (s.ctxIntegrity c s.myCtx line false))
      | .error (.poison pa) => .error (.halt (s.consumePoison c s.myCtx (.phys pa) pa))
      | .ok l =>
        if !l.permits kind then fault else
        let pa := l.pa + addr % l.size
        if homeOf pa = .none then deny
        else if kind = .fetch && l.ty ≠ 0 then deny
        else if !(s.core c).grants pa false kind r.tag then deny
        else .ok { place := .phys pa, ty := l.ty, prot := l.prot, gtag := r.tag, logged := false }
  else if kind = .fetch then deny
  else if h : clusterBase ≤ addr ∧ addr < clusterBase + 0x800000 then
    local' (sibling c ⟨(addr - clusterBase) / 0x20000, by omega⟩) ((addr - clusterBase) % 0x20000) r.tag true
  else if aliasBase ≤ addr && addr < aliasBase + 0x20000 then local' c (addr - aliasBase) r.tag true
  else if argBase ≤ addr && addr < accBase then
    match r.dom with
    | e :: _ =>
      let i := addr - argBase
      let w := e.window.setWidth 64
      if i + size ≤ fld w 17 13 && (kind = .load || bit w 30) then local' c (fld w 0 17 + i) e.caller false else deny
    | [] => deny
  else if accBase ≤ addr && addr < accBase + 0x40000 then
    let t := troupeOf c
    let tile : Fin 16 := ⟨(addr - accBase) / 16384 % 16, by omega⟩
    if kind = .atomic then deny
    else if s.mMode || (s.troupe t).owners[tile] = some r.tag then
      .ok { place := .acc t (addr - accBase), ty := 0, prot := false, gtag := r.tag, logged := false }
    else .error (.trap 0x06 (tileAddr tile.val))
  else deny

/-- `check_access` (R84). -/
def State.checkAccess (s : State) (addr size : Nat) (kind : Kind) : Except Stop Loc :=
  if addr % size ≠ 0 then .error (.trap 0x05 (BitVec.ofNat 64 addr)) else s.checkSpace addr size kind

/-! ### Guard granules (R227, R228) -/

/-- Whether a scratchpad byte lies in a guard granule for the access's tag. -/
def State.guarded (s : State) (l : Loc) (i : Nat) : Bool :=
  match l.place with
  | .scratch c o => !s.mMode && (s.dom c l.gtag).guard.getLsbD ((o + i) / 64)
  | _ => false

/-- Records the first guard touch since the last report (R228). -/
def State.guardTouch (s : State) (l : Loc) (i : Nat) (write : Bool) : State :=
  match l.place with
  | .scratch c o =>
    s.updRegs (fun r => if r.guardPending then r else { r with
      guardPending := true
      gfa := at' ((o + i) / 64 % 16) 0 ||| at' (o + i) 4 ||| at' (coreN c) 21 ||| atB write 27 ||| atB true 28 })
  | _ => s

/-! ### Reads of a place -/

/-- A walk's read fires an armed injection: whether the line is one written protected whose MAC it makes fail (R221). -/
def State.fireWalk (s : State) (pa : Nat) : State × Bool :=
  let r := s.inject pa 1
  (r.1, r.2.2 && (lookup s.lines (pa / 64 * 64)).any (fun l => l.writer.isSome))

/-- A byte of physical memory as an agent reads it, device registers apart; `who` is the domain of a protected read. A line reads
plain under the keys it was written under, and as ciphertext under others, or under none (R240; log 19). A save frame reads as what
was sealed (R220). -/
def State.physByte (s : State) (who : Option Tag) (a : Nat) : Byte :=
  match s.frameAt a, lookup s.lines (a / 64 * 64) with
  | some (base, f), _ => (lookup f.overlaid a).getD (f.byte (a - base))
  | none, some l =>
    let key := who.bind (s.engineKey a)
    if key = l.writer then s.mem.read a
    else match l.writer.or key with
      | some k => Config.cipherByte k.data a l.counter
      | none => s.mem.read a
  | none, none => s.mem.read a

/-- Bytes of a place as an agent reads them, device registers apart; `who` is the domain of a read of a protected page. -/
def State.readPlace (s : State) (p : Place) (who : Option Tag) (n : Nat) : List Byte :=
  match p with
  | .phys pa => (List.range n).map (fun i => s.physByte who (pa + i))
  | .scratch c o => (s.core c).scratch.readN o n
  | .acc t o => (s.troupe t).acc.readN o n

/-- A register block is readable by M mode and the physical function; the scrub status of a partition by its virtual function too
(R295). -/
def readsBlock (who : BlockWriter) (a : Nat) : Bool :=
  match who with
  | .monitor => true
  | .host fn => fn = 0 || (0x20100000000 ≤ a && a < 0x20100000800 && (a - 0x20100000000) / 0x40 + 1 = fn.val)
  | .thread _ => false

/-- A read of device register space: the register's bytes (R237, R348). -/
def State.readDevice (s : State) (who : BlockWriter) (pa n : Nat) : List Byte :=
  let reg := match blockOf pa with
    | some c => (s.cluster c).blockRead (s.blockAgent who) (pa % 0x1000 / 8 * 8)
    | none => if readsBlock who (pa / 8 * 8) then s.devRead (pa / 8 * 8) else s.unownedRead (pa / 8 * 8)
  ((leBytes 8 reg.toNat).drop (pa % 8)).take n

/-- The poisoned unit of a place's bytes (R300, R301), as the address a record and mtval give. -/
def State.poisonOf (s : State) (p : Place) (n : Nat) : Option Nat :=
  match p with
  | .phys pa => poisonedIn s.poison pa n
  | .scratch c o => poisonedIn (s.core c).scratchPoison o n
  | .acc t o => poisonedIn (s.troupe t).accPoison o n

end Sys2Proof.Machine
end

