-- ==== Sys2Proof/Machine/Ops.lean ====
section
/-!
DEFINITION. The named operations every meaning is written over: register reads and writes, neighbour ports, taking a
trap and leaving M mode, blocking, commit points, the next-address selector, retirement, and the frame of checks of
R53 around an instruction's own effect.
-/

namespace Sys2Proof.Machine

/-! ### Registers (R14) -/

/-- g0 reads 0, p0 reads 1, m0 reads all ones. -/
def Regs.getG (r : Regs) (n : Fin 32) : Word := if n = 0 then 0 else r.g[n]
def Regs.getP (r : Regs) (n : PReg) : Bool := n = 0 || r.p[n]
def Regs.getM (r : Regs) (n : MReg) : Word := if n = 0 then BitVec.allOnes 64 else r.m[n]
def Regs.setF (r : Regs) (n : Fin 32) (w : Word) : Regs := { r with f := r.f.set n w }
def Regs.setV (r : Regs) (n : Fin 32) (x : BitVec 512) : Regs := { r with v := r.v.set n x }
/-- A write to p0 is discarded. -/
def Regs.setP (r : Regs) (n : PReg) (b : Bool) : Regs := if n = 0 then r else { r with p := r.p.set n b }
/-- A write to m0 is discarded. -/
def Regs.setM (r : Regs) (n : MReg) (x : Word) : Regs := if n = 0 then r else { r with m := r.m.set n x }

def rg (n : Fin 32) : List RegRef := if n = 0 then [] else [⟨0, n.val⟩]
def rf (n : Fin 32) : List RegRef := [⟨1, n.val⟩]
def rv (n : Fin 32) : List RegRef := [⟨2, n.val⟩]
def rp (n : PReg) : List RegRef := if n = 0 then [] else [⟨3, n.val⟩]
def rm (n : MReg) : List RegRef := if n = 0 then [] else [⟨4, n.val⟩]
end Sys2Proof.Machine

namespace Sys2Proof

open Machine

/-- A g-file operand as R48 counts it; ports hold no pending result. -/
def GReg.refs : GReg → List RegRef
  | .g n => rg n
  | .port _ => []
def Scalar.refs : Scalar → List RegRef
  | .gx r => r.refs
  | .fx r => rf r
def VSrc.refs : VSrc → List RegRef
  | .vec r => rv r
  | .bcast x => x.refs

end Sys2Proof

namespace Sys2Proof.Machine

/-- write_g of R64: g0 discards, a port queues the word at the neighbour with the writer's tag (R42). -/
def State.writeG (s : State) (d : GReg) (x : Word) : State :=
  match d with
  | .g n => s.updRegs (fun r => r.setG n x)
  | .port p =>
    match s.neighbour s.turn.core p with
    | some n =>
      let tag := s.regs.tag
      s.updCore n (fun q => { q with ports := q.ports.set p.opp.idx (q.ports[p.opp.idx] ++ [(x, tag)]) })
    | none => s

/-! ### Traps (R26, R204) -/

/-- The outstanding results return: their lost-significance bits are set (R46, R130). -/
def Context.returned (x : Context) : Context :=
  { x with outstanding := [], regs := { x.regs with lsf := x.outstanding.foldl (fun l o => l ||| o.lsf) x.regs.lsf } }

/-- An MLSF has not returned: it waits for the entries before it (R171). -/
def Context.flagsOut (x : Context) : Bool := x.outstanding.any (fun o => o.flags.isSome)

/-- A trap waits for the executing context's MLSF results, and is met again once they have returned (R46, R171). -/
def State.trapWaits (s : State) : Bool := !s.mMode && s.me.flagsOut

/-- Taking a program-level trap in place of the instruction at pc, once its MLSF results have returned; in a gate callee the callee's vector is used and
the kill is the unwind of R203 (R26, R204). A trap of the monitor stops the core (R213). -/
def State.takeTrap (s : State) (cause : BitVec 8) (value : Word) : State :=
  let c := s.turn.core
  if s.mMode then s.monitorFault c
  else if s.trapWaits then s.updMe (fun x => { x with state := .blocked, wait := some (.reissue false) })
  else
  let k := s.myCtx
  let r := s.regs
  let s := s.updMe (fun x => { x.returned with pending := [] })
  let tv := (s.dom c r.tag).tvec
  if r.tcause ≠ 0 || tv = 0 || bit tv 0 then
    match r.dom with
    | [] => s.killFaultDomain r.region
    | e :: _ =>
      (s.unwind c k (r.dom.length - 1) 2).log (dieOf c)
        { kind := 0x0B, cls := 6, core := some c, ctx := k.val, tag := r.tag, part := some (s.partOf r.tag)
          region := r.region, detail := cause.toNat, pc := r.pc, data := e.handle }
  else
    let s := if r.gstat.inGang then s.disband c s.turn.ctx 2 cause else s
    s.updMe (fun x => { x with
      state := .ready, wait := none
      regs := { x.regs with tcause := cause.setWidth 64, tval := value, tpc := r.pc, pc := tv } })

/-! ### Blocking and commit points (R176, R370) -/

def State.block (s : State) (w : Wait) : State := s.updMe (fun x => { x with state := .blocked, wait := some w })

/-- The instruction has not begun its effect: it waits and is issued again. -/
def blocked {α : Type} : Except Stop α := .error (.again false)

/-- Makes the activation non-restorable until its next commit point (R90, R302). -/
def State.noRestore (s : State) : State := s.updMe (fun x => { x with restorable := false, restore := none })

/-- The domain's stream is halted at its counter limit (R286). -/
def Core.streamHalted (q : Core) (t : Tag) : Bool :=
  match q.slotOf t with
  | some i => q.keys[i].halted || 2 ^ 32 ≤ q.keys[i].used
  | none => false

/-- The wait for pending verifications, and the report of a pending guard fault (R91, R229). -/
def State.report (s : State) : Except Stop State :=
  if s.me.verifs ≠ [] then blocked
  else if s.regs.guardPending then .error (.guardFault s.regs.gfa)
  else .ok s

/-- A commit point (R176). The outbox leaves by OUTBOX_SEND while the context waits; then the undo log is cleared and
the context is restorable. The restore image is taken when the instruction completes (R302). -/
def State.commitPoint (s : State) : Except Stop State := do
  let s ← s.report
  if s.me.outbox ≠ [] then .error (.again true)
  else .ok (s.updMe (fun x => { x with undo := [], restorable := true, restore := none, rolledBack := false }))

/-! ### The next-address selector (R43, R44) -/

/-- The value of a chain's PFX.N parcels, sign-extended, in parcels. -/
def dispValue (chain : List Pfx) : Option Word :=
  let ds : List (BitVec 9) := chain.filterMap (fun p => match p with | .disp y => some y | _ => none)
  if ds.isEmpty then none
  else some (sext (ds.foldl (fun a y => (a <<< 9) ||| y.setWidth 64) 0) (9 * ds.length))

/-- The bits of a chain's PFX.I parcels above an immediate of n bits, zero-extended (R39). -/
def immBits (chain : List Pfx) (n : Nat) (imm : Word) : Word × Nat :=
  let is : List (BitVec 9) := chain.filterMap (fun p => match p with | .imm y => some y | _ => none)
  let top : Word := is.foldl (fun a y => (a <<< 9) ||| y.setWidth 64) 0
  ((top <<< n) ||| imm, n + 9 * is.length)

/-- The sign-extended immediate (R39). -/
def immS (w : Pre) {n : Nat} (imm : BitVec n) : Word :=
  let x := immBits w.chain n (imm.setWidth 64)
  sext x.1 x.2

/-- The zero-extended immediate (R80). -/
def immU (w : Pre) {n : Nat} (imm : BitVec n) : Word := (immBits w.chain n (imm.setWidth 64)).1

/-- The PFX.C of a chain. -/
def chainCond : List Pfx → Option (Bool × PReg × Bool × Bool × MReg)
  | [] => none
  | .cond n p x z m :: _ => some (n, p, x, z, m)
  | _ :: ps => chainCond ps

/-- The ordering and scope of PFX.O (R89). -/
def chainOrd : List Pfx → MemOrd × Scope
  | [] => (.none, .core)
  | .ord o c :: _ => (o, c)
  | _ :: ps => chainOrd ps

end Sys2Proof.Machine

namespace Sys2Proof

open Machine

/-- The guard's predicate and sense, where PFX.C guards the word (R49). -/
def Pre.guard (w : Pre) : Option (PReg × Bool) :=
  match chainCond w.chain with
  | some (n, p, false, _, _) => some (p, n)
  | _ => none

/-- Whether the guard holds (R44). -/
def Pre.holds (w : Pre) (r : Regs) : Bool :=
  match w.guard with
  | some (p, n) => r.getP p != n
  | none => true

/-- The predicate a GOC reads, with its sense (R43). -/
def Pre.gocPred (w : Pre) : PReg × Bool :=
  match chainCond w.chain with
  | some (n, p, true, _, _) => (p, n)
  | _ => (1, false)

/-- The mask of PFX.C, m0 without one, and its zeroing bit (R128). -/
def Pre.mask (w : Pre) : MReg × Bool :=
  match chainCond w.chain with
  | some (_, _, _, z, m) => (m, z)
  | none => (0, false)

/-- Bytes from an instruction's first parcel to the address after its base word (R36). -/
def Pre.size (w : Pre) : Nat := 2 * (w.chain.length + 2)

end Sys2Proof

namespace Sys2Proof.Machine

/-- A jump to an odd address raises misaligned at the instruction that chose it (R37). -/
def State.jump (s : State) (a : Word) : Except Stop State :=
  if bit a 0 then .error (.trap 0x05 a) else .ok (s.updRegs (fun r => { r with pc := a }))

/-- The depths below which the current level may not pop (R197). -/
def Regs.lfloor (r : Regs) : Nat := match r.dom with | e :: _ => e.lfloor | [] => 0
def Regs.pfloor (r : Regs) : Nat := match r.dom with | e :: _ => e.pfloor | [] => 0

/-- The commit point of an END is done once nothing is left to verify or send; no restore point follows it (R176, R302). -/
def Context.endCommitted (x : Context) : Context :=
  if x.wait = some .ending && x.outbox = [] && x.verifs = [] then { x with undo := [], restorable := false, restore := none } else x

/-- Ends the activation: END is a commit point, and a gate fault inside a callee (R25). The word's own effect has been
performed; the context waits, sends what its outbox holds and waits for its long results, and ACTIVATION_END makes it
DORMANT (log 96). A pending guard fault is reported unless a verification fails before it. An END in a gang member
disbands the gang (R31). -/
def State.endActivation (s : State) : Except Stop State :=
  if s.mMode then .error (.trap 0x01 0)
  else if s.regs.dom ≠ [] then .error (.trap 0x0E (BitVec.ofNat 64 s.regs.dom.length))
  else if s.regs.guardPending && s.me.badVerif.isNone then .error (.guardFault s.regs.gfa)
  else
    let s := if s.regs.gstat.inGang then s.disband s.turn.core s.turn.ctx 3 0 else s
    .ok (s.updMe (fun x => Context.endCommitted { x with state := .blocked, wait := some .ending }))

/-- The selector over the state the word's own effect leaves (R43, R44). -/
def State.select (s : State) (w : Pre) (first : Word) : Except Stop State :=
  let r := s.regs
  let next := first + BitVec.ofNat 64 w.size
  let target := match dispValue w.chain with | some d => first + (d <<< 1) | none => r.t0
  let seq := s.updRegs (fun r => { r with pc := next })
  match w.nx with
  | .seq => .ok seq
  | .fin => s.endActivation
  | .go => s.jump target
  | .goc => let (p, n) := w.gocPred; if r.getP p != n then s.jump target else .ok seq
  | .loop =>
    if r.lc.toNat ≤ 1 then
      match r.loops with
      | (lc, ls) :: rest =>
        if r.loops.length ≤ r.pfloor then .error (.trap 0x0C 1)
        else .ok (s.updRegs (fun r => { r with lc := lc, ls := ls, loops := rest, pc := next }))
      | [] => .error (.trap 0x0C 1)
    else do
      let s ← s.jump r.ls
      .ok (s.updRegs (fun r => { r with lc := r.lc - 1 }))
  | .call =>
    if 8 ≤ r.link.length then .error (.trap 0x0A 0)
    else do
      let s ← s.jump target
      .ok (s.updRegs (fun r => { r with link := next :: r.link }))
  | .ret =>
    match r.link with
    | a :: rest =>
      if r.link.length ≤ r.lfloor then .error (.trap 0x0B 0)
      else do
        let s ← s.jump a
        .ok (s.updRegs (fun r => { r with link := rest }))
    | [] => .error (.trap 0x0B 0)

/-! ### What an instruction touches (R42, R48) -/

/-- The registers and ports of an instruction: g-file sources in field order with their values to be read, the g-file
destination, and every register read and written as R48 counts them. -/
structure Uses where
  srcs : List GReg := []
  dst : Option GReg := none
  reads : List RegRef := []
  /-- The decode-table slot the entry names. -/
  tables : List RegRef := []
  writes : List RegRef := []
  /-- The results are long-latency (R47). -/
  long : Bool := false
  /-- The effect itself records the outstanding result, with its lost-significance bit (R130). -/
  own : Bool := false
  /-- An M-mode instruction (R53). -/
  priv : Bool := false
  /-- The effect itself sets the program counter: JMPR, GCALL, GRET, MRET and GANGn, whose NX is SEQ (R45). -/
  jumps : Bool := false
  deriving Repr

def portsOf (l : List GReg) : List Port := l.filterMap (fun r => match r with | .port p => some p | .g _ => none)

/-- The results are pending for the rest of the run: a long-latency instruction, or a destination of one that reads a port
(R47). -/
def Uses.late (u : Uses) : Bool := u.long || (!(portsOf u.srcs).isEmpty && (u.dst.isSome || u.writes ≠ []))

/-- The implicit reads in R48's order: guard predicate, PFX.C mask, table slot, then what the selector reads. A GOC without
PFX.N counts t0 whether or not its predicate holds (log 98). -/
def implicitReads (w : Pre) (u : Uses) : List RegRef :=
  (match w.guard with | some (p, _) => rp p | none => []) ++ rm w.mask.1 ++ u.tables ++
    (match w.nx with
      | .go | .call => if (dispValue w.chain).isNone then [⟨5, 2⟩] else []
      | .goc => (if (dispValue w.chain).isNone then [⟨5, 2⟩] else []) ++ rp w.gocPred.1
      | .loop => [⟨5, 0⟩]
      | _ => [])

def RegRef.tval (x : RegRef) : Word := at' x.num 0 ||| at' x.file 6

/-- The first register with a pending result that the instruction touches (R48). -/
def hazard (w : Pre) (u : Uses) (pending : List RegRef) : Option RegRef :=
  (u.reads ++ implicitReads w u ++ u.writes).find? (fun x => pending.contains x)

/-- The first port named that is absent, sources before D in field order; the spec does not say which of two `tval` names
(R42; DESIGN CHOICE; log 123). -/
def State.absentPort (s : State) (u : Uses) : Option Port :=
  (portsOf (u.srcs ++ u.dst.toList)).find? (fun p => (s.neighbour s.turn.core p).isNone)

/-- Every port read holds the words wanted of it and every port written has room (R42). -/
def State.portsReady (s : State) (u : Uses) : Bool :=
  let rd := portsOf u.srcs
  rd.all (fun p => rd.count p ≤ (s.myCore.ports[p.idx]).length) &&
    (portsOf u.dst.toList).all (fun p =>
      match s.neighbour s.turn.core p with
      | some n => ((s.core n).ports[p.opp.idx]).length < 4
      | none => false)

/-- Reads the g-file sources in field order, popping ports; the port of the first word of another domain, if any: the spec does
not say which of two such words `tval` names (R42; DESIGN CHOICE; log 123). -/
def State.readSrcs (s : State) : List GReg → State × List Word × Option Port
  | [] => (s, [], none)
  | .g n :: rest =>
    let (s', ws, bad) := s.readSrcs rest
    (s', s.regs.getG n :: ws, bad)
  | .port p :: rest =>
    match s.myCore.ports[p.idx] with
    | (x, t) :: q =>
      let s1 := s.updCore s.turn.core (fun c => { c with ports := c.ports.set p.idx q })
      let (s', ws, bad) := s1.readSrcs rest
      (s', x :: ws, if t ≠ s.regs.tag then some p else bad)
    | [] =>
      let (s', ws, bad) := s.readSrcs rest
      (s', 0 :: ws, bad)

/-! ### Gangs: forwarding (R152) -/

/-- The attached followers of a gang leader. -/
def State.followers (s : State) : List CoreId :=
  let g := s.regs.gstat
  if g.inGang && g.leader then
    (s.gang s.turn.core s.turn.ctx).filter (fun m => m ≠ s.turn.core && !(s.ctx m s.turn.ctx).regs.gstat.detached)
  else []

/-- The bank is that of an attached gang follower (R152). -/
def Context.attached (x : Context) : Bool := x.regs.gstat.inGang && !x.regs.gstat.leader && !x.regs.gstat.detached

/-- A follower whose oldest forwarded instruction is executed and whose leader's next address is known drops it, and
detaches where its own next address differs (R30, R152). -/
def Context.compared (x : Context) : Context :=
  match x.queue with
  | h :: t =>
    match h.mine, h.next with
    | some a, some b =>
      if a = b then { x with queue := t }
      else { x with queue := [], regs := { x.regs with gstat := { x.regs.gstat with detached := true } } }
    | _, _ => x
  | [] => x

/-- An attached follower has executed its oldest forwarded instruction: its own next address stands beside it. -/
def Context.followed (x : Context) : Context :=
  if x.attached then
    match x.queue with
    | h :: t => Context.compared { x with queue := { h with mine := some x.regs.pc } :: t }
    | [] => x
  else x

/-- An instruction reaches a follower's queue, or its leader's next address the one that waits there for it. -/
def Context.forwarded (x : Context) (i : Instr) (first : Word) (next : Option Word) : Context :=
  match x.queue.getLast? with
  | some h =>
    if h.next.isNone then Context.compared { x with queue := x.queue.dropLast ++ [{ h with next := next }] }
    else { x with queue := x.queue ++ [{ instr := i, addr := first, next := next, mine := none }] }
  | none => { x with queue := x.queue ++ [{ instr := i, addr := first, next := next, mine := none }] }

/-- The leader forwards an instruction to the followers attached before it: with its own next address when it retires,
without where it is fetched and not yet done. -/
def State.forwardTo (s : State) (i : Instr) (first : Word) (next : Option Word) (flw : List CoreId) : State :=
  let k := s.turn.ctx
  flw.foldl (fun s m =>
    if (s.ctx m k).attached then s.updCtx m k (fun x => x.forwarded i first next) else s) s

def State.forward (s : State) (i : Instr) (first : Word) (flw : List CoreId) : State := s.forwardTo i first (some s.regs.pc) flw

/-- The leader forwards the instruction it has fetched, once, where every follower's queue has room (R152). -/
def State.forwardFetched (s : State) (i : Instr) : State :=
  let flw := s.followers
  if flw = [] || s.me.sentOn || flw.any (fun m => 16 ≤ (s.ctx m s.turn.ctx).queue.length) then s
  else (s.updMe (fun x => { x with sentOn := true })).forwardTo i s.regs.pc none flw

/-- The queues of a leader's followers have room for the instruction, or hold it already. -/
def State.queuesOpen (s : State) : Bool := s.me.sentOn || s.followers.all (fun m => (s.ctx m s.turn.ctx).queue.length < 16)

/-! ### Retirement (R15, R46, R302) -/

/-- What follows an instruction's effect and selector: instret, the pending results of the run, the end of the run,
the restore image of a commit point, gang forwarding. -/
def State.retire (s : State) (i : Instr) (w : Pre) (longs : List RegRef) (isLong : Bool) (first : Word)
    (flw : List CoreId) : State :=
  let s := s.updMe (fun x =>
    let x : Context := { x with
      regs := { x.regs with instret := x.regs.instret + 1 }
      sentOn := false
      pending := x.pending ++ longs
      outstanding := if isLong then x.outstanding ++ [{ lsf := 0 }] else x.outstanding }
    let x : Context := if x.restorable && x.restore.isNone then { x with restore := some { regs := x.regs, item := none, atStart := false } } else x
    let x : Context := if w.s then
        { x with pending := [], state := if x.outstanding ≠ [] && x.state = .ready then .parked else x.state }
      else x
    x.followed)
  s.forward i first flw

/-- A read fires an armed injection before its instruction has an effect: a MAC failure of a line written protected is an
integrity violation; otherwise the record is made and the instruction is issued again (R221). -/
def State.fired (s : State) (pa : Nat) : State :=
  let r := s.fireWalk pa
  if r.2 && !s.mMode then
    r.1.ctxIntegrity s.turn.core s.myCtx (pa / 64 * 64) true
  else r.1

/-- Takes the outcome of an effect: a trap or a wait leaves the state before the instruction (R26, R370). A pending guard fault
stays pending while its trap waits (R229). -/
def settle (s : State) (r : Except Stop State) : Out :=
  match r with
  | .ok s' => .next s'
  | .error (.halt s') => .next s'
  | .error (.again c) => .next (s.block (.reissue c))
  | .error (.fire pa) => .next (s.fired pa)
  | .error (.trap c v) => .next (s.takeTrap c v)
  | .error (.guardFault g) =>
    .next ((if s.trapWaits then s else s.updRegs (fun r => { r with guardPending := false, gfa := g })).takeTrap 0x09 0)

/-- The rest of an instruction whose effect is `eff`: effect, selector, retirement. An instruction resumed after a kept
wait comes here without its checks and operands again (R370). -/
def finish (i : Instr) (w : Pre) (longs : List RegRef) (isLong jumps : Bool) (eff : State → Except Stop State)
    (s pre : State) : Out :=
  let first := pre.regs.pc
  let flw := pre.followers
  settle pre (do
    let s2 ← eff s
    let s2 := s2.updMe (fun x => { x with wait := none, state := .ready })
    let s3 ← if jumps then .ok s2 else s2.select w first
    .ok (s3.retire i w longs isLong first flw))

/-- The frame of checks around an instruction's own effect: steps 5 to 7 of R53, the guard (R44), port readiness
(R42), the effect on the values of the g-file sources, the selector, retirement. -/
def runInstr (i : Instr) (w : Pre) (u : Uses) (eff : List Word → State → Except Stop State) (s : State) : Out :=
  let first := s.regs.pc
  let x := s.me
  if s.mMode && (match i.page? with | some p => 1 ≤ p && p ≤ 3 | none => false) then
    .next (s.takeTrap 0x01 i.baseWord)
  else if u.priv && !s.mMode then .next (s.takeTrap 0x04 i.baseWord)
  else match s.absentPort u with
  | some p => .next (s.takeTrap 0x0D (at' p.regCode 0))
  | none =>
  match hazard w u x.pending with
  | some h => .next (s.takeTrap 0x03 h.tval)
  | none =>
  let flw := s.followers
  if !s.queuesOpen then .next (s.block (.reissue false))
  else if !w.holds s.regs then
    let s := s.updMe (fun x => { x with wait := none, state := .ready })
    .next ((s.updRegs (fun r => { r with pc := first + BitVec.ofNat 64 w.size })).retire i w [] false first flw)
  else if !s.portsReady u then .next (s.block (.reissue false))
  else
    let (s1, vals, bad) := s.readSrcs u.srcs
    match bad with
    | some p => .next (if s.trapWaits then s.block (.reissue false) else s1.noRestore.takeTrap 0x0D (at' p.regCode 0 ||| at' 1 8))
    | none =>
      let usesPort := !(portsOf (u.srcs ++ u.dst.toList)).isEmpty
      let s1 := if usesPort then s1.noRestore else s1
      let long := u.late
      finish i w (if long then u.writes else []) (long && !u.own) u.jumps (eff vals) s1 s

/-- An instruction with a kept wait (R370): `start` is its effect up to the wait and gives the condition, `poll`
completes it once the condition holds. While the context waits, only the condition is tested again. A trap of the selector comes
before the effect: nothing the selector reads changes in the wait (R44). -/
def keptOp {β : Type} (i : Instr) (w : Pre) (u : Uses) (toWait : β → Wait) (ofWait : Wait → Option β)
    (start : List Word → State → Except Stop (State × β)) (poll : β → State → Option (Except Stop State)) (s : State) : Out :=
  let go (b : β) (s : State) : Except Stop State :=
    match poll b s with
    | some r => r
    | none => .error (.halt (s.block (toWait b)))
  match s.me.wait.bind ofWait with
  | some b =>
    if s.portsReady { dst := u.dst } then finish i w (if u.late then u.writes else []) u.late false (go b) s s
    else .next (s.block (toWait b))
  | none =>
    runInstr i w u (fun vs s => do
      let (s, b) ← start vs s
      let _ ← s.select w s.regs.pc
      go b s) s

end Sys2Proof.Machine
end

