-- ==== Sys2Proof/Machine/Operands.lean ====
section
/-!
DEFINITION. The operand forms of the instruction words as frames over runInstr: three g-file operands, a g operand and
an immediate, f operands, and so on (R38, R41, R64).
-/

namespace Sys2Proof.Machine

/-- The first, second and third value of a list of source values. -/
def v0 (vs : List Word) : Word := vs.getD 0 0
def v1 (vs : List Word) : Word := vs.getD 1 0
def v2 (vs : List Word) : Word := vs.getD 2 0

/-- gD := op(opA, opB). -/
def gOp3 (i : Instr) (w : Pre) (d a b : GReg) (long : Bool) (op : Word → Word → Word) (s : State) : Out :=
  runInstr i w { srcs := [a, b], dst := some d, reads := a.refs ++ b.refs, writes := d.refs, long := long }
    (fun vs s => .ok (s.writeG d (op (v0 vs) (v1 vs)))) s

/-- gD := op(opA). -/
def gOp2 (i : Instr) (w : Pre) (d a : GReg) (op : Word → Word) (s : State) : Out :=
  runInstr i w { srcs := [a], dst := some d, reads := a.refs, writes := d.refs }
    (fun vs s => .ok (s.writeG d (op (v0 vs)))) s

/-- gD := a value that no g operand gives. -/
def gOp1 (i : Instr) (w : Pre) (d : GReg) (reads : List RegRef) (op : State → Word) (s : State) : Out :=
  runInstr i w { dst := some d, reads := reads, writes := d.refs } (fun _ s => .ok (s.writeG d (op s))) s

/-- pD := op(pA, pB). -/
def pOp (i : Instr) (w : Pre) (d a b : PReg) (reads : List RegRef) (op : Bool → Bool → Bool) (s : State) : Out :=
  runInstr i w { reads := reads, writes := rp d }
    (fun _ s => .ok (s.updRegs (fun r => r.setP d (op (r.getP a) (r.getP b))))) s

end Sys2Proof.Machine
end

