-- ==== Sys2Proof/Machine/Stop.lean ====
section
/-!
DEFINITION. Stop requests, halting and freeing of contexts, and entering M mode (R213, R217, R271 to R274).
-/

namespace Sys2Proof.Machine

def maskBit (k : CtxId) : BitVec 8 := 1#8 <<< k.val

/-- Contexts whose bit is set. -/
def inMask (m : BitVec 8) : List CtxId := (List.finRange 8).filter (fun k => m.getLsbD k.val)

/-- `pmreq` as it reads (R271). -/
def Pmreq.word (p : Pmreq) : Word :=
  at' p.stop.toNat 0 ||| at' p.stopped.toNat 8 ||| atB p.forced 16 ||| atB p.smreq 17

/-- A HALT is in force while some context of the core is halted (R214, R217). -/
def Core.halted (q : Core) : Bool := (List.finRange 8).any (fun k => q.ctxs[bank k].halted)

/-- `mstatus` (R214). -/
def Core.mstatus (q : Core) : Word :=
  at' q.mctx.val 0 ||| at' q.tdsp.toNat 8 ||| at' q.tdom.toNat 16 ||| atB q.halted 32

/-- No activation starts from a stop request until its entry has ended in MRET, nor while a HALT holds (R217, R273). -/
def Core.startsBarred (q : Core) : Bool :=
  q.pmreq.stop ≠ 0 || q.halted || q.halting || q.dead || q.retired || q.mmode.any MEntry.stops

/-- A requested context has stopped; a gang member disbands its gang first (R31, R273). -/
def State.stopCtx (s : State) (c : CoreId) (k : CtxId) (safe : Option (BitVec 8)) : State :=
  let s := if (s.ctx c (bank k)).regs.gstat.inGang then
      s.disband c (bank k) (if (s.core c).stopBudget then 5 else 4) 0 else s
  let s := s.updCtx c (bank k) (fun x => { x with stopped := true, safe := safe })
  s.updCore c (fun q => { q with pmreq := { q.pmreq with stopped := q.pmreq.stopped ||| maskBit k } })

/-- States in which a requested context counts as stopped (R273). -/
def CtxState.quiet : CtxState → Bool
  | .dormant | .blocked | .held | .saved => true
  | _ => false

/-- A context that counts as stopped without a safe point: also one whose CUE waits for room in its stream (R273, R370). -/
def Context.quiet (x : Context) : Bool := x.state.quiet || (x.state = .parked && x.wait.isSome)

/-- The states in which a context's limited calls run down (R203). -/
def CtxState.counts : CtxState → Bool
  | .ready | .parked | .blocked => true
  | _ => false

/-- The depth of the lowest entry whose LEFT has run out (R203). -/
def Regs.expired (r : Regs) : Option Nat := r.dom.reverse.findIdx? (fun e => e.limited && e.left = 0)

/-- A ceiling of the context has run out: it is unwound before it stops (R203, R277). -/
def Context.toUnwind (x : Context) : Bool := x.state.counts && x.regs.expired.isSome

/-- The item of a context rolled back to its start, redelivered and waiting for the context (R277, R305). -/
def Core.redelivered (q : Core) (k : CtxId) : Option Item :=
  if q.ctxs[bank k].state = .dormant && q.ctxs[bank k].rolledBack then
    q.inbox.find? (fun i => hdrBit i.msg 51 && i.msg.tag = q.installed)
  else none

/-- The context's activation has started in this clock and executed nothing (R277). -/
def State.newStart (s : State) (c : CoreId) (k : CtxId) : Bool :=
  let x := s.ctx c (bank k)
  x.state = .ready && x.regs.instret = 0 && (s.core c).startClock = some s.clock && x.restore.any (·.atStart)

/-- Every requested context has stopped (R273). -/
def Core.allStopped (q : Core) : Bool := q.pmreq.stop ≠ 0 && q.pmreq.stop &&& ~~~q.pmreq.stopped = 0

/-! ### Charges (R263) -/

/-- Charges not yet folded go into USED of the pools a region draws on, and into TOTAL of the blocks they pass. -/
def State.fold (s : State) (r : BitVec 32) : State :=
  match lookup s.unfolded r.toNat with
  | none => s
  | some n =>
    let add (s : State) (pa k : Nat) : State := s.setSlot pa k (s.slot pa k + BitVec.ofNat 64 n)
    let s := { s.readRegion r with unfolded := erase s.unfolded r.toNat }
    let s := (s.pools r).foldl (fun s pa => add s pa 6) s
    match s.regionPa r with
    | some pa => ((pa :: (s.pools r).filter (· ≠ pa))).foldl (fun s pa => add s pa 7) s
    | none => s

/-- Every charge not yet folded is. -/
def State.foldAll (s : State) : State := s.unfolded.foldl (fun s e => s.fold (BitVec.ofNat 32 e.1)) s

/-- The charges of every region charged by a core's contexts are folded: a deschedule folds them (R263). -/
def State.foldCore (s : State) (c : CoreId) : State :=
  (List.finRange 8).foldl (fun s k => s.fold (s.ctx c (bank k)).regs.region) s

/-! ### Stop requests -/

/-- Once every requested context has stopped, they are halted as by HALT, and the request's entry is due; the deschedule folds
their charges (R263, R273). -/
def State.stopEntry (s : State) (c : CoreId) : State :=
  if (s.core c).allStopped then
    (inMask (s.core c).pmreq.stop).foldl (fun s k => s.updCtx c (bank k) (fun x => { x with halted := true, stopped := false }))
      (s.foldCore c)
  else s

/-- The core entry that is due for a request: cause 0x15, or 0x14 for a budget deschedule alone; mepc is the pc of the
lowest requested context (R63, R273, R274; log 36). -/
def Core.stopDue (q : Core) : Option MEntry :=
  if !q.allStopped then none
  else
    let k : CtxId := (inMask q.pmreq.stop).headD 0
    let r := q.ctxs[bank k].regs
    some (if q.stopBudget then { cause := 0x14, ctx := k, core := true, epc := r.pc, val := r.region.setWidth 64 }
      else { cause := 0x15, ctx := k, core := true, epc := r.pc, val := q.pmreq.word })

/-- Bits added to a core's request: a new request begins where none was running. Contexts that count as stopped stop at once,
and so does a start of this clock; a context still to be unwound or restarted stops afterwards (R271, R273, R274, R277). -/
def State.stopRequest (s : State) (c : CoreId) (mask : BitVec 8) (sm budget : Bool) : State :=
  let q := s.core c
  if mask = 0 then s else
  let fresh := q.pmreq.stop = 0
  let s := s.updCore c (fun q => { q with
    pmreq := if fresh then { stop := mask, stopped := 0, forced := false, smreq := sm }
      else { q.pmreq with stop := q.pmreq.stop ||| mask, smreq := q.pmreq.smreq || sm }
    stopClock := some (q.stopClock.getD s.clock)
    stopBudget := if fresh then budget else q.stopBudget && budget })
  let now (s : State) (k : CtxId) : Bool :=
    s.newStart c k || ((s.ctx c (bank k)).quiet && !(s.ctx c (bank k)).toUnwind && ((s.core c).redelivered k).isNone)
  ((inMask mask).foldl (fun s k => if now s k then s.stopCtx c k none else s) s).stopEntry c

/-- FREE: SAVED contexts become DORMANT and their frames stay valid (R271). -/
def State.freeCtxs (s : State) (c : CoreId) (mask : BitVec 8) : State :=
  (inMask mask).foldl (fun s k =>
    if (s.ctx c (bank k)).state = .saved then
      let mark (e : Nat × Frame) : Nat × Frame := if e.2.core = c && e.2.ctx = k then (e.1, { e.2 with freed := true }) else e
      let s := { s with frames := s.frames.map mark }
      s.updCtx c (bank k) (fun x => { Context.ended x with halted := false })
    else s) s

/-- The next entry, lowest cause first, and the core without it; the entry of a stop request ends the request, whose bits
may be added to until then (R63, R213, R271, R273). -/
def Core.nextEntry (q : Core) : Option (MEntry × Core) :=
  let own : MEntry → MEntry × Core := fun d =>
    (d, { q with pmreq := { q.pmreq with stop := 0 }, stopClock := none, stopBudget := false })
  match q.stopDue, q.mqueue with
  | none, [] => none
  | none, e :: rest => some (e, { q with mqueue := rest })
  | some d, [] => some (own d)
  | some d, e :: rest => if e.cause ≤ d.cause then some (e, { q with mqueue := rest }) else some (own d)

/-- Enters M mode for the next entry: mcause, mepc, mtval and mstatus are set, and the M bank starts at mtvec.
A served context's outstanding results return first; its registers are kept, and mepc is the instruction it has reached (R213);
of a context that has ended or been saved since, it is the one the entry was raised at. -/
def State.enterM (s : State) (c : CoreId) : State :=
  match (s.core c).mmode, (s.core c).nextEntry with
  | none, some (e, q) =>
    let x := q.ctxs[bank e.ctx]
    if !e.core && x.flagsOut then s else
    let s := s.setCore c q
    let s := if e.core then s else s.updCtx c (bank e.ctx) (fun x => x.returned)
    s.updCore c (fun q => { q with
      mmode := some e, mctx := e.ctx, tdsp := BitVec.ofNat 4 x.regs.dom.length, tdom := x.regs.tag
      mcause := e.cause, mepc := if e.core || x.gone then e.epc else x.regs.pc, mtval := e.val
      ctxs := q.ctxs.set mBank { q.ctxs[mBank] with
        state := .ready, wait := none, pending := [], outstanding := []
        regs := { q.ctxs[mBank].regs with pc := q.mtvec } } })
  | _, _ => s

end Sys2Proof.Machine
end

