-- ==== Sys2Proof/Machine/Csr.lean ====
section
/-!
DEFINITION. The control and status registers: their numbers, what a read gives and what a write does (R15, R62, R81,
R82, R107, R110, R130, R161, R214, R221, R271, R281, R283).
-/

namespace Sys2Proof.Machine

/-! ### Reads -/

/-- `gstat` (R31). -/
def Gstat.word (g : Gstat) : Word :=
  atB g.inGang 0 ||| atB g.leader 1 ||| at' g.size.toNat 2 ||| atB g.detached 4 ||| at' g.reason.toNat 8 |||
    at' g.member.toNat 12 ||| at' g.cause.toNat 16

/-- `vctl` (R130). -/
def Regs.vctl (r : Regs) : Word := at' r.valw.toNat 0 ||| at' r.lsf.toNat 32
/-- `mctl` (R161). -/
def Regs.mctl (r : Regs) : Word := at' r.malw.toNat 0 ||| at' r.gwin.toNat 8 ||| at' r.gbud.toNat 16
/-- `rply` (R206). -/
def Regs.rply (r : Regs) : Word := atB r.rplyMode 0 ||| atB r.rplyMismatch 1 ||| atB r.rplyBeyond 2

/-- The registers whose context-held CSRs an access reaches: the executing context's, the served one's in M mode. -/
def State.csrRegs (s : State) : Regs := (s.ctx s.turn.core (bank s.myCtx)).regs

/-- `cycle`: clocks since core reset (R15). -/
def State.cycle (s : State) : Word := BitVec.ofNat 64 (s.clock - s.myCore.resetClock)

/-- A program-level CSR (R15); none where the number is not allocated. -/
def State.csrLow (s : State) (n : Nat) : Option Word :=
  let r := s.csrRegs
  let d := s.dom s.turn.core r.tag
  match n with
  | 0x000 => some (r.fflg.setWidth 64)
  | 0x001 => some (r.fen.setWidth 64)
  | 0x002 => some (r.frm.setWidth 64)
  | 0x003 => some r.vctl
  | 0x004 => some r.mctl
  | 0x005 => some d.tvec
  | 0x006 => some r.tcause
  | 0x007 => some r.tval
  | 0x008 => some r.tpc
  | 0x009 => some s.regs.lc
  | 0x00A => some s.regs.ls
  | 0x00B => some s.regs.t0
  | 0x00C => some ((coreAddr s.turn.core.val).setWidth 64)
  | 0x00D => some (BitVec.ofNat 64 s.myCtx.val)
  | 0x00E => some s.cycle
  | 0x00F => some r.instret
  | 0x010 => some r.gfa
  | 0x011 => some r.gstat.word
  | 0x012 => some r.sh[0] | 0x013 => some r.sh[1] | 0x014 => some r.sh[2] | 0x015 => some r.sh[3]
  | 0x016 => some r.sh[4] | 0x017 => some r.sh[5] | 0x018 => some r.sh[6] | 0x019 => some r.sh[7]
  | 0x01A => some (r.bucket.setWidth 64)
  | 0x01B => some d.fpsup
  | 0x01C => some (r.chan.setWidth 64)
  | 0x01D => some (r.region.setWidth 64)
  | 0x01E => some (BitVec.ofNat 64 r.dom.length)
  | 0x01F => some d.slmt
  | 0x020 => some r.mrow
  | 0x021 => some r.mgst
  | 0x022 => some r.rply
  | _ => none

/-- The attributes of a window (R281). -/
def Window.attr (w : Window) : Word :=
  at' w.dtag.toNat 0 ||| atB w.rd 16 ||| atB w.wr 17 ||| atB w.ex 18 ||| atB w.space 19 ||| atB w.v 20 ||| atB w.clash 21

/-- `keysel` (R283). -/
def Core.keyselWord (q : Core) : Word :=
  let k := q.keys[q.keysel]
  at' q.keysel.val 0 ||| at' k.tag.toNat 8 ||| atB k.loaded 24 ||| atB k.halted 25 |||
    at' (Nat.min k.used 0xFFFFFFFF) 32

/-- An M-mode CSR (R62); none where the number is not allocated. -/
def Core.csrHigh (q : Core) (n : Nat) : Option Word :=
  match n with
  | 0x200 => some q.mstatus
  | 0x201 => some (q.mcause.setWidth 64)
  | 0x202 => some q.mepc
  | 0x203 => some q.mtval
  | 0x204 => some q.mtvec
  | 0x240 => some q.keyselWord
  | 0x241 => some (q.einja.setWidth 64)
  | 0x242 => some (at' q.einjType.toNat 0 ||| atB q.einjArm 8 ||| atB q.einjFired 9)
  | 0x243 => some q.pmreq.word
  | 0x244 => some (q.spbud.setWidth 64)
  | 0x245 => some (q.dstkb.setWidth 64 <<< 12)
  | _ =>
    if h : 0x210 ≤ n ∧ n < 0x240 then
      let w := q.windows[(n - 0x210) / 3]'(by omega)
      match (n - 0x210) % 3 with
      | 0 => some (w.base.setWidth 64 <<< 6)
      | 1 => some (w.limit.setWidth 64 <<< 6)
      | _ => some w.attr
    else none

def State.csrRead (s : State) (n : Nat) : Option Word := if n < 0x200 then s.csrLow n else s.myCore.csrHigh n

/-! ### Writes -/

/-- CSRs that R15 marks RO. -/
def csrReadOnly (n : Nat) : Bool :=
  (0x00C ≤ n && n ≤ 0x01A) || (0x01C ≤ n && n ≤ 0x01E) || (0x020 ≤ n && n ≤ 0x022)

/-- The governor window length of a GWIN code (R161). -/
def winLen (g : BitVec 2) : Nat := 64 * 2 ^ g.toNat

/-- A value `mctl` may hold: ALW below 6, GBUD from 1 to the window length, the ratio no higher than the region's. -/
def mctlLegal (alw : BitVec 3) (gwin : BitVec 2) (gbud : BitVec 10) (reg : BitVec 2 × BitVec 10) : Bool :=
  alw.toNat < 6 && gbud ≠ 0 && gbud.toNat ≤ winLen gwin && gbud.toNat * winLen reg.1 ≤ reg.2.toNat * winLen gwin

/-- Two windows in force in one space share a granule. -/
def Window.overlaps (a b : Window) : Bool :=
  a.space = b.space && a.base.toNat ≤ b.limit.toNat && b.base.toNat ≤ a.limit.toNat

/-- With SPACE = 1, BASE and LIMIT bits above the 8 MiB window read 0 (R281). -/
def Window.trim (w : Window) : Window :=
  if w.space then { w with base := w.base &&& 0x1FFFF, limit := w.limit &&& 0x1FFFF } else w

/-- A write of a window's base or limit takes effect and clears V (R281). -/
def Core.writeBound (q : Core) (k : Fin 16) (limit : Bool) (x : Word) : Core :=
  let w := q.windows[k]
  let v : BitVec 46 := x.extractLsb' 6 46
  let w : Window := if limit then { w with limit := v, v := false } else { w with base := v, v := false }
  { q with windows := q.windows.set k w.trim }

/-- A write of a window's attributes: V = 1 takes effect only without a clash (R281, R282). -/
def Core.writeAttr (q : Core) (k : Fin 16) (x : Word) : Core :=
  let w : Window := Window.trim { q.windows[k] with
    dtag := x.setWidth 16, rd := bit x 16, wr := bit x 17, ex := bit x 18, space := bit x 19, v := false, clash := false }
  let clash := (List.finRange 16).any (fun j =>
      j ≠ k && q.windows[j].v && q.windows[j].dtag ≠ w.dtag && q.windows[j].overlaps w) ||
    (!w.space && w.base.toNat * 64 < 0xC000000000 && 0xBFF0000000 ≤ w.limit.toNat * 64 + 63)
  let w : Window := if bit x 20 then { w with v := !clash, clash := clash } else w
  { q with windows := q.windows.set k w }

/-- A write of einjc (R221); none where it is illegal. -/
def Core.writeEinjc (q : Core) (x : Word) : Option Core :=
  let ok := homeOf q.einja.toNat = .dram || homeOf q.einja.toNat = .vault
  if fld x 0 2 = 3 || (bit x 8 && !ok) then none
  else some { q with einjType := x.setWidth 2, einjArm := q.einjArm || bit x 8, einjFired := q.einjFired && !bit x 9 }

/-- A write to a program-level CSR; none where the value is illegal. -/
def State.csrWriteLow (s : State) (n : Nat) (x : Word) : Option State :=
  let c := s.turn.core
  let up (f : Regs → Regs) : State := s.updCtx c (bank s.myCtx) (fun y => { y with regs := f y.regs })
  let dom (f : DomState → DomState) : State := s.updDom c s.csrRegs.tag f
  match n with
  | 0x000 => some (up (fun r => { r with fflg := x.setWidth 5 }))
  | 0x001 => some (up (fun r => { r with fen := x.setWidth 5 }))
  | 0x002 => if fld x 0 3 < 5 then some (up (fun r => { r with frm := x.setWidth 3 })) else none
  | 0x003 =>
    if fld x 0 3 < 6 then some (up (fun r => { r with valw := x.setWidth 3, lsf := x.extractLsb' 32 32 })) else none
  | 0x004 =>
    let alw : BitVec 3 := x.setWidth 3
    let gwin : BitVec 2 := x.extractLsb' 8 2
    let gbud : BitVec 10 := x.extractLsb' 16 10
    if mctlLegal alw gwin gbud (s.regionGov s.csrRegs.region) then
      some (up (fun r => { r with malw := alw, gwin := gwin, gbud := gbud }))
    else none
  | 0x005 => some (dom (fun d => { d with tvec := x }))
  | 0x006 => some (up (fun r => { r with tcause := x }))
  | 0x007 => some (up (fun r => { r with tval := x }))
  | 0x008 => some (up (fun r => { r with tpc := x }))
  | 0x009 => some (s.updRegs (fun r => { r with lc := x }))
  | 0x00A => some (s.updRegs (fun r => { r with ls := x }))
  | 0x00B => some (s.updRegs (fun r => { r with t0 := x }))
  | 0x01B => some (dom (fun d => { d with fpsup := zext x 19 }))
  | 0x01F => some (dom (fun d => { d with slmt := x &&& ~~~0xF#64 }))
  | _ => none

/-- A write to an M-mode CSR; none where the value is illegal. Read-only fields are left alone. -/
def State.csrWriteHigh (s : State) (n : Nat) (x : Word) : Option State :=
  let c := s.turn.core
  let up (f : Core → Core) : Option State := some (s.updCore c f)
  match n with
  | 0x200 => some s
  | 0x201 => up (fun q => { q with mcause := x.setWidth 8 })
  | 0x202 => up (fun q => { q with mepc := x &&& ~~~1#64 })
  | 0x203 => up (fun q => { q with mtval := x })
  | 0x204 => up (fun q => { q with mtvec := x &&& ~~~1#64 })
  | 0x240 => up (fun q => { q with keysel := ⟨fld x 0 6, (x.extractLsb' 0 6).isLt⟩ })
  | 0x241 => up (fun q => { q with einja := x.setWidth 52 })
  | 0x242 => (s.myCore.writeEinjc x).map (fun q => s.setCore c q)
  | 0x243 => some ((s.stopRequest c (x.setWidth 8) false false).freeCtxs c (x.extractLsb' 24 8))
  | 0x244 => if fld x 0 13 ≤ 6580 then up (fun q => { q with spbud := x.setWidth 13 }) else none
  | 0x245 => up (fun q => { q with dstkb := x.extractLsb' 12 40 })
  | _ =>
    if h : 0x210 ≤ n ∧ n < 0x240 then
      let k : Fin 16 := ⟨(n - 0x210) / 3, by omega⟩
      match (n - 0x210) % 3 with
      | 0 => up (fun q => q.writeBound k false x)
      | 1 => up (fun q => q.writeBound k true x)
      | _ => up (fun q => q.writeAttr k x)
    else none

def State.csrWrite (s : State) (n : Nat) (x : Word) : Option State :=
  if n < 0x200 then s.csrWriteLow n x else s.csrWriteHigh n x

/-! ### The instructions (R81, R82) -/

/-- CSRs whose read is long-latency (R47). -/
def csrLong (n : Nat) : Bool := n = 0x00E || n = 0x00F || n = 0x020 || n = 0x021

/-- lc, ls and t0 as R48 counts them. -/
def csrRefs (n : Nat) : List RegRef :=
  match n with
  | 0x009 => [⟨5, 0⟩]
  | 0x00A => [⟨5, 1⟩]
  | 0x00B => [⟨5, 2⟩]
  | _ => []

/-- The first two checks of R82. -/
def State.csrCheck (s : State) (i : Instr) (n : Nat) : Except Stop Word :=
  if 0x200 ≤ n && !s.mMode then .error (.trap 0x04 (BitVec.ofNat 64 n))
  else match s.csrRead n with
  | some v => .ok v
  | none => .error (.trap 0x01 i.baseWord)

/-- A CSR write of op(old, opD). -/
def csrUpdate (i : Instr) (w : Pre) (d : GReg) (n : Nat) (reads : List RegRef) (op : Word → Word → Word) (s : State) : Out :=
  runInstr i w { srcs := [d], reads := d.refs ++ reads, writes := csrRefs n }
    (fun vs s => do
      let old ← s.csrCheck i n
      if csrReadOnly n then .error (.trap 0x01 i.baseWord)
      else match s.csrWrite n (op old (v0 vs)) with
      | some s => .ok s
      | none => .error (.trap 0x01 i.baseWord)) s

def execSrd (w : Pre) (d : GReg) (csr : BitVec 10) (s : State) : Out :=
  let i : Instr := .srd w d csr
  runInstr i w { dst := some d, reads := csrRefs csr.toNat, writes := d.refs, long := csrLong csr.toNat }
    (fun _ s => do
      let v ← s.csrCheck i csr.toNat
      .ok (s.writeG d v)) s
def execSwr (w : Pre) (d : GReg) (csr : BitVec 10) (s : State) : Out :=
  csrUpdate (.swr w d csr) w d csr.toNat [] (fun _ x => x) s
def execSsb (w : Pre) (d : GReg) (csr : BitVec 10) (s : State) : Out :=
  csrUpdate (.ssb w d csr) w d csr.toNat (csrRefs csr.toNat) (fun o x => o ||| x) s
def execScb (w : Pre) (d : GReg) (csr : BitVec 10) (s : State) : Out :=
  csrUpdate (.scb w d csr) w d csr.toNat (csrRefs csr.toNat) (fun o x => o &&& ~~~x) s

end Sys2Proof.Machine
end

