-- ==== Sys2Proof/Machine/Control.lean ====
section
/-!
DEFINITION. Sequencing instructions and breakpoints (R78 to R80, R83).
-/

namespace Sys2Proof.Machine

/-! ### Jumps and loops (R78 to R80) -/

/-- The address after the instruction at pc. -/
def State.next (s : State) (w : Pre) : Word := s.regs.pc + BitVec.ofNat 64 w.size

def execJmpr (w : Pre) (a : GReg) (s : State) : Out :=
  runInstr (.jmpr w a) w { srcs := [a], reads := a.refs, jumps := true } (fun vs s => s.jump (v0 vs)) s

def execJmprCall (w : Pre) (a : GReg) (s : State) : Out :=
  runInstr (.jmprCall w a) w { srcs := [a], reads := a.refs, jumps := true }
    (fun vs s =>
      if bit (v0 vs) 0 then .error (.trap 0x05 (v0 vs))
      else if 8 ≤ s.regs.link.length then .error (.trap 0x0A 0)
      else (s.updRegs (fun r => { r with link := s.next w :: r.link })).jump (v0 vs)) s

def execTgt (w : Pre) (imm : BitVec 16) (s : State) : Out :=
  runInstr (.tgt w imm) w { writes := [⟨5, 2⟩] }
    (fun _ s => .ok (s.updRegs (fun r => { r with t0 := r.pc + (immS w imm <<< 1) }))) s

/-- Opens a counted loop whose body starts at the next instruction (R80). -/
def State.loopSetup (s : State) (w : Pre) (count : Word) : Except Stop State :=
  if 4 ≤ s.regs.loops.length then .error (.trap 0x0C 0)
  else .ok (s.updRegs (fun r => { r with loops := (r.lc, r.ls) :: r.loops, lc := count, ls := s.next w }))

/-- lc and ls as R48 counts them. -/
def loopRefs : List RegRef := [⟨5, 0⟩, ⟨5, 1⟩]

def execLps (w : Pre) (a : GReg) (s : State) : Out :=
  runInstr (.lps w a) w { srcs := [a], reads := a.refs, writes := loopRefs } (fun vs s => s.loopSetup w (v0 vs)) s

def execLpsi (w : Pre) (imm : BitVec 10) (s : State) : Out :=
  runInstr (.lpsi w imm) w { writes := loopRefs } (fun _ s => s.loopSetup w (immU w imm)) s

/-- BRK raises illegal instruction with its base word (R83). -/
def execBrk (w : Pre) (code : BitVec 16) (s : State) : Out :=
  let i : Instr := .brk w code
  runInstr i w {} (fun _ _ => .error (.trap 0x01 i.baseWord)) s

end Sys2Proof.Machine
end

