-- ==== Sys2Proof/Machine/IntOps.lean ====
section
/-!
DEFINITION. Integer, predicate and register-move instructions (R67 to R77).
-/

namespace Sys2Proof.Machine

/-! ### Arithmetic of the entries -/

/-- Shift and rotate amounts are bits [5:0] (R67). -/
def amount (b : Word) : Nat := b.toNat % 64

def smin (a b : Word) : Word := if a.slt b then a else b
def smax (a b : Word) : Word := if a.slt b then b else a
def umin (a b : Word) : Word := if a.ult b then a else b
def umax (a b : Word) : Word := if a.ult b then b else a

/-- The high half of a 128-bit product (R70). -/
def mulHighS (a b : Word) : Word := BitVec.ofInt 64 (a.toInt * b.toInt / 2 ^ 64)
def mulHighU (a b : Word) : Word := BitVec.ofNat 64 (a.toNat * b.toNat / 2 ^ 64)

/-- Division and remainder with the corners of R70's table. -/
def divS (a b : Word) : Word := if b = 0 then BitVec.allOnes 64 else BitVec.ofInt 64 (a.toInt.tdiv b.toInt)
def divU (a b : Word) : Word := if b = 0 then BitVec.allOnes 64 else BitVec.ofNat 64 (a.toNat / b.toNat)
def remS (a b : Word) : Word := if b = 0 then a else BitVec.ofInt 64 (a.toInt.tmod b.toInt)
def remU (a b : Word) : Word := if b = 0 then a else BitVec.ofNat 64 (a.toNat % b.toNat)

/-- Leading zeros of the low n bits. -/
def clzN : Nat → Word → Nat
  | 0, _ => 0
  | n + 1, x => if x.getLsbD n then 0 else 1 + clzN n x
/-- Trailing zeros, counting at most n bits from bit k. -/
def ctzN : Nat → Nat → Word → Nat
  | 0, _, _ => 0
  | n + 1, k, x => if x.getLsbD k then 0 else 1 + ctzN n (k + 1) x
def popN : Nat → Word → Nat
  | 0, _ => 0
  | n + 1, x => (if x.getLsbD n then 1 else 0) + popN n x

/-- Bit i of the result is bit 63 − i of the operand (R71). -/
def bitReverse (x : Word) : Word := x.reverse
/-- Byte j of the result is byte 7 − j of the operand (R71). -/
def byteSwap (x : Word) : Word :=
  x.extractLsb' 0 8 ++ x.extractLsb' 8 8 ++ x.extractLsb' 16 8 ++ x.extractLsb' 24 8 ++ x.extractLsb' 32 8 ++
    x.extractLsb' 40 8 ++ x.extractLsb' 48 8 ++ x.extractLsb' 56 8

/-- The conditions of CMP and CMPI (R74). -/
def Cond.test (c : Cond) (a b : Word) : Bool :=
  match c with
  | .eq => a = b
  | .ne => a ≠ b
  | .lt => a.slt b
  | .ge => !a.slt b
  | .ltu => a.ult b
  | .geu => !a.ult b
  | .bits => a &&& b ≠ 0
  | .bitc => a &&& b = 0

/-! ### ALU (R67) -/

def execAdd (w : Pre) (d a b : GReg) (s : State) : Out := gOp3 (.add w d a b) w d a b false (· + ·) s
def execSub (w : Pre) (d a b : GReg) (s : State) : Out := gOp3 (.sub w d a b) w d a b false (· - ·) s
def execAnd (w : Pre) (d a b : GReg) (s : State) : Out := gOp3 (.and w d a b) w d a b false (· &&& ·) s
def execOr (w : Pre) (d a b : GReg) (s : State) : Out := gOp3 (.or w d a b) w d a b false (· ||| ·) s
def execXor (w : Pre) (d a b : GReg) (s : State) : Out := gOp3 (.xor w d a b) w d a b false (· ^^^ ·) s
def execAndn (w : Pre) (d a b : GReg) (s : State) : Out :=
  gOp3 (.andn w d a b) w d a b false (fun x y => x &&& ~~~y) s
def execShl (w : Pre) (d a b : GReg) (s : State) : Out :=
  gOp3 (.shl w d a b) w d a b false (fun x y => x <<< amount y) s
def execShr (w : Pre) (d a b : GReg) (s : State) : Out :=
  gOp3 (.shr w d a b) w d a b false (fun x y => x >>> amount y) s
def execSar (w : Pre) (d a b : GReg) (s : State) : Out :=
  gOp3 (.sar w d a b) w d a b false (fun x y => x.sshiftRight (amount y)) s
def execRol (w : Pre) (d a b : GReg) (s : State) : Out :=
  gOp3 (.rol w d a b) w d a b false (fun x y => x.rotateLeft (amount y)) s
def execMin (w : Pre) (d a b : GReg) (s : State) : Out := gOp3 (.min w d a b) w d a b false smin s
def execMax (w : Pre) (d a b : GReg) (s : State) : Out := gOp3 (.max w d a b) w d a b false smax s
def execMinu (w : Pre) (d a b : GReg) (s : State) : Out := gOp3 (.minu w d a b) w d a b false umin s
def execMaxu (w : Pre) (d a b : GReg) (s : State) : Out := gOp3 (.maxu w d a b) w d a b false umax s
def execAddw (w : Pre) (d a b : GReg) (s : State) : Out :=
  gOp3 (.addw w d a b) w d a b false (fun x y => sext (x + y) 32) s
def execSubw (w : Pre) (d a b : GReg) (s : State) : Out :=
  gOp3 (.subw w d a b) w d a b false (fun x y => sext (x - y) 32) s

/-! ### Immediate forms (R68, R69, R72, R73) -/

def execAddi (w : Pre) (d a : GReg) (imm : BitVec 10) (s : State) : Out :=
  gOp2 (.addi w d a imm) w d a (fun x => x + immS w imm) s
def execAndi (w : Pre) (d a : GReg) (imm : BitVec 10) (s : State) : Out :=
  gOp2 (.andi w d a imm) w d a (fun x => x &&& immS w imm) s
def execOri (w : Pre) (d a : GReg) (imm : BitVec 10) (s : State) : Out :=
  gOp2 (.ori w d a imm) w d a (fun x => x ||| immS w imm) s
def execXori (w : Pre) (d a : GReg) (imm : BitVec 10) (s : State) : Out :=
  gOp2 (.xori w d a imm) w d a (fun x => x ^^^ immS w imm) s
def execShli (w : Pre) (d a : GReg) (n : BitVec 6) (s : State) : Out :=
  gOp2 (.shli w d a n) w d a (fun x => x <<< n.toNat) s
def execShri (w : Pre) (d a : GReg) (n : BitVec 6) (s : State) : Out :=
  gOp2 (.shri w d a n) w d a (fun x => x >>> n.toNat) s
def execSari (w : Pre) (d a : GReg) (n : BitVec 6) (s : State) : Out :=
  gOp2 (.sari w d a n) w d a (fun x => x.sshiftRight n.toNat) s
def execMovi (w : Pre) (d : GReg) (imm : BitVec 16) (s : State) : Out :=
  gOp1 (.movi w d imm) w d [] (fun _ => immS w imm) s
def execLea (w : Pre) (d a b : GReg) (sh : BitVec 2) (s : State) : Out :=
  gOp3 (.lea w d a b sh) w d a b false (fun x y => x + (y <<< sh.toNat)) s

/-! ### MUL (R70) -/

def execMul (w : Pre) (d a b : GReg) (s : State) : Out := gOp3 (.mul w d a b) w d a b false (· * ·) s
def execMulh (w : Pre) (d a b : GReg) (s : State) : Out := gOp3 (.mulh w d a b) w d a b false mulHighS s
def execMulhu (w : Pre) (d a b : GReg) (s : State) : Out := gOp3 (.mulhu w d a b) w d a b false mulHighU s
def execMulw (w : Pre) (d a b : GReg) (s : State) : Out :=
  gOp3 (.mulw w d a b) w d a b false (fun x y => sext (x * y) 32) s
def execDiv (w : Pre) (d a b : GReg) (s : State) : Out := gOp3 (.div w d a b) w d a b true divS s
def execDivu (w : Pre) (d a b : GReg) (s : State) : Out := gOp3 (.divu w d a b) w d a b true divU s
def execRem (w : Pre) (d a b : GReg) (s : State) : Out := gOp3 (.rem w d a b) w d a b true remS s
def execRemu (w : Pre) (d a b : GReg) (s : State) : Out := gOp3 (.remu w d a b) w d a b true remU s

/-! ### BIT (R71) -/

def execClz (w : Pre) (d a : GReg) (s : State) : Out :=
  gOp2 (.clz w d a) w d a (fun x => BitVec.ofNat 64 (clzN 64 x)) s
def execCtz (w : Pre) (d a : GReg) (s : State) : Out :=
  gOp2 (.ctz w d a) w d a (fun x => BitVec.ofNat 64 (ctzN 64 0 x)) s
def execPopc (w : Pre) (d a : GReg) (s : State) : Out :=
  gOp2 (.popc w d a) w d a (fun x => BitVec.ofNat 64 (popN 64 x)) s
def execBrev (w : Pre) (d a : GReg) (s : State) : Out := gOp2 (.brev w d a) w d a bitReverse s
def execBswap (w : Pre) (d a : GReg) (s : State) : Out := gOp2 (.bswap w d a) w d a byteSwap s
def execSextb (w : Pre) (d a : GReg) (s : State) : Out := gOp2 (.sextb w d a) w d a (sext · 8) s
def execSexth (w : Pre) (d a : GReg) (s : State) : Out := gOp2 (.sexth w d a) w d a (sext · 16) s
def execSextw (w : Pre) (d a : GReg) (s : State) : Out := gOp2 (.sextw w d a) w d a (sext · 32) s
def execZextb (w : Pre) (d a : GReg) (s : State) : Out := gOp2 (.zextb w d a) w d a (zext · 8) s
def execZexth (w : Pre) (d a : GReg) (s : State) : Out := gOp2 (.zexth w d a) w d a (zext · 16) s
def execZextw (w : Pre) (d a : GReg) (s : State) : Out := gOp2 (.zextw w d a) w d a (zext · 32) s

/-! ### Predicates (R74 to R76) -/

def execCmp (w : Pre) (c : Cond) (p : PReg) (a b : GReg) (s : State) : Out :=
  runInstr (.cmp w c p a b) w { srcs := [a, b], reads := a.refs ++ b.refs, writes := rp p }
    (fun vs s => .ok (s.updRegs (fun r => r.setP p (Cond.test c (v0 vs) (v1 vs))))) s
def execCmpi (w : Pre) (c : Cond) (p : PReg) (a : GReg) (imm : BitVec 10) (s : State) : Out :=
  runInstr (.cmpi w c p a imm) w { srcs := [a], reads := a.refs, writes := rp p }
    (fun vs s => .ok (s.updRegs (fun r => r.setP p (Cond.test c (v0 vs) (immS w imm))))) s
/-- SEL. Its predicate counts as read after A and B (log 99). -/
def execSel (w : Pre) (d : GReg) (p : PReg) (a b : GReg) (s : State) : Out :=
  runInstr (.sel w d p a b) w { srcs := [a, b], dst := some d, reads := a.refs ++ b.refs ++ rp p, writes := d.refs }
    (fun vs s => .ok (s.writeG d (if s.regs.getP p then v0 vs else v1 vs))) s
def execPand (w : Pre) (d a b : PReg) (s : State) : Out :=
  pOp (.pand w d a b) w d a b (rp a ++ rp b) (fun x y => x && y) s
def execPor (w : Pre) (d a b : PReg) (s : State) : Out :=
  pOp (.por w d a b) w d a b (rp a ++ rp b) (fun x y => x || y) s
def execPxor (w : Pre) (d a b : PReg) (s : State) : Out :=
  pOp (.pxor w d a b) w d a b (rp a ++ rp b) (fun x y => x != y) s
def execPandn (w : Pre) (d a b : PReg) (s : State) : Out :=
  pOp (.pandn w d a b) w d a b (rp a ++ rp b) (fun x y => x && !y) s
def execPnot (w : Pre) (d a : PReg) (s : State) : Out := pOp (.pnot w d a) w d a 0 (rp a) (fun x _ => !x) s
def execPmov (w : Pre) (d a : PReg) (s : State) : Out := pOp (.pmov w d a) w d a 0 (rp a) (fun x _ => x) s

/-! ### MOVR (R77) -/

/-- The predicates as MOVR.PG and the save frame give them: p7 to p1 in [7:1], 1 in bit 0. -/
def predBits (p : Vector Bool 8) : Word :=
  atB true 0 ||| atB p[1] 1 ||| atB p[2] 2 ||| atB p[3] 3 ||| atB p[4] 4 ||| atB p[5] 5 ||| atB p[6] 6 ||| atB p[7] 7

def predsOf (x : Word) : Vector Bool 8 := Vector.ofFn (fun i : Fin 8 => i = 0 || bit x i.val)

/-- p1 to p7, as R48 counts them. -/
def allPreds : List RegRef := [⟨3, 1⟩, ⟨3, 2⟩, ⟨3, 3⟩, ⟨3, 4⟩, ⟨3, 5⟩, ⟨3, 6⟩, ⟨3, 7⟩]

def execMovrGf (w : Pre) (d : FReg) (a : GReg) (s : State) : Out :=
  runInstr (.movrGf w d a) w { srcs := [a], reads := a.refs, writes := rf d }
    (fun vs s => .ok (s.updRegs (fun r => r.setF d (v0 vs)))) s
def execMovrFg (w : Pre) (d : GReg) (a : FReg) (s : State) : Out :=
  gOp1 (.movrFg w d a) w d (rf a) (fun s => s.regs.f[a]) s
def execMovrGp (w : Pre) (a : GReg) (s : State) : Out :=
  runInstr (.movrGp w a) w { srcs := [a], reads := a.refs, writes := allPreds }
    (fun vs s => .ok (s.updRegs (fun r => { r with p := predsOf (v0 vs) }))) s
def execMovrPg (w : Pre) (d : GReg) (s : State) : Out :=
  gOp1 (.movrPg w d) w d allPreds (fun s => predBits s.regs.p) s

end Sys2Proof.Machine
end

