-- ==== Sys2Proof/Machine/MemAccess.lean ====
section
/-!
DEFINITION. Loads, stores and atomics of a thread as operations: store forwarding, guard granules, poison, pending
verifications, the undo log, ordering (R86, R89 to R91, R95, R156, R228, R241, R301).
-/

namespace Sys2Proof.Machine

/-! ### The store buffer -/

/-- The byte a buffered store gives for byte i of a place. -/
def Store.byteAt (st : Store) (p : Place) (i : Nat) : Option Byte :=
  let sub (a b : Nat) : Option Byte := if a ≤ b + i then st.bytes[b + i - a]? else none
  match st.place, p with
  | .phys a, .phys b => sub a b
  | .scratch c a, .scratch c' b => if c = c' then sub a b else none
  | .acc t a, .acc t' b => if t = t' then sub a b else none
  | _, _ => none

/-- The latest buffered byte of the thread for byte i of a place (R86). -/
def Context.buffered (x : Context) (p : Place) (i : Nat) : Option Byte := x.storeBuf.reverse.findSome? (fun st => st.byteAt p i)

/-- A buffered store that may leave now: a release waits for the thread's verifications, a store to a busy tile for
its entries (R89, R156). -/
def State.leaves (s : State) (x : Context) (st : Store) : Bool :=
  (!st.release || x.verifs = []) && !s.tileHeld st

/-- The store buffer drains, or the instruction waits unissued (R95). -/
def State.drainMe (s : State) : Except Stop State :=
  let x := s.me
  if x.storeBuf.all (s.leaves x) then .ok (s.drain s.turn.core s.turn.ctx) else blocked

/-- What a release waits for: the store buffer drained and every pending verification resolved (R89). -/
def State.releaseMe (s : State) : Except Stop State := if s.me.verifs ≠ [] then blocked else s.drainMe

/-- A store to a WC page (R250). -/
def Store.wc (st : Store) : Bool := st.ty = 1

/-- Two stores share a byte. -/
def Store.meets (a b : Store) : Bool := (List.range a.bytes.length).any (fun i => (b.byteAt a.place i).isSome)

/-- The store may perform before the earlier ones: WC stores are outside the total store order (R250); a release performs
after every earlier store and before every later one (R89, R93, R97). -/
def mayPass (st : Store) (earlier : List Store) : Bool :=
  earlier = [] || (!st.release && earlier.all (fun e => (e.wc || st.wc) && !e.meets st && !e.acquire && !e.release))

/-- Every WC store of the buffer may perform before the others that stand ahead of it. -/
def State.wcFree (s : State) (x : Context) : Bool :=
  x.storeBuf.zipIdx.all (fun e => !e.1.wc || (s.leaves x e.1 && mayPass e.1 ((x.storeBuf.take e.2).filter (fun y => !y.wc))))

/-- Merged WC stores leave; where one must not pass an earlier store, the whole buffer drains (R97, R250). -/
def State.flushWc (s : State) : Except Stop State :=
  let l := s.me.storeBuf
  if s.wcFree s.me then
    .ok ((l.filter (·.wc)).foldl State.perform (s.updMe (fun x => { x with storeBuf := l.filter (fun st => !st.wc) })))
  else s.drainMe

/-! ### Reading -/

/-- The tag under which the executing bank reaches memory; none for M mode. -/
def State.who (s : State) : Option Tag := if s.mMode then none else some s.regs.tag

/-- Bytes that fall in guard granules read 0, and the touch is recorded (R228). -/
def State.guardRead (s : State) (l : Loc) (bs : List Byte) : State × List Byte :=
  match (List.range bs.length).find? (fun i => s.guarded l i) with
  | none => (s, bs)
  | some i => (s.guardTouch l i false, (List.range bs.length).map (fun j => if s.guarded l j then 0 else bs.getD j 0))

/-- What an access waits for: an earlier store with acquire or to an SO page (R89, R250). -/
def Context.fenced (x : Context) : Bool := x.storeBuf.any (fun st => st.acquire || st.ty = 3)

/-- A read's bytes in the store buffer are not to be had there: they cover the read only in part (R86), wait for a busy
tile (R156), or the page is of type DEV, where every buffered DEV store comes first (R250). -/
def State.readWaits (s : State) (l : Loc) (n : Nat) : Bool :=
  let x := s.me
  let bs := (List.range n).map (fun i => x.buffered l.place i)
  (bs.any Option.isSome && (!bs.all Option.isSome || l.ty = 2 ||
      (match l.place with | .acc t o => (s.troupe t).busy (o / 16384) | _ => false))) ||
    (l.ty = 2 && x.storeBuf.any (·.ty = 2))

/-- A read of a checked place for a thread, the guard bitmap apart. Poison is consumed (R301); a protected line's check is left pending, up to the
limit unless a vector access makes room for all its lines (R91, R241). A read of an SO page performs after every earlier
access of the thread (R250). -/
def State.readRaw (s : State) (bound : Bool) (l : Loc) (n : Nat) : Except Stop (State × List Byte) := do
  if s.me.fenced || s.readWaits l n then blocked else
  let s ← if l.ty = 3 then s.releaseMe else .ok s
  let x := s.me
  let bs := (List.range n).map (fun i => x.buffered l.place i)
  if bs.any Option.isSome then .ok (s, bs.map (·.getD 0))
  else
    match l.place with
    | .phys pa =>
      if homeOf pa = .dev then .ok (s, s.readDevice (writerOf s.who) pa n)
      else if bound && l.prot && 32 < x.verifs.length + (linesOf pa n).length then blocked
      else
        let (s, _, mac) := s.inject pa n
        match s.poisonOf l.place n with
        | some u => if s.mMode then .error (.trap 0x12 (at' u 0)) else .error (.halt (s.consumePoison s.turn.core s.myCtx l.place u))
        | none =>
          let vs : List Verif := (linesOf pa n).map (fun a => { line := a, ok := s.macOk a s.regs.tag && !mac, injected := mac })
          let s' := if l.prot then s.updMe (fun x => { x with verifs := x.verifs ++ vs }) else s
          .ok (s', s'.readPlace l.place (protTag l.prot s.regs.tag) n)
    | p =>
      match s.poisonOf p n with
      | some u => if s.mMode then .error (.trap 0x12 (at' u 0)) else .error (.halt (s.consumePoison s.turn.core s.myCtx l.place u))
      | none => .ok (s, s.readPlace p none n)

/-- A thread's read of a checked place, under its guard bitmap (R228). -/
def State.readLocBy (s : State) (bound : Bool) (l : Loc) (n : Nat) : Except Stop (State × List Byte) := do
  let (s, bs) ← s.readRaw bound l n
  .ok (s.guardRead l bs)

def State.readLoc (s : State) (l : Loc) (n : Nat) : Except Stop (State × List Byte) := s.readLocBy true l n

/-- A checked load of n bytes at an address (R84, R87). -/
def State.load (s : State) (addr n : Nat) : Except Stop (State × List Byte) := do
  let l ← s.checkAccess addr n .load
  s.readLoc l n

/-! ### Writing -/

/-- The bytes of a unit as they stand for the thread: memory overlaid with its own buffered stores. -/
def State.seenBytes (s : State) (p : Place) (n : Nat) : List Byte :=
  let bs := s.readPlace p none n
  (List.range n).map (fun i => (s.me.buffered p i).getD (bs.getD i 0))

/-- Records the aligned 8-byte units of a scratchpad write in the undo log; a write that needs more entries than
remain is not logged and ends restorability (R90, R176). Writes elsewhere end it. -/
def State.logWrite (s : State) (l : Loc) (units : List Nat) : State :=
  match l.place, l.logged with
  | .scratch c _, true =>
    if 256 < s.me.undo.length + units.length then s.noRestore
    else
      let us : List Undo := units.map (fun u => { core := c, off := u, bytes := s.seenBytes (.scratch c u) 8 })
      s.updMe (fun x => { x with undo := x.undo ++ us })
  | _, _ => s.noRestore

def Place.off : Place → Nat
  | .phys a => a
  | .scratch _ a => a
  | .acc _ a => a

/-- A store of M mode to a busy tile waits unissued until the tile's entries have completed, as a thread's waits in its buffer
(R156; log 62). -/
def State.monitorWaits (s : State) (l : Loc) : Bool :=
  s.mMode && (match l.place with | .acc t o => (s.troupe t).busy (o / 16384) | _ => false)

/-- Puts a store into the buffer; in M mode it performs at once. A store to an SO page performs after every earlier access
and before every later one (R250). -/
def State.buffer (s : State) (l : Loc) (bs : List Byte) (release acquire : Bool) : State :=
  if s.mMode then s.writePlace none l.prot l.place bs
  else
    let x := s.me
    let st : Store :=
      { seq := x.storeSeq, place := l.place, bytes := bs, release := release || l.ty = 3, acquire := acquire || l.ty = 3
        ty := l.ty, prot := l.prot, tag := x.regs.tag, outer := x.regs.outerTag, chan := x.regs.chan
        launch := x.launch }
    s.updMe (fun x => { x with storeSeq := x.storeSeq + 1, storeBuf := x.storeBuf ++ [st] })

/-- A store to a protected line whose engine holds no key for the tag is a MAC failure (R91, R284). -/
def State.keyHeld (s : State) (l : Loc) : Except Stop Unit :=
  match l.place with
  | .phys pa =>
    if l.prot && (s.engineKey pa s.regs.tag).isNone then
      .error (.halt (s.ctxIntegrity s.turn.core s.myCtx (pa / 64 * 64) false))
    else .ok ()
  | _ => .ok ()

/-- A thread's store to a checked place: the bytes in guard granules are discarded, the rest enters the store buffer
(R86, R90, R228). -/
def State.storeLoc (s : State) (l : Loc) (bs : List Byte) (release acquire : Bool) : Except Stop State := do
  s.keyHeld l
  if s.me.fenced || s.monitorWaits l then blocked
  else if s.guarded l 0 then .ok (s.guardTouch l 0 true)
  else .ok ((s.logWrite l (unitsOf l.place.off bs.length)).buffer l bs release acquire)

/-- An indivisible read and write at a location's home, the store buffer drained first (R94 to R96). `f` gives the new
bytes, or none to leave the location. A guard granule reads 0 and is not written (R228). -/
def State.atomicLoc (s : State) (l : Loc) (n : Nat) (release : Bool) (f : Nat → Option Nat) :
    Except Stop (State × Nat) := do
  s.keyHeld l
  let s ← if release || l.ty = 3 then s.releaseMe else s.drainMe
  if s.guarded l 0 then .ok (s.guardTouch l 0 true, 0)
  else do
    let (s, bs) ← s.readLoc l n
    let old := leNat bs
    match f old with
    | none => .ok (s, old)
    | some v => .ok ((s.logWrite l (unitsOf l.place.off n)).writePlace s.who l.prot l.place (leBytes n v), old)

/-! ### Ordering (R89) -/

def MemOrd.releases : MemOrd → Bool
  | .release | .acqrel => true
  | _ => false
def MemOrd.acquires : MemOrd → Bool
  | .acquire | .acqrel => true
  | _ => false

end Sys2Proof.Machine
end

