-- ==== Sys2Proof/Machine/Msg.lean ====
section
/-!
DEFINITION. The outbox, messages, the call board, tasks and cluster barriers (R19 to R21, R175 to R189).
-/

namespace Sys2Proof.Machine

/-! ### The outbox (R175, R176) -/

def OutBody.size : OutBody → Nat
  | .message m => m.room
  | .task _ => 32
  | .dec .. => 8

def Context.outboxUsed (x : Context) : Nat := (x.outbox.map (fun e => e.body.size)).sum

/-- The message that carries a task record a full deque cannot hold, to the home core in the name of the issuer
(R185, R186). -/
def taskMessage (home src : CoreId) (t : Tag) (slots : Vector Word 4) (region : BitVec 32) : Message :=
  { dest := (BitVec.ofNat 13 home.val : BitVec 13) ++ (61 : BitVec 6)
    header := mkHeader 61 src 4 t ||| atB true 23
    payload := slots.toList, region := region, origin := .core }

/-- A message of a domain is sealed under its stream key, whose counter rises (R285). -/
def State.counted (s : State) (c : CoreId) (t : Tag) : State :=
  s.updCore c (fun q => { q with
    keys := match q.slotOf t with | some i => q.keys.set i { q.keys[i] with used := q.keys[i].used + 1 } | none => q.keys })

/-- The stream key a domain's messages leave a core under (R285). -/
def State.sealKey (s : State) (c : CoreId) (t : Tag) : Option (BitVec 256) :=
  (s.core c).streamKey t

/-- A core's network interface sends an outbox entry: it takes a flight credit and is sealed (R178, R285). -/
def State.sealed (s : State) (c : CoreId) (t : Tag) : State :=
  (s.counted c t).updCore c (fun q => { q with credits := q.credits - 1 })

/-- Pushes a record, newest, onto the deque of a core and domain; a full deque makes it a task message of `src`. A record
whose region is not LIVE (R34, R185) or whose domain has been killed (R369), is discarded. -/
def State.pushTask (s : State) (home : CoreId) (t : Tag) (slots : Vector Word 4) (region : BitVec 32) (src : CoreId) : State :=
  if !s.regionLive region || s.killedTag t then s
  else if (s.dom home t).deque.length < 64 then
    s.updDom home t (fun d => { d with deque := { slots := slots, region := region, pushed := s.clock } :: d.deque })
  else (s.sealed src t).send (.message (some src) { taskMessage home src t slots region with key := s.sealKey src t })

/-- An entry leaves the core (R176, R178). -/
def State.sendEntry (s : State) (c : CoreId) (e : OutEntry) : State :=
  match e.body with
  | .message m => (s.sealed c e.tag).send (.message (some c) { m with key := s.sealKey c e.tag })
  | .task slots => s.pushTask c e.tag slots e.region c
  | .dec .. => (s.sealed c e.tag).send (.dec c e (s.sealKey c e.tag))

/-- Places an entry. One that does not fit makes the instruction perform a commit point first, whose restore image lies
before the entry (R175, R302). The M bank has no outbox: the monitor's entries leave at once (log 108). -/
def State.place (s : State) (b : OutBody) : Except Stop State := do
  let e : OutEntry := { body := b, region := s.regs.region, tag := s.regs.tag, after := s.me.storeSeq }
  if s.mMode then
    if s.myCore.credits = 0 then blocked else .ok (s.sendEntry s.turn.core e)
  else
    let s ← (if 2048 < s.me.outboxUsed + b.size || s.me.wait = some (.reissue true) then do
        let s ← s.commitPoint
        .ok (s.updMe (fun x => { x with restore := some { regs := x.regs, item := none, atStart := false } }))
      else .ok s)
    .ok (s.updMe (fun x => { x with outbox := x.outbox ++ [e] }))

def execCmit (w : Pre) (s : State) : Out := runInstr (.cmit w) w {} (fun _ s => s.commitPoint) s

/-! ### SEND, SPAWN, TDEC (R180, R185, R186) -/

/-- Registers b to b + n as R48 counts a range. -/
def rangeRefs (b n : Nat) : List RegRef := ((List.range n).map (fun i => rg (Fin.ofNat 32 (b + i)))).flatten

/-- g(b) to g(b + n − 1). -/
def Regs.range (r : Regs) (b n : Nat) : List Word := (List.range n).map (fun i => r.getG (Fin.ofNat 32 (b + i)))

/-- The message of a SEND (R179, R180). -/
def State.sendMessage (s : State) (dest : Word) (b : Fin 32) (n : Nat) : Message :=
  { dest := dest.setWidth 19, header := mkHeader (dest.setWidth 6) s.turn.core n s.regs.tag
    payload := s.regs.range b.val n, region := s.regs.region, origin := .core }

def execSend (w : Pre) (a : GReg) (b : Fin 32) (n : Fin 16) (s : State) : Out :=
  runInstr (.send w a b n) w { srcs := [a], reads := a.refs ++ rangeRefs b.val (n.val + 1) }
    (fun vs s =>
      if (v0 vs) >>> 19 ≠ 0 then .error (.trap 0x06 (v0 vs))
      else s.place (.message (s.sendMessage (v0 vs) b (n.val + 1)))) s

def execSpawn (w : Pre) (a : Fin 32) (s : State) : Out :=
  let i : Instr := .spawn w a
  runInstr i w { reads := rangeRefs a.val 4 }
    (fun _ s =>
      let r := s.regs.range a.val 4
      let x := r.getD 0 0
      if x >>> 35 ≠ 0 || fld x 0 32 = 0 then .error (.trap 0x01 i.baseWord)
      else if bit x 0 then .error (.trap 0x05 (zext x 32))
      else if s.regs.dom ≠ [] then .error (.trap 0x0E (BitVec.ofNat 64 s.regs.dom.length))
      else s.place (.task (Vector.ofFn (fun k : Fin 4 => r.getD k.val 0)))) s

def execTdec (w : Pre) (a : GReg) (s : State) : Out :=
  runInstr (.tdec w a) w { srcs := [a], reads := a.refs }
    (fun vs s => do
      let addr := v0 vs
      if addr.toNat % 64 ≠ 0 then .error (.trap 0x05 addr)
      else if !ownScratch addr.toNat then .error (.trap 0x06 addr)
      else do
        let l ← s.checkSpace addr.toNat 64 .atomic
        match l.place with
        | .scratch c o => s.place (.dec c o)
        | _ => .error (.trap 0x06 addr)) s

/-! ### The call board (R19, R21, R183, R184) -/

def entryPrio (e : Word) : Nat := fld e 32 3
def entryEn (e : Word) : Bool := bit e 35
def entrySerial (e : Word) : Bool := bit e 36
def entryQuota (e : Word) : Nat := fld e 37 5
def entryTag (e : Word) : Tag := e.extractLsb' 48 16

/-- Registers of a domain's items waiting on a channel are dealt with as R21 gives where it is left without a handler. -/
def State.defineEntry (s : State) (ch : BitVec 6) (e : Word) : State :=
  let c := s.turn.core
  let t := s.regs.tag
  let s := s.updDom c t (fun d => { d with board := d.board.setIfInBounds ch.toNat e })
  if entryHandler e = 0 then s.withdrawIf c (fun m => m.chan = ch && m.tag = t) else s

def execHdef (w : Pre) (a b : GReg) (s : State) : Out :=
  let i : Instr := .hdef w a b
  runInstr i w { srcs := [a, b], reads := a.refs ++ b.refs }
    (fun vs s =>
      let e := v1 vs
      if 63 < (v0 vs).toNat || fld e 42 6 ≠ 0 || entryTag e ≠ s.regs.tag then .error (.trap 0x01 i.baseWord)
      else if bit e 0 then .error (.trap 0x05 (entryHandler e))
      else .ok ((s.defineEntry ((v0 vs).setWidth 6) e).noRestore)) s

/-- The contexts of a core blocked in a WFM of a domain on a channel that no message has reached, with the age of each wait
(R182). -/
def State.wfms (s : State) (c : CoreId) (t : Tag) (ch : BitVec 6) : List (Nat × CtxId × Instr) :=
  (List.finRange 8).filterMap (fun k =>
    let x := s.ctx c (bank k)
    match x.state, x.wait with
    | .blocked, some (.message i ch' since none) => if ch' = ch && x.regs.tag = t then some (since, k, i) else none
    | _, _ => none)

/-- Gives a message to the oldest WFM blocked on its channel, where there is one (R182). -/
def State.deliver (s : State) (c : CoreId) (m : Message) : Option State :=
  match s.wfms c m.tag m.chan with
  | [] => none
  | h :: t =>
    let (since, k, i) := t.foldl (fun a b => if b.1 < a.1 then b else a) h
    some (s.updCtx c (bank k) (fun x => { x with wait := some (.message i m.chan since (some m)) }))

/-- The doorbell of HSETP (R184). -/
def doorbell (c : CoreId) (t : Tag) (ch : BitVec 6) (region : BitVec 32) : Message :=
  { dest := (BitVec.ofNat 13 c.val : BitVec 13) ++ ch
    header := mkHeader ch c 1 t ||| atB true 48
    payload := [], region := region, origin := .core }

/-- HSETP on one channel. The doorbell is of the thread's domain, which only the installed domain's channels concern
(R280). -/
def State.ring (s : State) (ch : BitVec 6) : State :=
  let c := s.turn.core
  let t := s.regs.tag
  let d := s.dom c t
  if s.myCore.installed ≠ t || entryHandler (s.entry c t ch) = 0 || d.pend.getLsbD ch.toNat then s
  else
    let m := doorbell c t ch s.regs.region
    match s.deliver c m with
    | some s => s
    | none =>
      (s.updDom c t (fun d => { d with pend := d.pend ||| (1#64 <<< ch.toNat) })).updCore c
        (fun q => { q with inbox := q.inbox ++ [{ msg := m, accepted := s.clock }] })

/-- HCLRP on one channel: the doorbell not yet started is withdrawn. -/
def State.unring (s : State) (ch : BitVec 6) : State :=
  let c := s.turn.core
  let t := s.regs.tag
  (s.updDom c t (fun d => { d with pend := d.pend &&& ~~~(1#64 <<< ch.toNat) })).updCore c
    (fun q => { q with inbox := q.inbox.filter (fun i => !(i.msg.isDoorbell && i.msg.chan = ch && i.msg.tag = t)) })

/-- HEN and HDIS on one channel. -/
def State.enable (s : State) (on : Bool) (ch : BitVec 6) : State :=
  s.updDom s.turn.core s.regs.tag (fun d =>
    let e := d.board[ch.toNat]?.getD 0
    { d with board := d.board.setIfInBounds ch.toNat (setFld e 35 1 (if on then 1 else 0)) })

/-- A form of HCTL over the channels whose bits are set. HSETP is a release: the thread's earlier stores perform first (R246,
R249). -/
def hctl (i : Instr) (w : Pre) (a : GReg) (rel : Bool) (f : State → BitVec 6 → State) (s : State) : Out :=
  runInstr i w { srcs := [a], reads := a.refs }
    (fun vs s => do
      let s ← if rel then s.drainMe else .ok s
      let chs := (List.range 64).filter (fun c => bit (v0 vs) c)
      .ok ((chs.foldl (fun s c => f s (BitVec.ofNat 6 c)) s).noRestore)) s

def execHen (w : Pre) (a : GReg) (s : State) : Out := hctl (.hen w a) w a false (fun s c => s.enable true c) s
def execHdis (w : Pre) (a : GReg) (s : State) : Out := hctl (.hdis w a) w a false (fun s c => s.enable false c) s
def execHsetp (w : Pre) (a : GReg) (s : State) : Out := hctl (.hsetp w a) w a true State.ring s
def execHclrp (w : Pre) (a : GReg) (s : State) : Out := hctl (.hclrp w a) w a false State.unring s

/-! ### WFM (R182) -/

/-- g1 to g16 from a payload. -/
def Regs.setPayload (r : Regs) (p : List Word) : Regs :=
  (List.range 16).foldl (fun r i => r.setG (Fin.ofNat 32 (1 + i)) (p.getD i 0)) r

/-- A message taken: registers as R182 gives. -/
def State.takeMessage (s : State) (d : GReg) (m : Message) : State :=
  (s.updRegs (fun r => r.setPayload m.payload)).writeG d m.header

/-- A doorbell that waited no longer does: its PEND is cleared (R184). A redelivered one left PEND before. -/
def State.unpend (s : State) (c : CoreId) (m : Message) : State :=
  if m.isDoorbell && !hdrBit m 51 then s.updDom c m.tag (fun d => { d with pend := d.pend &&& ~~~(1#64 <<< m.chan.toNat) }) else s

/-- Removes the first entry of a list that a test picks. -/
def dropFirst {α : Type} (p : α → Bool) : List α → List α
  | [] => []
  | x :: t => if p x then t else x :: dropFirst p t

/-- The receipt of a waiting or arrived message by a WFM; an older WFM on the channel goes first. -/
def State.receive (s : State) (d : GReg) (c : BitVec 6) (since : Nat) (got : Option Message) : Option (Except Stop State) :=
  match got with
  | some m => some (.ok (s.takeMessage d m))
  | none =>
    let t := s.regs.tag
    let mine (i : Item) : Bool := i.msg.chan = c && i.msg.tag = t
    let older := (s.wfms s.turn.core t c).any (fun w => w.1 < since)
    match s.myCore.inbox.find? mine, older with
    | some i, false =>
      some (.ok (((s.updCore s.turn.core (fun q => { q with inbox := dropFirst mine q.inbox })).unpend s.turn.core i.msg).takeMessage d i.msg))
    | _, _ => none

/-- g1 to g16 as R48 counts them. -/
def payloadRefs : List RegRef := rangeRefs 1 16

/-- WFM. A domain that is not installed, as a gate callee may be, has no entry in force (R280; log 106). -/
def execWfm (w : Pre) (d a : GReg) (s : State) : Out :=
  let i : Instr := .wfm w d a
  keptOp i w { srcs := [a], dst := some d, reads := a.refs, writes := d.refs ++ payloadRefs, long := true }
    (fun b => .message i b.1 b.2.1 b.2.2)
    (fun x => match x with | .message j c n got => if j = i then some (c, n, got) else none | _ => none)
    (fun vs s => do
      let c : BitVec 6 := (v0 vs).setWidth 6
      if 63 < (v0 vs).toNat then .error (.trap 0x01 i.baseWord)
      else
        let e := s.entry s.turn.core s.regs.tag c
        if s.myCore.installed ≠ s.regs.tag || entryHandler e = 0 || entryTag e ≠ s.regs.tag then
          .error (.trap 0x06 ((coreAddr s.turn.core.val).setWidth 64 ||| c.setWidth 64))
        else do
          let s ← s.commitPoint
          .ok ({ s with fresh := s.fresh + 1 }, (c, s.fresh, none)))
    (fun b s => s.receive d b.1 b.2.1 b.2.2) s

/-! ### Barriers (R188, R189) -/

def State.barrier (s : State) (id : Fin 32) : Barrier := (s.cluster (clusterOf s.turn.core)).barriers[id]

def barId (x : Word) : Fin 32 := ⟨(x.extractLsb' 0 5).toNat, (x.extractLsb' 0 5).isLt⟩
def barCount (x : Word) : Nat := fld x 8 10

/-- The operand checks of the three forms; `arrives` where COUNT is used. -/
def barCheck (i : Instr) (x : Word) (arrives : Bool) : Except Stop Unit :=
  if fld x 5 3 ≠ 0 || x >>> 18 ≠ 0 || (arrives && (barCount x = 0 || 512 < barCount x)) then .error (.trap 0x01 i.baseWord)
  else .ok ()

/-- The barrier is free or held by the thread's domain. -/
def State.barDomain (s : State) (id : Fin 32) : Except Stop Unit :=
  match (s.barrier id).tag with
  | some t => if t = s.regs.tag then .ok () else .error (.trap 0x06 (BitVec.ofNat 64 id.val))
  | none => .ok ()

/-- The contexts of a cluster. -/
def clusterContexts (c : ClusterId) : List (CoreId × CtxId) :=
  ((List.finRange 64).map (fun n =>
    (List.finRange 8).map (fun k => ((⟨64 * c.val + n.val, by omega⟩ : CoreId), k)))).flatten

/-- A phase completes: waits for it are over, and no context has an arrival in it open. -/
def State.phaseOver (s : State) (id : Fin 32) (ph : Bool) : State :=
  (clusterContexts (clusterOf s.turn.core)).foldl (fun s e =>
    let x := s.ctx e.1 (bank e.2)
    let b : BitVec 32 := 1#32 <<< id.val
    let opened := x.regs.arrOpen &&& b ≠ 0 && x.regs.arrPhase.getLsbD id.val = ph
    let waits := match x.wait with | some (.phase _ j p false) => j = id && p = ph | _ => false
    if opened || waits then
      s.updCtx e.1 (bank e.2) (fun x =>
        let w := match x.wait with | some (.phase i j p false) => if j = id && p = ph then some (.phase i j p true) else x.wait | y => y
        { x with wait := w, regs := { x.regs with arrOpen := if opened then x.regs.arrOpen &&& ~~~b else x.regs.arrOpen } })
    else s) s

/-- An arrival, once the thread's stores have performed: the count, the record, and the end of the phase. -/
def State.arrive (s : State) (i : Instr) (x : Word) : Except Stop State := do
  let id := barId x
  s.barDomain id
  let b := s.barrier id
  if b.count ≠ 0 && b.total ≠ barCount x then .error (.trap 0x01 i.baseWord) else
  let s ← s.drainMe
  let total := if b.count = 0 then barCount x else b.total
  let ended := b.count + 1 = total
  let b' : Barrier := { phase := b.phase != ended, count := if ended then 0 else b.count + 1, total := total, tag := some s.regs.tag }
  let s := s.updCluster (clusterOf s.turn.core) (fun c => { c with barriers := c.barriers.set id b' })
  let m : BitVec 32 := 1#32 <<< id.val
  let s := s.updRegs (fun r => { r with arrOpen := r.arrOpen ||| m, arrPhase := if b.phase then r.arrPhase ||| m else r.arrPhase &&& ~~~m })
  .ok (if ended then s.phaseOver id b.phase else s)

/-- The wait for a phase. -/
def State.phaseWait (s : State) (id : Fin 32) (ph ended : Bool) : Option (Except Stop State) :=
  if ended || (s.barrier id).phase ≠ ph then some (.ok s) else none

def ofPhase (i : Instr) (x : Wait) : Option (Fin 32 × Bool × Bool) :=
  match x with
  | .phase j id ph ended => if j = i then some (id, ph, ended) else none
  | _ => none

def execBar (w : Pre) (a : GReg) (s : State) : Out :=
  let i : Instr := .bar w a
  keptOp i w { srcs := [a], reads := a.refs } (fun b => .phase i b.1 b.2.1 b.2.2) (ofPhase i)
    (fun vs s => do
      barCheck i (v0 vs) true
      s.barDomain (barId (v0 vs))
      let s ← s.commitPoint
      let ph := (s.barrier (barId (v0 vs))).phase
      let s ← s.arrive i (v0 vs)
      .ok (s, (barId (v0 vs), ph, false)))
    (fun b s => s.phaseWait b.1 b.2.1 b.2.2) s

def execBara (w : Pre) (a : GReg) (s : State) : Out :=
  let i : Instr := .bara w a
  runInstr i w { srcs := [a], reads := a.refs }
    (fun vs s => do
      barCheck i (v0 vs) true
      if s.regs.guardPending then .error (.guardFault s.regs.gfa) else do
      let s ← s.arrive i (v0 vs)
      .ok s.noRestore) s

/-- BARW waits for the phase of the last arrival; at once where none is open. -/
def execBarw (w : Pre) (a : GReg) (s : State) : Out :=
  let i : Instr := .barw w a
  keptOp i w { srcs := [a], reads := a.refs } (fun b => .phase i b.1 b.2.1 b.2.2) (ofPhase i)
    (fun vs s => do
      barCheck i (v0 vs) false
      let id := barId (v0 vs)
      s.barDomain id
      let s ← s.commitPoint
      .ok (s, (id, s.regs.arrPhase.getLsbD id.val, !s.regs.arrOpen.getLsbD id.val)))
    (fun b s => s.phaseWait b.1 b.2.1 b.2.2) s

end Sys2Proof.Machine
end

