-- ==== Sys2Proof/Machine/Gate.lean ====
section
/-!
DEFINITION. Gate calls, returns from them, and the domain-stack read (R197 to R205, R279, R287, R292).
-/

namespace Sys2Proof.Machine

/-! ### Domain-stack entries (R197) -/

/-- Slot i of an entry. -/
def DomEntry.slot (e : DomEntry) (i : Nat) : Word :=
  match i with
  | 0 => e.retpc
  | 1 => e.lc
  | 2 => e.ls
  | 3 =>
    at' e.caller.toNat 0 ||| at' e.callee.toNat 16 ||| at' e.lfloor 32 ||| at' e.pfloor 36 ||| at' e.gate.toNat 40 |||
      at' e.cpart.toNat 48 ||| at' e.sreg.val 53
  | 4 => at' e.window.toNat 0 ||| at' e.fflg.toNat 32 ||| at' e.fen.toNat 37
  | 5 => at' e.region.toNat 0 ||| at' e.lsf.toNat 32
  | 6 => at' e.left.toNat 0 ||| atB e.limited 63
  | _ => e.handle

/-- The field of an entry that DSR reads under a code (R205). -/
def DomEntry.field (e : DomEntry) (f : Nat) : Word :=
  match f with
  | 0 => e.caller.setWidth 64
  | 1 => e.cpart.setWidth 64
  | 2 => e.gate.setWidth 64
  | 3 => at' (fld (e.window.setWidth 64) 17 13) 0 ||| atB (e.window.getLsbD 30) 13
  | 4 => e.slot 6
  | 5 => e.region.setWidth 64
  | _ => e.slot (f - 8)

/-! ### Gate handles, windows, table entries (R198, R287) -/

def handleTag (h : Word) : Tag := h.setWidth 16
def handleIndex (h : Word) : Nat := fld h 16 8

/-- A gate's table entry at a physical address. -/
structure GateEntry where
  pa : Nat
  entry : Word
  gen : Nat
  state : Nat
  part : Nat
  ceiling : BitVec 63
  limited : Bool
  pmask : BitVec 32
  tags : List Tag
  deriving DecidableEq, Repr

def State.readGate (s : State) (pa : Nat) : GateEntry :=
  let w1 := s.slot pa 1
  let w2 := s.slot pa 2
  let w3 := s.slot pa 3
  { pa := pa, entry := s.slot pa 0, gen := fld w1 0 24, state := fld w1 24 2, part := fld w1 26 5
    ceiling := w2.setWidth 63, limited := bit w2 63, pmask := w3.setWidth 32
    tags := (List.range (min (fld w3 32 5) 16)).map (fun i => (s.slot pa (4 + i / 4)).extractLsb' (16 * (i % 4)) 16) }

/-- The entry a handle names, where it is published or revoked, of the handle's generation and partition. -/
def State.gateOf (s : State) (h : Word) : Option GateEntry :=
  match s.gateEntry (handleTag h) (handleIndex h) with
  | some pa =>
    let e := s.readGate pa
    if e.state = 0 || e.gen ≠ fld h 24 24 || e.part ≠ fld h 48 16 then none else some e
  | none => none

/-- `policy_admits` (R287). -/
def State.admits (s : State) (e : GateEntry) (t : Tag) : Bool :=
  e.pmask.getLsbD (s.partOf t).val || e.tags.contains t

/-- The argument window is well formed and the caller may load from it, and store to it where WR = 1 (R199). -/
def State.windowOk (s : State) (w : Word) : Bool :=
  let o := fld w 0 17
  let n := fld w 17 13
  let c := s.turn.core
  let ok (kind : Kind) : Bool :=
    (linesOf (coreN c * 0x20000 + o) n).all (fun g => s.myCore.grants (max g (coreN c * 0x20000 + o)) true kind s.regs.tag)
  w = 0 || (w >>> 31 = 0 && 1 ≤ n && n ≤ 4096 && o + n ≤ 0x1F800 && ok .load && (!bit w 30 || ok .store))

/-! ### GCALL (R199) -/

/-- The entry a call pushes. -/
def State.pushed (s : State) (pre : Pre) (d : Fin 32) (h w : Word) (e : GateEntry) : DomEntry :=
  let r := s.regs
  { retpc := s.next pre, lc := r.lc, ls := r.ls, caller := r.tag, callee := handleTag h, lfloor := r.link.length
    pfloor := r.loops.length, gate := h.extractLsb' 16 8, cpart := BitVec.ofNat 5 (s.partOf r.tag).val, sreg := d
    window := w.setWidth 31, fflg := r.fflg, fen := r.fen, region := r.region, lsf := r.lsf
    left := if e.limited then e.ceiling else 0, limited := e.limited, handle := h }

/-- The registers a callee starts with. -/
def Regs.entered (r : Regs) (p : DomEntry) (entry : Word) : Regs :=
  { r.clearFrom 8 with
    lc := 0, ls := 0, fflg := 0, fen := 0, lsf := 0, tcause := 0, tval := 0, tpc := 0, dom := p :: r.dom, tag := p.callee
    pc := entry }

/-- GCALL once its gate's table entry has been read: the pc it leaves is the callee's entry, or the next address where nothing is
entered. -/
def State.gateEnter (s : State) (pre : Pre) (d : Fin 32) (h w : Word) : Except Stop State := do
  let r := s.regs
  match s.gateOf h with
  | none => .error (.trap 0x0E h)
  | some e =>
    if !s.admits e r.tag then .error (.trap 0x0E h)
    else if !s.windowOk w then .error (.trap 0x0E h)
    else
      let callee := handleTag h
      let killed := s.killedTag callee
      if !killed && !s.myCore.resident callee then .error (.trap 0x0E h)
      else do
        let s ← s.commitPoint
        let s ← s.drainMe
        let ret (status : Word) : State := s.updRegs (fun r => { r.setG d status with pc := s.next pre })
        if killed then .ok (ret 2)
        else if e.state = 2 || s.partitions[s.partOf callee].state ≠ .run then .ok (ret 1)
        else
          let p := s.pushed pre d h w e
          let w1 := s.slot e.pa 1
          .ok ((s.setSlot e.pa 1 (setFld w1 32 32 (fld w1 32 32 + 1))).updRegs (fun r => r.entered p e.entry))

/-- The effect of GCALL. An armed injection on the gate's table entry fires first (R221). -/
def State.gateCall (s : State) (pre : Pre) (d : Fin 32) (h w : Word) : Except Stop State := do
  let r := s.regs
  if r.gstat.inGang then .error (.trap 0x10 r.gstat.word)
  else if 8 ≤ r.dom.length then .error (.trap 0x0E 8)
  else if r.tcause ≠ 0 then .error (.trap 0x0E h)
  else match s.gateEntry (handleTag h) (handleIndex h) with
  | some pa => if (s.injection pa 64).isSome then .error (.fire pa) else s.gateEnter pre d h w
  | none => .error (.trap 0x0E h)

/-- What entering and leaving a callee clears besides g registers, as R48 counts it: f, v, p and m, lc and ls, t0, the table
slots. -/
def clearedRefs : List RegRef :=
  ((List.finRange 32).map rf).flatten ++ ((List.finRange 32).map rv).flatten ++ ((List.finRange 8).map rp).flatten ++
    ((List.finRange 8).map rm).flatten ++ [⟨5, 0⟩, ⟨5, 1⟩, ⟨5, 2⟩, ⟨6, 0⟩, ⟨6, 1⟩]

def execGcall (w : Pre) (d a b : Fin 32) (s : State) : Out :=
  runInstr (.gcall w d a b) w
    { srcs := [.g a, .g b], dst := some (.g d), reads := rg a ++ rg b, writes := rg d ++ rangeRefs 8 24 ++ clearedRefs, long := true, own := true, jumps := true }
    (fun vs s => s.gateCall w d (v0 vs) (v1 vs)) s

/-! ### GRET (R201) -/

def State.gateReturn (s : State) : Except Stop State :=
  match s.regs.dom with
  | [] => .error (.trap 0x0E 0)
  | e :: _ =>
    if s.me.outbox ≠ [] then .error (.trap 0x0E (BitVec.ofNat 64 s.regs.dom.length))
    else do
      let s ← s.drainMe
      let s ← s.report
      let s := s.leaveGate e.callee e.gate.toNat
      .ok ((s.updRegs (fun r => { (r.popEntry e 5).setG e.sreg 0 with pc := e.retpc })).noRestore)

/-- GRET writes every register it clears or restores; SREG is one of g5 to g31 (R199). -/
def execGret (w : Pre) (s : State) : Out :=
  runInstr (.gret w) w { jumps := true, writes := rangeRefs 5 27 ++ clearedRefs } (fun _ s => s.gateReturn) s

/-! ### DSR (R205) -/

def execDsr (w : Pre) (d a : GReg) (f : BitVec 4) (s : State) : Out :=
  let i : Instr := .dsr w d a f
  runInstr i w { srcs := [a], dst := some d, reads := a.refs, writes := d.refs, long := true, priv := 8 ≤ f.toNat }
    (fun vs s =>
      if f = 6 || f = 7 then .error (.trap 0x01 i.baseWord)
      else if s.mMode then
        match s.csrRegs.dom[(v0 vs).toNat]? with
        | some e => .ok (s.writeG d (e.field f.toNat))
        | none => .error (.trap 0x01 i.baseWord)
      else
        match s.regs.dom with
        | e :: _ => if v0 vs = 0 then .ok (s.writeG d (e.field f.toNat)) else .error (.trap 0x0E (v0 vs))
        | [] => .error (.trap 0x0E (v0 vs))) s

end Sys2Proof.Machine
end

