-- ==== Sys2Proof/Machine/Monitor.lean ====
section
/-!
DEFINITION. The monitor calls: MCALL enters M mode, the monitor acts, and MRET resumes the caller (R213, R215, R227,
R287 to R289). The monitor's code is not in the spec; its service is one move with the results R215 gives (log 32).
-/

namespace Sys2Proof.Machine

/-- The status of a call (R215). -/
inductive CallStatus where
  | ok | badArg | denied | noSpace | unknown
  deriving DecidableEq, Repr

def CallStatus.word : CallStatus → Word
  | .ok => 0
  | .badArg => 1
  | .denied => 2
  | .noSpace => 3
  | .unknown => BitVec.allOnes 64

/-- The M-mode entry of a call (R213, R215). -/
def State.callEntry (s : State) (w : Pre) (n : Nat) : MEntry :=
  { cause := 0x20, ctx := s.myCtx, core := false, epc := s.next w, val := BitVec.ofNat 64 n }

/-- A call enters M mode: the caller's outstanding results return, the M-mode CSRs are set, and the M bank stands READY at
mtvec (R213, R214). -/
def State.mcallEntry (s : State) (w : Pre) (n : Nat) : State :=
  let r := s.regs
  (s.updMe (fun x => x.returned)).updCore s.turn.core (fun q => { q with
    mmode := some (s.callEntry w n), mcause := 0x20, mepc := s.next w, mtval := BitVec.ofNat 64 n, mctx := s.myCtx
    tdsp := BitVec.ofNat 4 r.dom.length, tdom := r.tag
    ctxs := q.ctxs.set mBank { q.ctxs[mBank] with
      state := .ready, wait := none, pending := [], outstanding := [], regs := { q.ctxs[mBank].regs with pc := q.mtvec } } })

/-- An entry that goes before a call's waits for the M bank (R63, R213). -/
def Core.callWaits (q : Core) : Bool := q.mmode.isSome || q.mqueue.any (fun e => e.cause.toNat ≤ 0x20) || q.stopDue.isSome

/-- The registers a call reads and writes: its arguments, and g1 with its results (R48, R215). -/
def callUses (args results : List (Fin 32)) : Uses := { reads := (args.map rg).flatten, writes := (results.map rg).flatten }

/-- A monitor call enters M mode with its number; it is illegal in M mode, and unissued while the M bank serves another entry or
one goes before it. The monitor's service follows (R215; log 32). -/
def monitorCall (i : Instr) (w : Pre) (u : Uses) (n : Nat) (s : State) : Out :=
  runInstr i w u (fun _ s =>
    if s.mMode then .error (.trap 0x01 i.baseWord)
    else if s.myCore.callWaits || s.me.flagsOut then blocked
    else .ok (s.mcallEntry w n)) s

def execMver (w : Pre) (s : State) : Out := monitorCall (.mver w) w (callUses [] [1, 2, 3]) 0 s
def execGpub (w : Pre) (s : State) : Out := monitorCall (.gpub w) w (callUses [1, 2, 3, 4] [1, 2]) 1 s
def execGrev (w : Pre) (s : State) : Out := monitorCall (.grev w) w (callUses [1] [1]) 2 s
def execSpgd (w : Pre) (s : State) : Out := monitorCall (.spgd w) w (callUses [1, 2, 3] [1]) 3 s
def execMcall (w : Pre) (n : BitVec 10) (s : State) : Out := monitorCall (.mcall w n) w (callUses [] [1]) n.toNat s

/-- What the monitor does for a call, the calling context standing as the one that executes: the state, and the status. -/
abbrev Service := State → Except Stop (State × CallStatus)

/-- MVER: the monitor's version and the first word of its measurement. -/
def serveMver : Service := fun s =>
  .ok (s.updRegs (fun r => (r.setG 2 Config.monitorVersion).setG 3 (Config.monitorMeasurement.setWidth 64)), .ok)

/-! ### GPUB (R287 to R289) -/

def directoryPa (t : Tag) : Nat := 0xBFF0000000 + 8 * t.toNat

/-- The place of gate table i: the 512 tables stand behind the directory (log 33). -/
def tablePlace (i : Nat) : Nat := 0xBFF0080000 + 0x4000 * i

/-- The tag's gate table, made where it has none: the lowest place no directory entry of a domain names. -/
def State.makeTable (s : State) (t : Tag) : Option (State × Nat) :=
  match s.gateEntry t 0 with
  | some pa => some (s, pa)
  | none =>
    let used := s.domains.filterMap (fun e => s.gateEntry (BitVec.ofNat 16 e.1) 0)
    match (List.range 512).find? (fun i => !used.contains (tablePlace i)) with
    | some i => some (s.setSlot (directoryPa t) 0 (BitVec.ofNat 64 (tablePlace i) ||| 1), tablePlace i)
    | none => none

/-- A policy list that breaks no rule of R288: also the tag fields beyond NTAG are 0. -/
def policyOk (p : List Word) : Bool :=
  let a := p.getD 0 0
  a >>> 37 = 0 && fld a 32 5 ≤ 16 && (p.drop 5).all (· = 0) &&
    (List.range 16).all (fun i => i < fld a 32 5 || fld (p.getD (1 + i / 4) 0) (16 * (i % 4)) 16 = 0)

/-- The next generation of a publication. -/
def nextGen (last : Nat) : Nat := if last = 0xFFFFFF then 1 else last + 1

/-- The last generation used: the entry's, or the highest of the tag's earlier holder (R278). -/
def State.lastGen (s : State) (t : Tag) (e : GateEntry) : Nat :=
  if e.gen ≠ 0 then e.gen else match s.domain? t with | some d => d.lastGen.toNat | none => 0

/-- The engines of a die hold a tag's XTS keys, in place of any older ones. -/
def State.installEngine (s : State) (d : DieId) (k : EngineKey) : State :=
  s.updDie d (fun x => { x with keys := k :: x.keys.filter (fun e => e.tag ≠ k.tag) })

/-- The monitor makes a callee resident on every core where a domain its gate admits is (R279): the slot of the publishing
core, with a stream counter of its own, in the lowest free slot (log 109). -/
def State.spreadKeys (s : State) (t : Tag) (e : GateEntry) : State :=
  match s.myCore.slotOf t with
  | none => s
  | some i =>
    let k : KeySlot := { s.myCore.keys[i] with used := 0, halted := false }
    s.listedCores.foldl (fun s c =>
      let q := s.core c
      if q.resident t || !q.keys.toList.any (fun y => y.loaded && s.admits e y.tag) then s
      else match (List.finRange 64).find? (fun n => !q.keys[n].loaded) with
      | some n => (s.updCore c (fun q => { q with keys := q.keys.set n k })).installEngine (dieOf c) { tag := t, data := k.data, tweak := k.tweak }
      | none => s) s

/-- Publishes a gate of the acting domain under a policy list. -/
def State.publish (s : State) (idx : Nat) (entry ceiling : Word) (p : List Word) : State × CallStatus :=
  let t := s.regs.tag
  match s.makeTable t with
  | none => (s, .noSpace)
  | some (s, base) =>
    let pa := base + 64 * idx
    let s := s.readLines pa 64
    let e := s.readGate pa
    if e.state = 1 || (e.state = 2 && fld (s.slot pa 1) 32 32 ≠ 0) then (s, .denied)
    else
      let gen := nextGen (s.lastGen t e)
      let part := (s.partOf t).val
      let s := s.setSlot pa 0 entry
      let s := s.setSlot pa 1 (at' gen 0 ||| at' 1 24 ||| at' part 26)
      let s := s.setSlot pa 2 (ceiling ||| atB (ceiling ≠ 0) 63)
      let s := (List.range 5).foldl (fun s i => s.setSlot pa (3 + i) (p.getD i 0)) s
      let s := { s with published := insert s.published (256 * t.toNat + idx) s.regs.region
                        revoking := erase s.revoking (256 * t.toNat + idx) }
      let s := s.spreadKeys t (s.readGate pa)
      (s.updRegs (fun r => r.setG 2 (at' t.toNat 0 ||| at' idx 16 ||| at' gen 24 ||| at' part 48)), .ok)

/-- The monitor reads the policy list as the acting domain would; a list it may not read is a bad argument. -/
def State.readPolicy (s : State) (a : Word) : Except Stop (Option (State × List Word)) :=
  match readDesc64 s a with
  | .ok r => .ok (some r)
  | .error (.trap _ _) => .ok none
  | .error e => .error e
where
  /-- A load of 64 bytes, 64-byte aligned. -/
  readDesc64 (s : State) (a : Word) : Except Stop (State × List Word) := do
    let (s, bs) ← s.load a.toNat 64
    .ok (s, slotsOf bs 8)

def serveGpub : Service := fun s => do
  let r := s.regs
  let (idx, entry, ceiling, list) := (r.getG 1, r.getG 2, r.getG 3, r.getG 4)
  if 255 < idx.toNat || bit entry 0 || entry = 0 || 2 ^ 62 - 1 < ceiling.toNat then .ok (s, .badArg)
  else match ← s.readPolicy list with
  | none => .ok (s, .badArg)
  | some (s, p) => .ok (if policyOk p then s.publish idx.toNat entry ceiling p else (s, .badArg))

/-! ### GREV, SPGD, other numbers -/

def State.revoke (s : State) (idx : Nat) : State × CallStatus :=
  let t := s.regs.tag
  match s.gateEntry t idx with
  | none => (s, .badArg)
  | some pa =>
    let s := s.readLines pa 64
    if (s.readGate pa).state ≠ 1 then (s, .badArg)
    else
      let s := s.setSlot pa 1 (setFld (s.slot pa 1) 24 2 2)
      let s := { s with revoking := insert s.revoking (256 * t.toNat + idx) (s.turn.core, s.regs.region) }
      (s.revokeNotice t idx, .ok)

def serveGrev : Service := fun s =>
  let idx := s.regs.getG 1
  .ok (if 255 < idx.toNat then (s, .badArg) else s.revoke idx.toNat)

/-- Sets or clears consecutive bits of a guard bitmap. -/
def setGuards (g : BitVec 2048) (first n : Nat) (on : Bool) : BitVec 2048 :=
  let m : BitVec 2048 := BitVec.ofNat 2048 ((2 ^ n - 1) <<< first)
  if on then g ||| m else g &&& ~~~m

def serveSpgd : Service := fun s =>
  let r := s.regs
  let o := (r.getG 1).toNat
  let n := (r.getG 2).toNat
  if o % 64 ≠ 0 || n = 0 || 1 < (r.getG 3).toNat || 0x1F800 < o + 64 * n then .ok (s, .badArg)
  else .ok (s.updDom s.turn.core r.tag (fun d => { d with guard := setGuards d.guard (o / 64) n (r.getG 3 = 1) }), .ok)

/-! ### The monitor's service (R215, R216) -/

/-- The service of a call number. -/
def service (n : Nat) : Service :=
  match n with
  | 0 => serveMver
  | 1 => serveGpub
  | 2 => serveGrev
  | 3 => serveSpgd
  | _ => fun s => .ok (s, .unknown)

/-- The monitor serves the call the core entered M mode for, while its bank stands at mtvec: the status goes into g1, and MRET
resumes the caller at mepc. A service that has to wait is tried again; where what it reads is lost, the caller has met that
event and M mode is left (log 32). -/
def State.serveCall (s : State) (c : CoreId) : State :=
  let q := s.core c
  match q.mmode with
  | some e =>
    if e.cause ≠ 0x20 || !q.atVector || q.dead || q.retired then s
    else if (s.ctx c (bank e.ctx)).gone then s.leaveM c
    else
      let s := s.onBank c (bank e.ctx)
      match service q.mtval.toNat s with
      | .ok (s, st) => (s.updRegs (fun r => r.setG 1 st.word)).leaveM c
      | .error (.halt s) => s.leaveM c
      | .error (.fire pa) => s.fired pa
      | .error _ => s
  | none => s

end Sys2Proof.Machine
end

