-- ==== Sys2Proof/Machine/System.lean ====
section
/-!
DEFINITION. The instructions only the monitor may issue (R216 to R220, R235, R269, R270, R283, R284, R286, R290, R291).
-/

namespace Sys2Proof.Machine

/-! ### MRET, HALT, HREL (R216, R217) -/

def execMret (w : Pre) (s : State) : Out :=
  runInstr (.mret w) w { priv := true, jumps := true } (fun _ s => .ok (s.leaveM s.turn.core)) s

/-- HALT stops issue on the other contexts, and completes once none of them has an outstanding result. -/
def State.haltOthers (s : State) : Except Stop State :=
  let c := s.turn.core
  let ks := (List.finRange 8).filter (fun k => s.myCore.served ≠ some k)
  if s.myCore.halted then .ok s
  else if ks.any (fun k => s.myCore.ctxs[bank k].outstanding ≠ []) then
    .error (.halt ((s.updCore c (fun q => { q with halting := true })).block (.reissue false)))
  else .ok (ks.foldl (fun s k => s.updCtx c (bank k) (fun x => { x with halted := true }))
    (s.updCore c (fun q => { q with halting := false })))

def execHalt (w : Pre) (s : State) : Out := runInstr (.halt w) w { priv := true } (fun _ s => s.haltOthers) s

/-- A HELD context goes on at its resume point, or with the wait its last instruction began (R113). -/
def Context.resumed (x : Context) : Context :=
  { x with state := if x.wait.isSome then .blocked else .ready, event := none }

/-- HREL on one context: the halt is cleared, a HELD context returns to READY, or the activation ends as a kill. -/
def State.releaseCtx (s : State) (c : CoreId) (k : CtxId) (kill : Bool) : State :=
  let s := s.updCtx c (bank k) (fun x => { x with halted := false, stopped := false, safe := none })
  if kill then s.killCtx c k
  else s.updCtx c (bank k) (fun x => if x.state = .held then x.resumed else x)

def execHrel (w : Pre) (a : GReg) (s : State) : Out :=
  let i : Instr := .hrel w a
  runInstr i w { srcs := [a], reads := a.refs, priv := true }
    (fun vs s =>
      let x := v0 vs
      let c := s.turn.core
      if bit x 5 || x >>> 19 ≠ 0 then .error (.trap 0x01 i.baseWord)
      else if fld x 6 13 ≠ c.val then .error (.trap 0x06 x)
      else
        let ks := (List.finRange 8).filter (fun k => (bit x 3 || fld x 0 3 = k.val) && s.myCore.served ≠ some k)
        .ok (ks.foldl (fun s k => s.releaseCtx c k (bit x 4)) s)) s

/-! ### INVPG and what a shootdown invalidates (R218, R234 to R236) -/

/-- A cached leaf that a shootdown of an address and tag covers; none stands for every one. -/
def TlbEntry.hit (e : TlbEntry) (va : Option Nat) (tag : Option Tag) : Bool :=
  (match tag with | some t => e.tag = t | none => true) && (match va with | some a => a / e.size * e.size = e.va | none => true)

def WalkEntry.hit (e : WalkEntry) (va : Option Nat) (tag : Option Tag) : Bool :=
  (match tag with | some t => e.tag = t | none => true) &&
    (match va with | some a => a / walkSpan e.level * walkSpan e.level = e.va | none => true)

/-- Removes the cached translations of a cluster that a shootdown covers. -/
def State.invalidate (s : State) (cl : ClusterId) (va : Option Nat) (tag : Option Tag) : State :=
  let s := s.listedCores.foldl (fun s c =>
    if clusterOf c = cl then s.updCore c (fun q => { q with tlb := q.tlb.filter (fun e => !e.hit va tag) }) else s) s
  let s := s.listedTroupes.foldl (fun s t =>
    if troupeCluster t = cl then s.updTroupe t (fun q => { q with tlb := q.tlb.filter (fun e => !e.hit va tag) }) else s) s
  s.updCluster cl (fun x => { x with walk := x.walk.filter (fun e => !e.hit va tag) })

/-- An engine job that has begun, under a tag or any, and so may have used its translations: also one suspended in its first
row group or row. -/
def Troupe.begun (t : Troupe) (tag : Option Tag) : Bool :=
  let mine (o : JobOwner) : Bool := match tag with | some x => o.tag = x | none => true
  t.mat.any (fun e => mine e.owner && (e.phase ≠ .queued || 0 < e.rg)) || t.copies.any (fun e => mine e.owner && (e.phase ≠ .queued || 0 < e.rows))

/-- The accesses and engine jobs of the cluster that used a tag's translations can be waited for: every buffered store can
leave, and no job has begun and not ended (R218, R235). -/
def State.clusterLeaves (s : State) (cl : ClusterId) (tag : Option Tag) : Bool :=
  s.listedCores.all (fun c => clusterOf c ≠ cl || (List.finRange 8).all (fun k =>
    let x := s.ctx c (bank k)
    x.storeBuf.all (s.leaves x))) &&
  s.listedTroupes.all (fun t => troupeCluster t ≠ cl || !(s.troupe t).begun tag)

/-- The accesses that used the old translations have performed, and the translations are gone (R235). -/
def State.shootdown (s : State) (cl : ClusterId) (va : Option Nat) (tag : Option Tag) : State :=
  let s := s.listedCores.foldl (fun s c =>
    if clusterOf c = cl then (List.finRange 8).foldl (fun s k => s.drain c (bank k)) s else s) s
  s.invalidate cl va tag

def execInvpg (w : Pre) (a b : GReg) (s : State) : Out :=
  let i : Instr := .invpg w a b
  runInstr i w { srcs := [a, b], reads := a.refs ++ b.refs, priv := true }
    (fun vs s =>
      let cl := clusterOf s.turn.core
      if v1 vs >>> 17 ≠ 0 then .error (.trap 0x01 i.baseWord)
      else
        let tag : Option Tag := if bit (v1 vs) 16 then none else some ((v1 vs).setWidth 16)
        if !s.clusterLeaves cl tag then blocked else .ok (s.shootdown cl (some (v0 vs).toNat) tag)) s

/-! ### Key slots (R219, R283, R284, R286) -/

/-- The acceptance shadow of a domain goes with its last key slot (R280). -/
def State.dropShadow (s : State) (c : CoreId) (t : Tag) : State :=
  if (s.core c).resident t then s else s.updDom c t (fun d => { d with shadow := false })

def State.setSlotKey (s : State) (c : CoreId) (n : Fin 64) (k : KeySlot) : State :=
  let old := (s.core c).keys[n].tag
  (s.updCore c (fun q => { q with keys := q.keys.set n k })).dropShadow c old

def key256 (bs : List Byte) : BitVec 256 := BitVec.ofNat 256 (leNat bs)

/-- A key block's slot; none where bytes 0x62 to 0x7F are not 0. -/
def keyBlock (bs : List Byte) : Option KeySlot :=
  if (bs.drop 0x62).any (· ≠ 0) then none
  else some
    { tag := BitVec.ofNat 16 (leNat ((bs.drop 0x60).take 2)), loaded := true, halted := false, used := 0
      data := key256 (bs.take 32), tweak := key256 ((bs.drop 32).take 32), stream := key256 ((bs.drop 64).take 32) }

def slot6 (x : Word) : Fin 64 := ⟨(x.extractLsb' 0 6).toNat, (x.extractLsb' 0 6).isLt⟩

def execKeyld (w : Pre) (a b : GReg) (s : State) : Out :=
  let i : Instr := .keyld w a b
  runInstr i w { srcs := [a, b], reads := a.refs ++ b.refs, priv := true }
    (fun vs s => do
      if v0 vs >>> 6 ≠ 0 then .error (.trap 0x01 i.baseWord)
      else if (v1 vs).toNat % 64 ≠ 0 then .error (.trap 0x05 (v1 vs))
      else do
        let l ← s.checkSpace (v1 vs).toNat 128 .load
        let (s, bs) ← s.readLoc l 128
        match keyBlock bs with
        | none => .error (.trap 0x01 i.baseWord)
        | some k =>
          .ok ((s.setSlotKey s.turn.core (slot6 (v0 vs)) k).installEngine (dieOf s.turn.core)
            { tag := k.tag, data := k.data, tweak := k.tweak })) s

/-- Messages that wait in outboxes of a core under a domain that has no stream key left are discarded. -/
def State.discardHeld (s : State) (c : CoreId) (t : Tag) : State :=
  if (s.core c).resident t then s
  else
    let held (e : OutEntry) : Bool := e.tag = t && (match e.body with | .message _ => true | _ => false)
    let n := ((List.finRange 8).map (fun k => ((s.ctx c (bank k)).outbox.filter held).length)).sum
    if n = 0 then s
    else
      ((List.finRange 8).foldl (fun s k => s.updCtx c (bank k) (fun x => { x with outbox := x.outbox.filter (fun e => !held e) })) s).log
        (dieOf c) { kind := 0x11, cls := 6, core := some c, tag := t, part := some (s.partOf t), detail := n }

/-- Zeroises a key slot, and with `engines` the domain's keys in the die's engines. -/
def State.zeroise (s : State) (c : CoreId) (n : Fin 64) (engines : Bool) : State :=
  let k := (s.core c).keys[n]
  let s := s.setSlotKey c n .empty
  let s := if engines then s.updDie (dieOf c) (fun x => { x with keys := x.keys.filter (fun e => e.tag ≠ k.tag) }) else s
  if k.loaded then s.discardHeld c k.tag else s

def execKeyz (w : Pre) (a : GReg) (s : State) : Out :=
  let i : Instr := .keyz w a
  runInstr i w { srcs := [a], reads := a.refs, priv := true }
    (fun vs s =>
      if v0 vs &&& ~~~0x13F#64 ≠ 0 then .error (.trap 0x01 i.baseWord)
      else .ok (s.zeroise s.turn.core (slot6 (v0 vs)) (bit (v0 vs) 8))) s

/-! ### Live masks (R269, R270) -/

/-- The physical address of a safe point's live-mask entry and whether its page is protected, as a read of the context's domain
would reach it; none where it cannot. Armed injections that the walk's reads and the read of the entry meet fire (R221). -/
def State.maskPlace (s : State) (c : CoreId) (t : Tag) (va : Nat) : Nat → State × Option (Nat × Bool)
  | 0 => (s, none)
  | n + 1 =>
    match s.translate c t va with
    | .error (.fire pa) =>
      match s.fireWalk pa with
      | (s, true) => (s, none)
      | (s, false) => s.maskPlace c t va n
    | .error _ => (s, none)
    | .ok l =>
      let pa := l.pa + va % l.size
      if !l.r || !(s.core c).grants pa false .load t then (s, none) else (s, some (pa, l.prot))

/-- The live-mask entry of a safe point, read as the context's domain would; none where it cannot be read. -/
def State.liveMask (s : State) (c : CoreId) (x : Context) (i : BitVec 8) : State × Option (Word × Word) :=
  let t := x.regs.tag
  let va := ((s.dom c t).slmt).toNat + 16 * i.toNat
  if 2 ^ 56 ≤ va then (s, none)
  else match s.maskPlace c t va (s.listedCores.length + 1) with
  | (s, some (pa, prot)) =>
    let (s, _, mac) := s.inject pa 16
    if (poisonedIn s.poison pa 16).isSome || (prot && (mac || !s.macOk pa t)) then (s, none)
    else
      let bs := s.readPlace (.phys pa) (protTag prot t) 16
      (s, some (leWord (bs.take 8), leWord (bs.drop 8)))
  | (s, none) => (s, none)

/-- Registers outside the masks hold 0 after restore. -/
def Regs.masked (r : Regs) (m : Word × Word) : Regs :=
  { r with
    g := Vector.ofFn (fun i : Fin 32 => if bit m.1 i.val then r.g[i] else 0)
    f := Vector.ofFn (fun i : Fin 32 => if bit m.1 (32 + i.val) then r.f[i] else 0)
    v := Vector.ofFn (fun i : Fin 32 => if bit m.2 i.val then r.v[i] else 0)
    p := (Vector.ofFn (fun i : Fin 8 => bit m.2 (32 + i.val) && r.p[i])).set 0 true }

/-- The registers a save keeps; an unreadable entry is recorded and keeps every register. -/
def State.savedRegs (s : State) (c : CoreId) (k : CtxId) : State × Regs :=
  let x := s.ctx c (bank k)
  match x.safe with
  | none => (s, x.regs)
  | some i =>
    match s.liveMask c x i with
    | (s, some m) => (s, x.regs.masked m)
    | (s, none) =>
      (s.log (dieOf c) { kind := 0x0E, cls := 6, core := some c, ctx := k.val, tag := x.regs.tag, part := some (s.partOf x.regs.tag)
                         region := x.regs.region, addr := (s.dom c x.regs.tag).slmt + at' i.toNat 4, pc := x.regs.pc }, x.regs)

/-! ### CTXSV (R220) -/

/-- Elements lo to hi − 1 of a stack kept newest first, counted from its bottom, newest first. -/
def segment {α : Type} (l : List α) (lo hi : Nat) : List α := ((l.reverse.drop lo).take (hi - lo)).reverse

/-- The frames of a save: one for each level, sealed under the key its tag's slot holds, the innermost with the registers. -/
def frameOf (c : CoreId) (k : CtxId) (base : Nat) (keyOf : Tag → Option (BitVec 256)) (counter : Word) (x : Context) (r : Regs)
    (level : Nat) : Frame :=
  let es := r.dom.reverse
  let n := es.length
  let inner := level = n
  let lo (f : DomEntry → Nat) : Nat := if level = 0 then 0 else match es[level - 1]? with | some e => f e | none => 0
  let hi (f : DomEntry → Nat) (all : Nat) : Nat := match es[level]? with | some e => f e | none => all
  let tag := match es[level]? with | some e => e.caller | none => r.tag
  { base := base, level := level, depth := n, ctx := k, core := c, tag := tag, key := keyOf tag, overlaid := []
    counter := counter + BitVec.ofNat 64 level
    regs := if inner then some { r with link := [], loops := [], dom := [], streams := r.streams.map (fun t => { t with ahead := [] }) } else none
    link := segment r.link (lo (·.lfloor)) (hi (·.lfloor) r.link.length)
    loops := segment r.loops (lo (·.pfloor)) (hi (·.pfloor) r.loops.length)
    entry := es[level]?
    state := if x.state = .parked then .ready else x.state
    wait := if inner then x.wait else none, outbox := if inner then x.outbox else [], undo := if inner then x.undo else []
    event := if inner then x.event else none, region := r.region, chan := r.chan
    launch := x.launch, freed := false, live := true }

/-- The address a frame operand names. -/
def State.frameBase (s : State) (k : CtxId) (b : Word) : Nat :=
  if b = 0 then s.myCore.dstkb.toNat * 4096 + 147456 * k.val else b.toNat

/-- Saves a context: its frames stand at the address, and it is SAVED with every register cleared. -/
def State.saveCtx (s : State) (c : CoreId) (k : CtxId) (base : Nat) : State :=
  let s := if (s.ctx c (bank k)).regs.gstat.inGang then s.disband c (bank k) 4 0 else s
  let s := (s.updCtx c (bank k) (fun x => x.returned)).drain c (bank k)
  let (s, r) := s.savedRegs c k
  let x := s.ctx c (bank k)
  let n := r.dom.length + 1
  let ctr := (s.core c).saveCounter
  let s := { s with frames := s.frames.filter (fun e => e.1 + 16384 ≤ base || base + 16384 * n ≤ e.1) }
  let s := { s with frames := (List.range n).foldl (fun l j => insert l (base + 16384 * j) (frameOf c k base ((s.core c).streamKey) ctr x r j)) s.frames }
  let s := s.updCore c (fun q => { q with saveCounter := q.saveCounter + BitVec.ofNat 64 n })
  s.updCtx c (bank k) (fun x => { x with
    regs := .clear, state := .saved, wait := none, pending := [], outstanding := [], outbox := [], undo := [], verifs := []
    restorable := false, restore := none, rolledBack := false, event := none, queue := [], sentOn := false, launch := none, safe := none })

/-- A context number and a frame address, or the trap of a bad one: an address outside DRAM and the vaults is an access fault,
which the spec does not say (DESIGN CHOICE; log 61). -/
def State.frameArgs (s : State) (i : Instr) (a b : Word) : Except Stop (CtxId × Nat) :=
  if a >>> 3 ≠ 0 then .error (.trap 0x01 i.baseWord)
  else
    let k : CtxId := ⟨(a.extractLsb' 0 3).toNat, (a.extractLsb' 0 3).isLt⟩
    let base := s.frameBase k b
    if base % 64 ≠ 0 then .error (.trap 0x05 b)
    else if homeOf base = .dram || homeOf base = .vault then .ok (k, base)
    else .error (.trap 0x06 b)

def execCtxsv (w : Pre) (a b : GReg) (s : State) : Out :=
  let i : Instr := .ctxsv w a b
  runInstr i w { srcs := [a, b], reads := a.refs ++ b.refs, priv := true }
    (fun vs s => do
      let (k, base) ← s.frameArgs i (v0 vs) (v1 vs)
      let c := s.turn.core
      let x := s.ctx c (bank k)
      if s.myCore.served = some k || !(x.halted || x.state = .held) then .error (.trap 0x01 i.baseWord)
      else if x.isDying || x.verifs ≠ [] || x.flagsOut || !x.storeBuf.all (s.leaves x) then blocked
      else .ok (s.saveCtx c k base)) s

/-! ### CTXLD (R220, R291) -/

/-- A frame sealed somewhere whose bytes stand at an address, copied there whole (R220, R275). -/
def State.copiedFrame (s : State) (a : Nat) : Option Frame :=
  (s.frames.find? (fun e => (List.range 16384).all (fun i => s.physByte none (a + i) = e.2.byte i))).map
    (fun e => { e.2 with overlaid := [] })

/-- The frame at an address: one saved there, or a whole copy of another. -/
def State.frameHere (s : State) (a : Nat) : Option Frame := (lookup s.frames a).or (s.copiedFrame a)

/-- No word of a frame is poisoned. -/
def State.frameClean (s : State) (a : Nat) : Bool := s.poison.all (fun u => u < a || a + 16384 ≤ u)

/-- The frames of one save at an address, levels rising; none where one is missing, is another core's or of another save, has
been written over, or was sealed under a key its domain's slot no longer holds (R220, R285, R290). -/
def State.framesAt (s : State) (c : CoreId) (base n : Nat) : Option (List Frame) :=
  (List.range n).mapM (fun j =>
    match s.frameHere (base + 16384 * j), s.frameHere base with
    | some f, some f0 =>
      if f.base = f0.base && f.counter = f0.counter + BitVec.ofNat 64 j && f.level = j && f.core = c && f.overlaid = [] &&
          f.key = (s.core c).streamKey f.tag && s.frameClean (base + 16384 * j) then some f
      else none
    | _, _ => none)

def State.eraseFrames (s : State) (base : Nat) : State := { s with frames := s.frames.filter (fun e => e.2.base ≠ base) }

/-- The activation of a save has been restored; its frames stay, and verify again as long as nothing changes them. -/
def State.restoredFrom (s : State) (base : Nat) : State :=
  let mark (e : Nat × Frame) : Nat × Frame := if e.2.base = base then (e.1, { e.2 with live := false }) else e
  { s with frames := s.frames.map mark }

/-- The context of an intact save: its saved state, halted until HREL. -/
def restored (fs : List Frame) (r : Regs) (inner : Frame) (old : Context) : Context :=
  { old with
    regs := { r with
      link := (fs.reverse.map (·.link)).flatten, loops := (fs.reverse.map (·.loops)).flatten
      dom := (fs.filterMap (·.entry)).reverse }
    state := inner.state, wait := inner.wait, halted := true, stopped := false, safe := none, pending := [], outstanding := []
    outbox := inner.outbox, undo := inner.undo, verifs := [], restorable := false, restore := none, rolledBack := false
    event := inner.event, queue := [], sentOn := false, launch := inner.launch }

/-- Registers of a context whose innermost frame is not read: those an unwind leaves, and free values for the CSRs that
only that frame holds (log 34). -/
def unreadRegs (fresh : Nat) (gov : BitVec 2 × BitVec 10) (mode : Bool) (f : Frame) : Regs :=
  { Regs.clear with
    frm := BitVec.ofNat 3 ((Config.freeWord fresh).toNat % 5), valw := BitVec.ofNat 3 ((Config.freeWord (fresh + 1)).toNat % 6)
    malw := BitVec.ofNat 3 ((Config.freeWord (fresh + 2)).toNat % 6), gwin := gov.1, gbud := gov.2
    instret := Config.freeWord (fresh + 3), bucket := (Config.freeWord (fresh + 4)).setWidth 16
    sh := Vector.ofFn (fun i : Fin 8 => Config.freeWord (fresh + 5 + i.val))
    mrow := zext (Config.freeWord (fresh + 13)) 32, mgst := Config.freeWord (fresh + 14), rplyMode := mode, region := f.region, chan := f.chan }

/-- The unwind of a save whose level `kill` runs under a domain with no key slot: levels below it are restored, the
entry that called it returns KILLED, the entries above go with their ORPHAN notices (R291). -/
def State.restoreUnwound (s : State) (c : CoreId) (k : CtxId) (fs : List Frame) (kill : Nat) : State :=
  let es := fs.filterMap (·.entry)
  let dead := (fs[kill]?.map (·.tag)).getD 0
  let popped := es.drop (kill - 1)
  let s := popped.foldl (fun s e =>
    let s := s.leaveGate e.callee e.gate.toNat
    if e.caller = dead then s.orphan c k e else s) s
  match es[kill - 1]?, fs[kill - 1]? with
  | some e, some f =>
    let low := fs.take kill
    let base := unreadRegs s.fresh (s.regionGov f.region) (s.partitions[s.partOf e.caller].replay) f
    let r : Regs := { base with
      link := (low.reverse.map (·.link)).flatten, loops := (low.reverse.map (·.loops)).flatten, dom := (es.take kill).reverse }
    let r := { ((r.popEntry e 1).setG e.sreg 2) with pc := e.retpc }
    { s.updCtx c (bank k) (fun x =>
        { restored low r f x with regs := r, state := .ready, wait := none, outbox := [], undo := [], event := none }) with fresh := s.fresh + 15 }
  | _, _ => s

/-- CTXLD into a DORMANT context. Every frame is read and verified first, and an armed injection there fires (R220, R221). -/
def State.loadCtx (s : State) (c : CoreId) (k : CtxId) (at0 : Nat) : State :=
  match s.frameHere at0 with
  | none => s.log (dieOf c) { kind := 0x0C, cls := 2, core := some c, ctx := k.val, addr := BitVec.ofNat 64 at0 }
  | some f0 =>
    let depth := f0.depth
    let s := s.readLines at0 (16384 * (depth + 1))
    let q := s.core c
    let bad (r : BitVec 32) : State :=
      ((s.eraseFrames at0).killFaultDomain r).log (dieOf c)
        { kind := 0x0C, cls := 2, core := some c, ctx := k.val, region := r, addr := BitVec.ofNat 64 at0 }
    let tags := (List.range (depth + 1)).map (fun j => (s.frameHere (at0 + 16384 * j)).map (·.tag))
    -- the lowest level whose domain has no loaded key slot
    let kill := tags.findIdx? (fun t => match t with | some t => !q.resident t | none => false)
    match s.framesAt c at0 (match kill with | some j => j | none => depth + 1) with
    | none => bad f0.region
    | some fs =>
      match kill with
      | some 0 => s.dropFrames (fun f => f.base = f0.base)
      | some j =>
        let all := (List.range (depth + 1)).filterMap (fun j => s.frameHere (at0 + 16384 * j))
        (s.restoredFrom f0.base).restoreUnwound c k all j
      | none =>
        match fs.getLast? with
        | some inner =>
          match inner.regs with
          | some r => (s.restoredFrom f0.base).updCtx c (bank k) (restored fs r inner)
          | none => bad f0.region
        | none => bad f0.region

def execCtxld (w : Pre) (a b : GReg) (s : State) : Out :=
  let i : Instr := .ctxld w a b
  runInstr i w { srcs := [a, b], reads := a.refs ++ b.refs, priv := true }
    (fun vs s => do
      let (k, base) ← s.frameArgs i (v0 vs) (v1 vs)
      let x := s.ctx s.turn.core (bank k)
      if s.myCore.served = some k || x.state ≠ .dormant then .error (.trap 0x01 i.baseWord)
      else .ok (s.loadCtx s.turn.core k base)) s

end Sys2Proof.Machine
end

