-- ==== Sys2Proof/Machine/Arrive.lean ====
section
/-!
DEFINITION. Messages on arrival, refusals, starting and ending activations, tasks and theft, and what leaves or returns
to a core (R19 to R28, R46, R86, R176, R178, R181, R185 to R187, R241, R259, R260, R265 to R267, R279, R280, R286).
-/

namespace Sys2Proof.Machine

/-! ### Starting (R16, R23) -/

/-- A record as an item: channel 61, three slots of arguments, the core whose deque held it (R27). -/
def recordItem (holder : CoreId) (t : Tag) (r : TaskRec) : Item :=
  { msg := { dest := (BitVec.ofNat 13 holder.val : BitVec 13) ++ (61 : BitVec 6)
             header := mkHeader 61 holder 3 t ||| atB true 23
             payload := r.slots.toList, region := r.region, origin := .core }
    accepted := r.pushed }

/-- The launch share an item belongs to. -/
def State.shareOf (s : State) (m : Message) : Option (DieId × Nat × LaunchShare) :=
  match m.origin with
  | .stage d i => (lookup s.dies[d].shares i).map (fun h => (d, i, h))
  | _ => none

/-- Where an item starts: a task's handler stands in its slot 0, a launch's in its bucket (R27, R185, R259). -/
def State.startPc (s : State) (e : Word) (m : Message) : Word :=
  if m.isTask && !m.isRefusal then zext (m.payload.headD 0) 32
  else match m.isLaunch && !m.isRefusal, s.shareOf m with
  | true, some (_, _, h) => h.handler.setWidth 64
  | _, _ => entryHandler e

/-- The registers an activation starts with (R23). -/
def State.startRegs (s : State) (e : Word) (m : Message) : Regs :=
  let task := m.isTask && !m.isRefusal
  let gov := s.regionGov m.region
  let r := (Regs.clear.setPayload (if task then m.payload.drop 1 else m.payload)).setG 17 m.header
  let launch := if m.isLaunch && !m.isRefusal then (s.shareOf m).map (·.2.2) else none
  { r with
    chan := m.header.setWidth 6, region := m.region, gwin := gov.1, gbud := gov.2, tag := entryTag e
    pc := s.startPc e m, rplyMode := s.partitions[s.partOf (entryTag e)].replay
    sh := match launch with | some h => h.shapes | none => .replicate 8 0
    bucket := match launch with | some h => h.bucket | none => 0 }

/-- Starts an item on a DORMANT context; its region's blocks are read (R23, R221, R302). -/
def State.startItem (s : State) (c : CoreId) (k : CtxId) (i : Item) : State :=
  let m := i.msg
  let s := s.readRegion m.region
  let t := m.tag
  let e := s.entry c t (m.header.setWidth 6)
  let r := s.startRegs e m
  (s.unpend c m).updCtx c (bank k) (fun x => { x with
    regs := r, state := .ready, wait := none, halted := false, stopped := false, safe := none, pending := [], outstanding := []
    outbox := [], undo := [], verifs := [], restorable := true, restore := some { regs := r, item := some i, atStart := true }
    rolledBack := hdrBit m 51, event := none, queue := [], sentOn := false
    launch := (s.shareOf m).map (fun h => (h.1, h.2.1)) })

/-- An activation of a channel is running, held or saved on the core, or stores of an ended one have still to perform, which
the next one acquires (R22, R254). -/
def State.serialBusy (s : State) (c : CoreId) (t : Tag) (ch : BitVec 6) : Bool :=
  (List.finRange 8).any (fun k =>
    let x := s.ctx c (bank k)
    x.state ≠ .dormant && x.state ≠ .saved && x.regs.chan = ch && x.regs.outerTag = t) ||
  s.frames.any (fun f => f.2.live && f.2.core = c && f.2.level = 0 && f.2.tag = t && f.2.chan = ch) ||
  (List.finRange 8).any (fun k => (s.ctx c (bank k)).storeBuf.any (fun st => st.outer = t && st.chan = ch))

/-- The lowest-numbered DORMANT context (R266). A context that M mode serves, or is still to serve, stays as the event left
it until then (R213, R216). -/
def Core.freeCtx (q : Core) : Option CtxId :=
  (List.finRange 8).find? (fun k =>
    q.ctxs[bank k].state = .dormant && q.served ≠ some k && !q.mqueue.any (fun e => !e.core && e.ctx = k))

/-- Nothing bars starts on the core, its cluster is powered, it has made none in this clock, and the domain's partition is in RUN
(R217, R266, R267, R273, R292, R351). -/
def State.mayStart (s : State) (c : CoreId) (t : Tag) : Bool :=
  !(s.core c).startsBarred && !(s.cluster (clusterOf c)).gated && !(s.cluster (clusterOf c)).waking && (s.core c).startClock ≠ some s.clock && s.partitions[s.partOf t].state = .run && !s.killedTag t

/-- Records the channel of a start at its priority, and its clock (R266). -/
def Core.started (q : Core) (prio n now : Nat) : Core :=
  { q with lastStart := q.lastStart.setIfInBounds prio (some n), startClock := some now }

/-- The charged region is LIVE and not exhausted (R264, R265). -/
def State.regionStarts (s : State) (r : BitVec 32) : Bool := s.regionLive r && !s.exhausted r

/-! ### Priority (R265) -/

/-- What a core may start. -/
inductive Pick where
  | item (i : Item)
  | record (r : TaskRec)
  | theft
  deriving DecidableEq, Repr

/-- The priority of a pick: the lower of its own and its region's, aged by one level per 4,096 clocks. -/
def State.pickPrio (s : State) (e : Word) (p : Pick) : Nat :=
  let aged (base since : Nat) : Nat := min 7 (base + (s.clock - since) / 4096)
  match p with
  | .theft => entryPrio e
  | .record r => aged (min (fld r.slots[0] 32 3) (s.regionPrio r.region)) r.pushed
  | .item i =>
    let m := i.msg
    let own := if m.isTask && !m.isRefusal then fld (m.payload.headD 0) 32 3
      else match m.isLaunch && !m.isRefusal, s.shareOf m with
      | true, some (_, _, h) => h.prio
      | _, _ => entryPrio e
    aged (min own (s.regionPrio m.region)) i.accepted

/-! ### Arrival (R20) -/

/-- Items that wait for a channel under its quota, which doorbells, redelivered items and refusals do not count against
(R181, R184, R305). -/
def Core.waiting (q : Core) (t : Tag) (ch : BitVec 6) : Nat :=
  (q.inbox.filter (fun i =>
    i.msg.chan = ch && i.msg.tag = t && !i.msg.isDoorbell && !i.msg.isRefusal && !hdrBit i.msg 51)).length

def Core.inboxUsed (q : Core) : Nat := (q.inbox.map (fun i => i.msg.room)).sum

/-- A refused message goes back; a monitor notice is discarded (R21, R181). -/
def State.refuseMsg (s : State) (credit : Option CoreId) (m : Message) (perm : Bool) : State :=
  if m.isNotice then s.credit credit else s.sendBack credit m perm

def State.enqueue (s : State) (c : CoreId) (m : Message) : State :=
  s.updCore c (fun q => { q with inbox := q.inbox ++ [{ msg := m, accepted := s.clock }] })

/-- The answer of a supervisor: a message of channel 63 and kind 0x10 or 0x11 (R212). -/
def Message.isAnswer (m : Message) : Bool :=
  m.chan = 63 && !m.isNotice && !m.isRefusal && (fld (m.payload.headD 0) 0 8 = 0x10 || fld (m.payload.headD 0) 0 8 = 0x11)

/-- A record passes the test of R186. -/
def recordOk (x : Word) : Bool := x >>> 35 = 0 && fld x 0 32 ≠ 0 && !bit x 0

/-- The slot that holds a tag at a core opens what a stream key sealed (R285). -/
def State.opens (s : State) (c : CoreId) (t : Tag) (key : Option (BitVec 256)) : Bool :=
  match key, s.sealKey c t with
  | some k, some k' => k = k'
  | _, _ => true

/-- What fails authentication is discarded and recorded (R285). -/
def State.notOpened (s : State) (c : CoreId) (t : Tag) (header : Word) : State :=
  s.log (dieOf c) { kind := 0x0F, cls := 6, core := some c, tag := t, part := some (s.partOf t), data := header }

/-- The receiving core judges a message (R20, R34, R181, R182, R185, R279, R280, R285, R292). -/
def State.arrive' (s : State) (credit : Option CoreId) (m : Message) : State :=
  let c := m.core
  let q := s.core c
  let t := m.tag
  let e := s.entry c t m.chan
  let ok (s : State) : State := s.credit credit
  if q.retired || !q.resident t || s.killedTag t || s.partitions[s.partOf t].state ≠ .run || !s.regionLive m.region then
    s.refuseMsg credit m true
  else if !s.opens c t m.key then ok (s.notOpened c t m.header)
  else if m.isAnswer then
    let k : CtxId := ⟨((m.payload.headD 0).extractLsb' 8 3).toNat, ((m.payload.headD 0).extractLsb' 8 3).isLt⟩
    ok (s.queueEntry c { cause := 0x21, ctx := k, core := true, epc := (s.ctx c (bank k)).regs.pc, val := m.payload.headD 0, answer := some m })
  else if m.isTask && !recordOk (m.payload.headD 0) then s.refuseMsg credit m true
  else if t ≠ q.installed then
    if !(q.dom c t).shadow || entryHandler e = 0 then s.refuseMsg credit m true
    else if q.waiting t m.chan < entryQuota e && q.inboxUsed + m.room ≤ 7648 then ok (s.enqueue c m)
    else s.refuseMsg credit m false
  else match s.deliver c m with
  | some s => ok s
  | none =>
    if entryHandler e = 0 || entryTag e ≠ t then s.refuseMsg credit m true else
    let idle := !(q.inbox.any (fun i => i.msg.chan = m.chan && i.msg.tag = t))
    let free := entryEn e && s.mayStart c t && s.regionStarts m.region && idle && !(entrySerial e && s.serialBusy c t m.chan)
    match free, q.freeCtx with
    | true, some k =>
      let i : Item := { msg := m, accepted := s.clock }
      ((ok s).updCore c (fun q => q.started (s.pickPrio e (.item i)) m.chan.toNat s.clock)).startItem c k i
    | _, _ =>
      if q.waiting t m.chan < entryQuota e && q.inboxUsed + m.room ≤ 7648 then ok (s.enqueue c m)
      else s.refuseMsg credit m false

/-- Removes the flight at a place. -/
def State.landed (s : State) (i : Nat) : State := { s with net := s.net.eraseIdx i }

/-- No earlier message of the sender to the channel is still in flight (R22). -/
def State.inOrder (s : State) (i : Nat) (m : Message) : Bool :=
  (s.net.take i).all (fun f => match f with
    | .message _ o => !(o.dest = m.dest && o.sender = m.sender)
    | _ => true)

/-- The flight at a place, where cores are out of reset (R335). -/
def State.flight (s : State) (i : Nat) : Option Flight := if s.powered then s.net[i]? else none

/-- A message reaches its core; one for a gated cluster wakes it and waits (R351). -/
def execMessageArrival (i : Nat) (s : State) : Out :=
  .next (match s.flight i with
    | some (.message cr m) =>
      s.whenAwake (clusterOf m.core) (fun s => if s.inOrder i m then (s.landed i).arrive' cr m else s)
    | _ => s)

/-! ### Refusals (R160, R181, R238, R260) -/

/-- A refusal placed in its sender's inbox, or held while the inbox has no room for it. -/
def State.placeRefusal (s : State) (c : CoreId) (credit : Option CoreId) (m : Message) : Option State :=
  if s.killedTag m.tag || !s.regionLive m.region then some (s.credit credit)
  else if !s.opens c m.tag m.key then some ((s.credit credit).notOpened c m.tag m.header)
  else match s.deliver c m with
  | some s => some (s.credit credit)
  | none => if (s.core c).inboxUsed + m.room ≤ 8192 then some ((s.enqueue c m).credit credit) else none

/-- The unrefused form of a refused message, as its sender sent it. -/
def Message.original (m : Message) : Message :=
  let ch : BitVec 6 := m.header.extractLsb' 25 6
  let h := setFld (setFld (setFld (setFld (setFld m.header 0 6 ch.toNat) 6 13 m.core.val) 24 1 0) 25 6 0) 31 1 0
  { m with dest := (BitVec.ofNat 13 m.sender.val : BitVec 13) ++ ch, header := h }

/-- A launch message that came back: counted as ended where PERM = 1, else held for another try (R260). -/
def State.launchRefused (s : State) (d : DieId) (i : Nat) (m : Message) : State :=
  match lookup s.dies[d].shares i with
  | none => s
  | some h =>
    if bit m.header 31 then
      (s.launchEnded (some (d, i))).log d
        { kind := 0x12, cls := 6, core := some m.sender, tag := m.tag, part := some (s.partOf m.tag), region := m.region
          data := at' h.seq.toNat 0 ||| at' h.queue.val 32 }
    else s.updDie d (fun x => { x with shares := insert x.shares i { h with held := h.held ++ [(s.clock + 256, m.original)] } })

/-- What a refusal does where it arrives. What the hardware holds it tries again every 256 clocks (R114, R160, R181, R238,
R260). -/
def State.refused (s : State) (cr : Option CoreId) (m : Message) : State :=
  let again := s.clock + 256
  match m.origin with
  | .core =>
    match s.placeRefusal m.core cr m with
    | some s => s
    | none => s.updCore m.core (fun q => { q with refusals := q.refusals ++ [{ credit := cr, msg := m, again := again }] })
  | .engine t _ => s.updTroupe t (fun x => { x with completions := x.completions ++ [(again, m.original)] })
  | .walker t copy =>
    let un (f : Option JobFault) : Option JobFault := f.map (fun y => { y with noticed := false, again := again })
    s.updTroupe t (fun x =>
      if copy then { x with copies := x.copies.map (fun e => { e with fault := un e.fault }) }
      else { x with mat := x.mat.map (fun e => { e with fault := un e.fault }) })
  | .fpNotice c k =>
    let un (v : Option FpEvent) : Option FpEvent := v.map (fun y => { y with sent := false, again := again })
    let mark (e : Nat × Frame) : Nat × Frame :=
      if e.2.core = c && e.2.ctx = k then (e.1, { e.2 with event := un e.2.event }) else e
    let s := { s with frames := s.frames.map mark }
    s.updCtx c (bank k) (fun x => { x with event := un x.event })
  | .stage d n => s.launchRefused d n m
  | .hostCopy n =>
    let un (j : HostCopy) : HostCopy := if j.num = n then { j with fault := { j.fault with noticed := false, again := again } } else j
    s.updHost (fun h => { h with copies := h.copies.map un })
  | .monitor => s

/-- The cluster a refusal goes to; none where the stage manager or the monitor sent the message. -/
def Message.refusedTo (m : Message) : Option ClusterId :=
  match m.origin with
  | .stage .. | .hostCopy _ | .monitor => none
  | _ => some (clusterOf m.core)

/-- A refusal reaches what sent the message; one for a gated cluster wakes it and waits (R351). -/
def execRefusalArrival (i : Nat) (s : State) : Out :=
  .next (match s.flight i with
    | some (.refusal cr m) =>
      match m.refusedTo with
      | some c => s.whenAwake c (fun s => (s.landed i).refused cr m)
      | none => (s.landed i).refused cr m
    | _ => s)

/-- The oldest held refusal whose time has come is tried again (R181). -/
def execRefusalRetry (core : CoreId) (s : State) : Out :=
  .next (
    let l := (s.core core).refusals
    let i := l.findIdx (fun h => h.again ≤ s.clock)
    match l[i]? with
    | some h => s.whenAwake (clusterOf core) (fun s =>
      match s.placeRefusal core h.credit h.msg with
      | some s => s.updCore core (fun q => { q with refusals := l.eraseIdx i })
      | none => s.updCore core (fun q => { q with refusals := l.set i { h with again := s.clock + 256 } }))
    | none => s)

/-! ### Choosing what starts (R265 to R267) -/

/-- The oldest item of a channel of the installed domain, or what channel 61 draws on (R267). An item goes to a WFM blocked
on the channel before it can start an activation (R182). -/
def State.candidate (s : State) (c : CoreId) (ch : BitVec 6) : Option Pick :=
  let q := s.core c
  let t := q.installed
  let waiting := if (s.wfms c t ch).isEmpty then q.inbox.find? (fun i => i.msg.chan = ch && i.msg.tag = t) else none
  let due : Bool := match q.lastTheft with | some n => n + 16 ≤ s.clock | none => true
  if ch = 61 then
    match (q.dom c t).deque, waiting with
    | r :: _, _ => some (.record r)
    | [], some i => some (.item i)
    | [], none => if due then some .theft else none
  else waiting.map .item

/-- The region test of R265; a theft is tested at the victim. -/
def State.pickStarts (s : State) (p : Pick) : Bool :=
  match p with
  | .item i => s.regionStarts i.msg.region
  | .record r => s.regionStarts r.region
  | .theft => true

/-- The eligible channels of a core with their picks and priorities. -/
def State.eligible (s : State) (c : CoreId) : List (Nat × Pick × Nat) :=
  let t := (s.core c).installed
  (List.range 64).filterMap (fun n =>
    let ch : BitVec 6 := BitVec.ofNat 6 n
    let e := s.entry c t ch
    if entryHandler e ≠ 0 && entryEn e && !(entrySerial e && s.serialBusy c t ch) then
      match s.candidate c ch with
      | some p => if s.pickStarts p then some (n, p, s.pickPrio e p) else none
      | none => none
    else none)

/-- The pick of highest priority; among channels at it the lowest above the last started there, wrapping (R266). -/
def State.choose (s : State) (c : CoreId) : Option (Nat × Pick × Nat) :=
  let l := s.eligible c
  let top := (l.map (·.2.2)).foldl max 0
  let at0 := l.filter (fun e => e.2.2 = top)
  match (s.core c).lastStart[top]?.join with
  | some last => (at0.find? (fun e => last < e.1)).orElse (fun _ => at0.head?)
  | none => at0.head?

/-- The core starts what it chooses, on its lowest-numbered DORMANT context. -/
def execActivationStart (core : CoreId) (s : State) : Out :=
  .next (
    let t := (s.core core).installed
    if !s.mayStart core t then s
    else match (s.core core).freeCtx, s.choose core with
    | some k, some (n, .item i, prio) =>
      let same (x : Item) : Bool := x.msg.chan = i.msg.chan && x.msg.tag = t
      (s.updCore core (fun q => Core.started { q with inbox := dropFirst same q.inbox } prio n s.clock)).startItem core k i
    | some k, some (n, .record r, prio) =>
      ((s.updDom core t (fun d => { d with deque := d.deque.drop 1 })).updCore core (fun q => q.started prio n s.clock)).startItem core k
        (recordItem core t r)
    | _, _ => s)

/-! ### Theft (R28, R267) -/

/-- The direction of the next attempt: the first present port after the last one tried. -/
def State.theftPort (s : State) (c : CoreId) : Option Port :=
  let p := (s.core c).lastSteal
  [p.next, p.next.next, p.next.next.next, p].find? (fun d => (s.neighbour c d).isSome)

/-- The owner pops a record of its own in this clock. -/
def State.ownerPops (s : State) (v : CoreId) : Bool :=
  match (s.core v).freeCtx, s.choose v with
  | some _, some (_, .record _, _) => s.mayStart v (s.core v).installed
  | _, _ => false

/-- What a victim gives: its oldest record, under the same domain, of a region that is LIVE and not exhausted. The last
record is the owner's where it pops it in the same clock (R28). -/
def State.victimGives (s : State) (t : Tag) (v : CoreId) : Option TaskRec :=
  let q := s.core v
  if q.installed = t && entryTag (s.entry v t 61) = t && !((q.dom v t).deque.length = 1 && s.ownerPops v) then
    match (q.dom v t).deque.getLast? with
    | some r => if s.regionStarts r.region then some r else none
    | none => none
  else none

/-- A theft that gives none leaves the core without another start in this clock (R267). -/
def execTheftAttempt (core : CoreId) (s : State) : Out :=
  .next (
    let t := (s.core core).installed
    if !s.mayStart core t then s
    else match (s.core core).freeCtx, s.choose core, s.theftPort core with
    | some k, some (n, .theft, prio), some p =>
      let s := s.updCore core (fun q => { q with lastSteal := p, lastTheft := some s.clock, startClock := some s.clock })
      match s.neighbour core p with
      | some v =>
        match s.victimGives t v with
        | some r =>
          ((s.updDom v t (fun d => { d with deque := d.deque.dropLast })).updCore core (fun q => q.started prio n s.clock)).startItem core k
            (recordItem v t r)
        | none => s
      | none => s
    | _, _, _ => s)

/-! ### Ending, results, stores, verifications (R25, R46, R86, R241) -/

/-- An END completes once its outbox has left, its verifications have resolved, and the activation's results have returned; M mode
has served the context first (R213). A kill that waits for a busy tile, once its stores have performed. -/
def execActivationEnd (core : CoreId) (ctx : CtxId) (s : State) : Out :=
  .next (
    let x := s.ctx core (bank ctx)
    if x.isDying then s.endKilled core ctx
    else if x.state = .blocked && x.wait = some .ending && x.outstanding = [] && x.outbox = [] && x.verifs = [] &&
        x.event.isNone && (s.core core).served ≠ some ctx then
      (s.launchEnded x.launch).updCtx core (bank ctx) Context.ended
    else s)

/-- Every entry accepted before an MLSF that names its tile has completed (R171). -/
def Troupe.flagsReady (t : Troupe) (q : FlagRead) : Bool := !t.mat.any (fun e => e.order < q.order && e.work.names q.tile.val)

/-- The flags of a row group, as MLSF returns them (R171). -/
def Troupe.flagRow (t : Troupe) (q : FlagRead) : BitVec 512 := t.flags[q.tile].extractLsb' (512 * q.rg) 512

/-- The register an MLSF sets. -/
def Regs.setFlagRow (r : Regs) (t : Troupe) (q : Option FlagRead) : Regs :=
  match q with
  | some q => r.setV q.d (t.flagRow q)
  | none => r

/-- The oldest outstanding result returns; a PARKED context whose last one it was is READY. -/
def execLongResultReturn (core : CoreId) (ctx : BankId) (s : State) : Out :=
  .next (
    let t := s.troupe (troupeOf core)
    match (s.ctx core ctx).outstanding with
    | o :: rest =>
      if o.flags.all t.flagsReady then
        s.updCtx core ctx (fun x => { x with
          outstanding := rest, regs := { x.regs.setFlagRow t o.flags with lsf := x.regs.lsf ||| o.lsf }
          state := if rest = [] && x.state = .parked then .ready else x.state })
      else s
    | [] => s)

def execStoreBufferDrain (core : CoreId) (ctx : BankId) (i : Nat) (s : State) : Out :=
  .next (
    let x := s.ctx core ctx
    match x.storeBuf[i]? with
    | some st =>
      if s.leaves x st && mayPass st (x.storeBuf.take i) then
        (s.updCtx core ctx (fun x => { x with storeBuf := x.storeBuf.eraseIdx i })).perform st
      else s
    | none => s)

/-- The oldest pending verification resolves; a failure is an integrity violation. -/
def execVerificationResolve (core : CoreId) (ctx : CtxId) (s : State) : Out :=
  .next (
    match (s.ctx core (bank ctx)).verifs with
    | v :: rest =>
      let s := s.updCtx core (bank ctx) (fun x => Context.endCommitted { x with verifs := rest })
      if v.ok then s else s.ctxIntegrity core ctx v.line v.injected
    | [] => s)

/-! ### The outbox and the stream counter (R176, R178, R186, R286) -/

/-- The context waits in a commit point that may send: its verifications have resolved. -/
def Context.committing (x : Context) : Bool :=
  x.state = .blocked && (x.wait = some (.reissue true) || x.wait = some .ending) && x.verifs = [] && !x.halted && !x.stopped

/-- The oldest entry of a committing context leaves. -/
def execOutboxSend (core : CoreId) (ctx : CtxId) (s : State) : Out :=
  .next (
    let x := s.ctx core (bank ctx)
    match x.outbox with
    | e :: rest =>
      if x.committing && x.storeBuf.all (fun st => e.after ≤ st.seq) && !(s.core core).streamHalted e.tag && 0 < (s.core core).credits then
        (s.updCtx core (bank ctx) (fun x => Context.endCommitted { x with outbox := rest })).sendEntry core e
      else s
    | [] => s)

/-- A slot that has sealed 2^32 messages halts its stream. -/
def execStreamHalt (core : CoreId) (slot : Fin 64) (s : State) : Out :=
  .next (
    let k := (s.core core).keys[slot]
    if k.loaded && !k.halted && 2 ^ 32 ≤ k.used then
      (s.updCore core (fun q => { q with keys := q.keys.set slot { k with halted := true } })).log (dieOf core)
        { kind := 0x10, cls := 6, core := some core, tag := k.tag, part := some (s.partOf k.tag), detail := slot.val }
    else s)

/-- The home core's step of R186. -/
def State.decHome (s : State) (src : CoreId) (e : OutEntry) (home : CoreId) (off : Nat) : State :=
  let bs := (s.core home).scratch.readN off 64
  let w := slotsOf bs 8
  let n := w.getD 0 0 - 1
  let s := s.updCore home (fun q => { q with scratch := q.scratch.writeL off (leBytes 8 n.toNat) })
  if n ≠ 0 then s
  else if !recordOk (w.getD 1 0) then
    s.log (dieOf home) { kind := 0x0A, cls := 6, core := some home, tag := e.tag, part := some (s.partOf e.tag), region := e.region
                         addr := BitVec.ofNat 64 (clusterBase + coreN home * 0x20000 + off) }
  else s.pushTask home e.tag (Vector.ofFn (fun k : Fin 4 => w.getD (k.val + 1) 0)) e.region src

/-- A decrement reaches its home core; one for a gated cluster wakes it and waits (R186, R351). -/
def execTdecHome (i : Nat) (s : State) : Out :=
  .next (match s.flight i with
    | some (.dec src e key) =>
      match e.body with
      | .dec home off => s.whenAwake (clusterOf home) (fun s =>
        let s := (s.landed i).credit (some src)
        if s.opens home e.tag key then s.decHome src e home off else s.notOpened home e.tag 0)
      | _ => s.landed i
    | _ => s)

end Sys2Proof.Machine
end

