-- ==== Sys2Proof/Machine/Digest.lean ====
section
/-!
DEFINITION. SHA-256 (FIPS 180-4), by which the device measures (R293, R314), and CRC-32C, by which it checks copies
(R326).
-/

namespace Sys2Proof.Machine

/-! ### SHA-256 -/

def shaK : List (BitVec 32) :=
  [0x428A2F98, 0x71374491, 0xB5C0FBCF, 0xE9B5DBA5, 0x3956C25B, 0x59F111F1, 0x923F82A4, 0xAB1C5ED5] ++
  [0xD807AA98, 0x12835B01, 0x243185BE, 0x550C7DC3, 0x72BE5D74, 0x80DEB1FE, 0x9BDC06A7, 0xC19BF174] ++
  [0xE49B69C1, 0xEFBE4786, 0x0FC19DC6, 0x240CA1CC, 0x2DE92C6F, 0x4A7484AA, 0x5CB0A9DC, 0x76F988DA] ++
  [0x983E5152, 0xA831C66D, 0xB00327C8, 0xBF597FC7, 0xC6E00BF3, 0xD5A79147, 0x06CA6351, 0x14292967] ++
  [0x27B70A85, 0x2E1B2138, 0x4D2C6DFC, 0x53380D13, 0x650A7354, 0x766A0ABB, 0x81C2C92E, 0x92722C85] ++
  [0xA2BFE8A1, 0xA81A664B, 0xC24B8B70, 0xC76C51A3, 0xD192E819, 0xD6990624, 0xF40E3585, 0x106AA070] ++
  [0x19A4C116, 0x1E376C08, 0x2748774C, 0x34B0BCB5, 0x391C0CB3, 0x4ED8AA4A, 0x5B9CCA4F, 0x682E6FF3] ++
  [0x748F82EE, 0x78A5636F, 0x84C87814, 0x8CC70208, 0x90BEFFFA, 0xA4506CEB, 0xBEF9A3F7, 0xC67178F2]

def shaInit : List (BitVec 32) :=
  [0x6A09E667, 0xBB67AE85, 0x3C6EF372, 0xA54FF53A, 0x510E527F, 0x9B05688C, 0x1F83D9AB, 0x5BE0CD19]

def ror32 (x : BitVec 32) (n : Nat) : BitVec 32 := x.rotateRight n

/-- The message schedule of a block, newest word first. -/
def shaExpand : Nat → List (BitVec 32) → List (BitVec 32)
  | 0, ws => ws
  | n + 1, ws =>
    let a := ws.getD 1 0
    let b := ws.getD 14 0
    let s0 := ror32 b 7 ^^^ ror32 b 18 ^^^ (b >>> 3)
    let s1 := ror32 a 17 ^^^ ror32 a 19 ^^^ (a >>> 10)
    shaExpand n ((s1 + ws.getD 6 0 + s0 + ws.getD 15 0) :: ws)

/-- One round over the eight working words. -/
def shaRound (v : List (BitVec 32)) (kw : BitVec 32) : List (BitVec 32) :=
  match v with
  | [a, b, c, d, e, f, g, h] =>
    let t1 := h + (ror32 e 6 ^^^ ror32 e 11 ^^^ ror32 e 25) + ((e &&& f) ^^^ (~~~e &&& g)) + kw
    let t2 := (ror32 a 2 ^^^ ror32 a 13 ^^^ ror32 a 22) + ((a &&& b) ^^^ (a &&& c) ^^^ (b &&& c))
    [t1 + t2, a, b, c, d + t1, e, f, g]
  | v => v

/-- A big-endian 32-bit word. -/
def beWord (bs : List Byte) : BitVec 32 := BitVec.ofNat 32 (bs.foldl (fun n b => 256 * n + b.toNat) 0)

def shaBlock (h : List (BitVec 32)) (block : List Byte) : List (BitVec 32) :=
  let ws := (List.range 16).map (fun i => beWord ((block.drop (4 * i)).take 4))
  let all := (shaExpand 48 ws.reverse).reverse
  let v := (List.zipWith (· + ·) shaK all).foldl shaRound h
  List.zipWith (· + ·) h v

/-- The message with its padding: a one bit, zeros, the length in bits. -/
def shaPad (bs : List Byte) : List Byte :=
  let n := bs.length
  bs ++ [0x80#8] ++ List.replicate ((119 - n % 64) % 64) 0 ++ (leBytes 8 (8 * n)).reverse

/-- The digest as 32 bytes. -/
def sha256 (bs : List Byte) : List Byte :=
  let m := shaPad bs
  let h := (List.range (m.length / 64)).foldl (fun h i => shaBlock h ((m.drop (64 * i)).take 64)) shaInit
  (h.map (fun w => (leBytes 4 w.toNat).reverse)).flatten

/-- 32 bytes as they stand in a register, the first lowest. -/
def reg256 (bs : List Byte) : BitVec 256 := BitVec.ofNat 256 (leNat bs)
def bytes256 (x : BitVec 256) : List Byte := leBytes 32 x.toNat

/-- Extending a measurement register (R293). -/
def extend (m digest : BitVec 256) : BitVec 256 := reg256 (sha256 (bytes256 m ++ bytes256 digest))

/-! ### CRC-32C -/

def crcBit (c : BitVec 32) : BitVec 32 := if c.getLsbD 0 then (c >>> 1) ^^^ 0x82F63B78 else c >>> 1

def crcByte (c : BitVec 32) (b : Byte) : BitVec 32 := (List.range 8).foldl (fun c _ => crcBit c) (c ^^^ b.setWidth 32)

/-- The CRC-32C of bytes. -/
def crc32c (bs : List Byte) : BitVec 32 := ~~~(bs.foldl crcByte 0xFFFFFFFF)

end Sys2Proof.Machine
end

