-- ==== Sys2Proof/Machine/HostPort.lean ====
section
/-!
DEFINITION. Addresses a command, a queue register or a posting target names, completion queues and signals (R210, R318,
R321, R328).
-/

namespace Sys2Proof.Machine

/-! ### Addresses (R318) -/

/-- The function of a partition. -/
def funcOf (p : PartId) : FuncId := ⟨p.val + 1, by omega⟩
/-- The partition of a function; none for the physical function. -/
def partOfFunc (f : FuncId) : Option PartId := if h : 1 ≤ f.val then some ⟨f.val - 1, by omega⟩ else none

/-- A window grants every byte of [a, a + n). -/
def Window.covers (w : Window) (a n : Nat) (kind : Kind) (tag : Tag) : Bool :=
  n = 0 || (w.grants a false kind tag && w.grants (a + n - 1) false kind tag)

/-- The domains of a partition that are not killed. -/
def State.domainsOf (s : State) (p : PartId) : List Tag :=
  (s.domains.filter (fun e => e.2.part = p && !e.2.killed)).map (fun e => BitVec.ofNat 16 e.1)

/-- The windows of a domain: its plan, and those installed on any core (R281, R293; log 29). -/
def State.windowsOf (s : State) (t : Tag) : List Window :=
  (match s.domain? t with | some d => d.plan | none => []) ++
    (s.cores.map (fun e => e.2.windows.toList.filter (fun w => w.v && w.dtag = t))).flatten

/-- Every 64-byte granule of the bytes is granted to some domain of the partition; the cluster translation blocks are granted to
every domain (R282, R318). -/
def State.partGrants (s : State) (p : PartId) (a n : Nat) (kind : Kind) : Bool :=
  (unitsOf a n).all (fun u =>
    let b := max u a
    !inMonitorRange b && (s.domainsOf p).any (fun t =>
      ((blockOf b).isSome && (kind = .load || kind = .store)) || (s.windowsOf t).any (fun w => w.grants b false kind t)))

/-- Host physical memory behind an I/O virtual address of a function: address and page mapping agree (log 30). -/
def hostPa (addr : Word) (n : Nat) : Option Nat :=
  let a := fld addr 0 63
  if a + n ≤ 2 ^ 51 then some (0x8000000000000 + a) else none

/-- The scrub status of a partition holds the bytes: its virtual function reads it (R295). -/
def scrubBlock (p : PartId) (a n : Nat) : Bool := 0x20100000000 + 0x40 * p.val ≤ a && a + n ≤ 0x20100000040 + 0x40 * p.val

/-- The physical address of n bytes that a function names; none where the access fails. A device address may be any that
R222 assigns (R318). -/
def State.extPa (s : State) (fn : FuncId) (addr : Word) (n : Nat) (kind : Kind) : Option Nat :=
  if bit addr 63 then hostPa addr n
  else
    let a := addr.toNat
    let device := homeOf a = .dram || homeOf a = .vault || homeOf a = .dev
    if device && homeOf (a + n - 1) = homeOf a then
      match partOfFunc fn with
      | none => some a
      | some p => if s.partGrants p a n kind || (kind = .load && scrubBlock p a n) then some a else none
    else none

/-- The bytes at a physical address as a function reads them: memory, or registers. -/
def State.extBytes (s : State) (fn : FuncId) (pa n : Nat) : List Byte :=
  if homeOf pa = .dev then
    (((unitsOf pa n).map (fun u => s.readDevice (.host fn) u 8)).flatten.drop (pa % 8)).take n
  else s.readPlace (.phys pa) none n

/-- A read fails too where a word is poisoned (R300, R318). -/
def State.extRead (s : State) (fn : FuncId) (addr : Word) (n : Nat) : Option (List Byte) :=
  (s.extPa fn addr n .load).bind (fun pa => if (poisonedIn s.poison pa n).isSome then none else some (s.extBytes fn pa n))

/-- A read of n bytes that a function names fires an armed injection first, and wakes a gated cluster whose block it names (R221,
R351; log 129). -/
def State.extArm (s : State) (fn : FuncId) (addr : Word) (n : Nat) : State :=
  match s.extPa fn addr n .load with
  | some pa =>
    let s := match blockOf pa with | some c => s.wakeCluster c | none => s
    (s.inject pa n).1
  | none => s

/-- A function's write of a cluster's block. One to a gated or waking cluster is held until its supply has settled (R237, R351). -/
def State.blockStore (s : State) (fn : FuncId) (c : ClusterId) (off : Nat) (w : Word) : State :=
  if (s.cluster c).gated || (s.cluster c).waking then
    (s.wakeCluster c).updCluster c (fun x => { x with held := x.held ++ [(fn, off, w)] })
  else s.updCluster c (fun x => x.blockWrite (s.blockAgent (.host fn)) off w)

/-- A cluster's supply has settled: what was held for it is done in order (R351). -/
def State.settled (s : State) (c : ClusterId) : State :=
  let l := (s.cluster c).held
  let s := s.updCluster c (fun x => { x with waking := false })
  if (s.cluster c).gated then s
  else
    let s := s.updCluster c (fun x => { x with held := [] })
    l.foldl (fun s e => s.updCluster c (fun x => x.blockWrite (s.blockAgent (.host e.1)) e.2.1 e.2.2)) s

/-- A function's write of a register of device register space: the cluster blocks, and for the physical function the others
(R237, R348). -/
def State.regStore (s : State) (fn : FuncId) (pa : Nat) (w : Word) : State :=
  match blockOf pa with
  | some c => s.blockStore fn c (pa % 0x1000) w
  | none => if fn = 0 then s.devWrite pa w else s

/-- Writes bytes to memory, or whole registers. -/
def State.extPut (s : State) (fn : FuncId) (pa : Nat) (bs : List Byte) : State :=
  if homeOf pa = .dev then
    (List.range (bs.length / 8)).foldl (fun s i => s.regStore fn (pa + 8 * i) (leWord ((bs.drop (8 * i)).take 8))) s
  else s.writePhys pa bs none

def State.extWrite (s : State) (fn : FuncId) (addr : Word) (bs : List Byte) : Option State :=
  (s.extPa fn addr bs.length .store).map (fun pa => s.extPut fn pa bs)

/-- The 8-byte word at an address of either form. -/
def State.extWord (s : State) (fn : FuncId) (addr : Word) : Option Word := (s.extRead fn addr 8).map leWord

/-- A signal can be added to; 0 names none (R321). -/
def State.signalOk (s : State) (fn : FuncId) (addr : Word) : Bool :=
  addr = 0 || ((s.extArm fn addr 8).extWord fn addr).isSome && (s.extPa fn addr 8 .store).isSome

/-- An atomic addition to a signal (R321). -/
def State.addSignal (s : State) (fn : FuncId) (addr : Word) (n : Word) : State :=
  if addr = 0 then s
  else
    let s := s.extArm fn addr 8
    match s.extWord fn addr with
    | some x => (s.extWrite fn addr (leBytes 8 (x + n).toNat)).getD s
    | none => s

/-! ### Completion queues (R210, R328) -/

def State.updCpl (s : State) (q : QueueId) (f : CplQueue → CplQueue) : State :=
  s.updHost (fun h => { h with cplq := h.cplq.set q (f h.cplq[q]) })

/-- A queue that accepts posts has room while TAIL − HEAD is below its size. -/
def CplQueue.room (q : CplQueue) : Bool := q.en && (q.tail - q.head).toNat < 2 ^ q.log2n.toNat

/-- Notes the place of a cue's output record in its host queue. -/
def State.noteRecord (s : State) (cue : Option Word) (at0 : BitVec 32) : State :=
  match cue with
  | none => s
  | some n =>
    let d : DieId := ⟨(n.extractLsb' 60 2).toNat, (n.extractLsb' 60 2).isLt⟩
    match lookup s.dies[d].streams (fld n 48 12) with
    | some q =>
      let mark (c : Cue) : Cue := if c.ord = fld n 0 48 then { c with record := some at0 } else c
      s.updDie d (fun x => { x with streams := insert x.streams (fld n 48 12) { q with cues := q.cues.map mark } })
    | none => s

/-- A post: record, TAIL, SHADOW, event. -/
def State.postNow (s : State) (n : QueueId) (r : Vector Word 4) (cue : Option Word) : State :=
  let q := s.host.cplq[n]
  let s := s.noteRecord cue q.tail
  let at0 := q.base + BitVec.ofNat 64 (32 * (q.tail.toNat % 2 ^ q.log2n.toNat))
  let s := (s.extWrite q.func at0 (bytesOfSlots r.toList)).getD s
  let s := s.updCpl n (fun q => { q with tail := q.tail + 1 })
  let s := if q.shadow ≠ 0 then (s.extWrite q.func q.shadow (leBytes 8 (q.tail + 1).toNat)).getD s else s
  s.raise q.func ⟨q.vec.toNat, q.vec.isLt⟩

/-- Whether a post to a queue can leave a die now: at once, or into its posting buffer of 64 records. -/
def State.canPost (s : State) (d : DieId) (q : QueueId) : Bool :=
  (s.host.cplq[q].room && !s.dies[d].posts.any (fun p => p.queue = q)) || s.dies[d].posts.length < 64

/-- Posts a record, behind those of its queue that the die still holds. -/
def State.post (s : State) (d : DieId) (q : QueueId) (r : Vector Word 4) (cue : Option Word) : State :=
  if s.host.cplq[q].room && !s.dies[d].posts.any (fun p => p.queue = q) then s.postNow q r cue
  else s.updDie d (fun x => { x with posts := x.posts ++ [{ queue := q, slots := r, cue := cue }] })

/-- Held records of a queue leave in issue order while it has room; at most `fuel` of them. -/
def State.postHeld (s : State) (q : QueueId) : Nat → State
  | 0 => s
  | fuel + 1 =>
    if s.host.cplq[q].room then
      match (List.finRange 4).find? (fun d => s.dies[d].posts.any (fun p => p.queue = q)) with
      | some d =>
        match s.dies[d].posts.find? (fun p => p.queue = q) with
        | some p =>
          let rest := s.dies[d].posts.eraseIdx (s.dies[d].posts.findIdx (fun p => p.queue = q))
          ((s.updDie d (fun x => { x with posts := rest })).postNow q p.slots p.cue).postHeld q fuel
        | none => s
      | none => s
    else s

end Sys2Proof.Machine
end

