-- ==== Sys2Proof/Machine/Queues.lean ====
section
/-!
DEFINITION. Command queues: fetching packets, decisions, completion, and the commands that only wait or signal
(R256, R319 to R322, R324, R325).
-/

namespace Sys2Proof.Machine

/-! ### Queues and threads -/

def State.updCmd (s : State) (q : QueueId) (f : CmdQueue → CmdQueue) : State :=
  s.updHost (fun h => { h with cmdq := h.cmdq.set q (f h.cmdq[q]) })
def State.thread (s : State) (d : DieId) (q : QueueId) : Thread := s.dies[d].threads[q]
def State.updThread (s : State) (d : DieId) (q : QueueId) (f : Thread → Thread) : State :=
  s.updDie d (fun x => { x with threads := x.threads.set q (f x.threads[q]) })
def State.setThread (s : State) (d : DieId) (q : QueueId) (st : ThreadState) : State :=
  s.updThread d q (fun t => { t with state := st })
/-- The function that owns a queue. -/
def State.fnOf (s : State) (q : QueueId) : FuncId := s.host.cmdq[q].func

/-- A virtual function acts on its own partition only (R322). -/
def foreign (fn : FuncId) (p : PartId) : Bool :=
  match partOfFunc fn with
  | some own => p ≠ own
  | none => false

/-- The device is up: stage 5 and no rail fault (R337, R335). -/
def State.up (s : State) : Bool := s.host.boot.stage = 5 && !s.host.railFault

/-- The host announces packets. -/
def execQueueDoorbell (q : QueueId) (tail : BitVec 32) (s : State) : Out := .next (s.updCmd q (fun x => { x with tail := tail }))

/-- Fetching starts, or resumes at the packet that stopped it. -/
def execQueueRun (q : QueueId) (s : State) : Out :=
  .next (s.updCmd q (fun x => { x with run := true, stopped := false, reason := 0 }))

/-- HEAD: the lowest fetch count over the dies, modulo 2^32 behind TAIL. -/
def State.queueHead (s : State) (q : QueueId) : BitVec 32 :=
  let t := s.host.cmdq[q].tail
  let behind (d : DieId) : Nat := (t - (s.thread d q).count).toNat
  t - BitVec.ofNat 32 (((List.finRange 4).map behind).foldl max 0)

/-! ### Packets (R321, R322) -/

def Packet.sl (p : Packet) (i : Nat) : Word := p.slots[i]?.getD 0
def Packet.opc (p : Packet) : Nat := fld (p.sl 0) 0 8
def Packet.irq (p : Packet) : Bool := bit (p.sl 0) 8
/-- The address of the decision word. -/
def Packet.decision (p : Packet) : Word := BitVec.ofNat 64 (p.addr + 8)

/-- The body bits each command uses, slots 3 to 13; none for an unassigned opcode. -/
def bodyMasks (opc action : Nat) (all : Bool) : Option (List Nat) :=
  let full := 2 ^ 64 - 1
  match opc with
  | 0x01 => some [2 ^ 36 - 1, full, full, full, full, full, full, full]
  | 0x02 => some [full, full, 0xFFFF07]
  | 0x03 => some [full, full, 0x7]
  | 0x04 => some [full, full]
  | 0x05 => some []
  | 0x06 => some [full, full, 2 ^ 32 - 1, full, 1, full]
  | 0x07 => some [full]
  | 0x08 => some [full]
  | 0x09 => some [full, full]
  | 0x0A => some [full, full]
  | 0x0B => some (match action % 4 with
      | 2 => [3, full, full]
      | 3 => [3]
      | _ => [3, full])
  | 0x0C => some [2 ^ 39 - 1, 2 ^ 48 - 1, full, full]
  | 0x0D => some [2 ^ 63 + (2 ^ 14 - 1), 2 ^ 48 - 1, if all then 2 ^ 48 - 1 else 0]
  | 0x0E => some [2 ^ 63 + (2 ^ 14 - 1), full, if all then 2 ^ 48 - 1 else 0]
  | 0x0F => some [2 ^ 33 - 1, 2 ^ 16 - 1, 2 ^ 48 - 1]
  | 0x10 => some [full, full]
  | 0x11 => some [2 ^ 48 - 1, full, 2 ^ 32 - 1, full, 1, full, full]
  | 0x12 => some (if action / 256 % 4 = 0 then [0x31F, full, full, 0x77] else [0x31F])
  | _ => none

/-- Why a packet stops its queue: 2 an unassigned opcode, 3 a nonzero reserved bit. -/
def Packet.fault (p : Packet) : Option (BitVec 4) :=
  match bodyMasks p.opc (p.sl 3).toNat (bit (p.sl 3) 63) with
  | none => some 2
  | some ms =>
    let bodyOk := (List.range 11).all (fun i => p.sl (3 + i) &&& ~~~(BitVec.ofNat 64 (ms.getD i 0)) = 0)
    if p.sl 0 >>> 9 = 0 && bodyOk && p.sl 15 = 0 then none else some 3

/-- The address of a queue's packet. -/
def CmdQueue.packetAddr (x : CmdQueue) (n : BitVec 32) : Word := x.base + BitVec.ofNat 64 (128 * (n.toNat % 2 ^ x.log2n.toNat))

/-- A packet as a die reads it, or why the queue stops (R320). -/
def State.readPacket (s : State) (q : QueueId) (n : BitVec 32) : Except (BitVec 4) Packet :=
  let x := s.host.cmdq[q]
  let a := x.packetAddr n
  match s.extPa x.func a 128 .load with
  | none => .error 4
  | some pa =>
    if (poisonedIn s.poison pa 128).isSome then .error 1
    else
      let ws := slotsOf (s.readPlace (.phys pa) none 128) 16
      let p : Packet := { addr := a.toNat, seq := n, slots := Vector.ofFn (fun i : Fin 16 => ws.getD i.val 0) }
      match p.fault with
      | some r => .error r
      | none => .ok p

/-- The queue stops on every die. -/
def State.stopQueue (s : State) (q : QueueId) (reason : BitVec 4) : State :=
  let s := s.updCmd q (fun x => { x with run := false, stopped := true, reason := reason })
  let x := s.host.cmdq[q]
  s.raise x.func ⟨x.vec.toNat, x.vec.isLt⟩

/-- A die's thread reads its next packet, or passes one that a COND skips. -/
def execPacketFetch (die : DieId) (q : QueueId) (s : State) : Out :=
  .next (
    let t := s.thread die q
    let x := s.host.cmdq[q]
    if !s.up || !x.run || x.stopped || t.count = x.tail || t.state ≠ .idle then s
    else if 0 < t.skip then s.updThread die q (fun t => { t with count := t.count + 1, skip := t.skip - 1 })
    else
    let s := s.extArm x.func (x.packetAddr t.count) 128
    match s.readPacket q t.count with
    | .error r => s.stopQueue q r
    | .ok p => s.updThread die q (fun t => { t with count := t.count + 1, state := .fetched p }))

/-! ### Completion (R321) -/

/-- Codes of the status word. -/
inductive CmdStatus where
  | ok | refused | badArg | fault | noMatch
  deriving DecidableEq, Repr

def CmdStatus.code : CmdStatus → Nat
  | .ok => 0
  | .refused => 1
  | .badArg => 2
  | .fault => 3
  | .noMatch => 4

/-- Writes the status word of a packet, where it names one. -/
def State.putStatus (s : State) (fn : FuncId) (slots : Vector Word 16) (st : CmdStatus) (result : Nat) : State :=
  if slots[14] = 0 then s
  else (s.extWrite fn slots[14] (leBytes 8 (st.code + 256 * result))).getD s

/-- A command has completed: its event, where it asks for one. -/
def State.completed (s : State) (q : QueueId) (slots : Vector Word 16) : State :=
  if bit slots[0] 8 then
    let x := s.host.cmdq[q]
    s.raise x.func ⟨x.vec.toNat, x.vec.isLt⟩
  else s

/-- A signal that cannot be added to gives FAULT (R318). -/
def State.signalled (s : State) (fn : FuncId) (slots : Vector Word 16) (st : CmdStatus) : CmdStatus :=
  if s.signalOk fn slots[2] then st else .fault

/-- A die's own part of a shared command is done: status, then 1 on the signal; the fourth die completes it. -/
def State.partDone (s : State) (q : QueueId) (seq : BitVec 32) (slots : Vector Word 16) (st : CmdStatus) (result : Nat) : State :=
  let fn := s.fnOf q
  let s := (s.putStatus fn slots (s.signalled fn slots st) result).addSignal fn slots[2] 1
  let n := ((lookup s.host.cmdq[q].done seq.toNat).getD 0) + 1
  let s := s.updCmd q (fun x => { x with done := if n = 4 then erase x.done seq.toNat else insert x.done seq.toNat n })
  if n = 4 then s.completed q slots else s

/-- A die ends its part of a shared command and goes on to the next packet. -/
def State.endPart (s : State) (d : DieId) (q : QueueId) (p : Packet) (st : CmdStatus) (result : Nat) : State :=
  (s.setThread d q .idle).partDone q p.seq p.slots st result

/-- The performing die completes a command: status, then 4 on the signal. -/
def State.endOne (s : State) (q : QueueId) (slots : Vector Word 16) (st : CmdStatus) (result : Nat) : State :=
  let fn := s.fnOf q
  ((s.putStatus fn slots (s.signalled fn slots st) result).addSignal fn slots[2] 4).completed q slots

/-- The packet a die has read and not started, of an opcode. -/
def State.current (s : State) (d : DieId) (q : QueueId) (opc : Nat) : Option Packet :=
  if !s.up then none
  else match (s.thread d q).state with
  | .fetched p => if p.opc = opc then some p else none
  | _ => none

/-- A command one die performs: the die whose CAS sets VALID acts, the others pass (R322). `act` answers the state with the
status and result, or none where the command goes on and completes later. -/
def State.perform1 (s : State) (d : DieId) (q : QueueId) (opc : Nat) (act : State → Packet → State × Option (CmdStatus × Nat)) : State :=
  match s.current d q opc with
  | none => s
  | some p =>
    let fn := s.fnOf q
    let s := (s.setThread d q .idle).extArm fn p.decision 8
    match s.extWord fn p.decision with
    | some w =>
      if bit w 63 then s
      else
        match s.extWrite fn p.decision (leBytes 8 (2 ^ 63)) with
        | some s =>
          match act s p with
          | (s, some (st, r)) => s.endOne q p.slots st r
          | (s, none) => s
        | none => s.partDone q p.seq p.slots .fault 0
    | none => s.partDone q p.seq p.slots .fault 0

/-! ### COND, WAIT (R324, R325) -/

/-- The conditions of COND and WAIT, by code. -/
def waitCond (n : Nat) : Option Cond :=
  match n with
  | 0 => some .eq
  | 1 => some .ne
  | 2 => some .ltu
  | 3 => some .geu
  | 4 => some .bits
  | 5 => some .bitc
  | _ => none

/-- The die passes a COND with its outcome. -/
def State.passCond (s : State) (d : DieId) (q : QueueId) (p : Packet) (w : Word) : State :=
  let out := bit w 0
  let s := s.updThread d q (fun t => { t with skip := if out then 0 else fld (p.sl 5) 8 16 })
  if bit w 1 then s.endPart d q p .fault 0 else s.endPart d q p .ok (if out then 1 else 0)

/-- COND: decided once. Where its word cannot be read the decision is not to skip, and its bit [1] is set (log 42). -/
def execCond (die : DieId) (q : QueueId) (s : State) : Out :=
  .next (match s.current die q 0x02 with
    | none => s
    | some p =>
      let fn := s.fnOf q
      match waitCond (fld (p.sl 5) 0 3) with
      | none => s.endPart die q p .badArg 0
      | some c =>
        let s := s.extArm fn p.decision 8
        match s.extWord fn p.decision with
        | none => s.endPart die q p .fault 0
        | some w =>
          if bit w 63 then s.passCond die q p w
          else
            let s := s.extArm fn (p.sl 3) 8
            let w : Word := match s.extWord fn (p.sl 3) with
              | some x => atB true 63 ||| atB (Cond.test c x (p.sl 4)) 0
              | none => atB true 63 ||| 3
            match s.extWrite fn p.decision (leBytes 8 w.toNat) with
            | some s => s.passCond die q p w
            | none => s.endPart die q p .fault 0)

/-- WAIT: the die polls the word. -/
def execWait (die : DieId) (q : QueueId) (s : State) : Out :=
  .next (match s.current die q 0x03 with
    | none => s
    | some p => if (waitCond (fld (p.sl 5) 0 3)).isNone then s.endPart die q p .badArg 0 else s.setThread die q (.polling p))

/-- A polling die reads the word; where the condition holds, or the word cannot be read, its wait is over. -/
def execWaitConditionMet (die : DieId) (q : QueueId) (s : State) : Out :=
  .next (match s.up, (s.thread die q).state with
    | true, .polling p =>
      let s := s.extArm (s.fnOf q) (p.sl 3) 8
      match s.extWord (s.fnOf q) (p.sl 3), waitCond (fld (p.sl 5) 0 3) with
      | some x, some c => if Cond.test c x (p.sl 4) then s.endPart die q p .ok 0 else s
      | _, _ => s.endPart die q p .fault 0
    | _, _ => s)

/-! ### FENCE, SIGNAL (R325) -/

/-- Every earlier packet of the queue has completed its share on the die. -/
def State.sharesDone (s : State) (d : DieId) (q : QueueId) : Bool :=
  s.dies[d].shares.all (fun e => e.2.queue ≠ q) && s.host.jobs.all (fun j => !(j.die = d && j.queue = q)) &&
    s.host.copies.all (fun j => !(j.die = d && j.queue = q)) &&
    (match s.host.checkpoint with | some c => !(c.die = d && c.queue = q) | none => true)

/-- The die meets the others: 1 more in DECISION [2:0], once its earlier shares are done. -/
def State.meet (s : State) (d : DieId) (q : QueueId) (p : Packet) : State :=
  if !s.sharesDone d q then s.setThread d q (.fencing p false)
  else
    let fn := s.fnOf q
    let s := s.extArm fn p.decision 8
    match s.extWord fn p.decision with
    | some w =>
      match s.extWrite fn p.decision (leBytes 8 (w + 1).toNat) with
      | some s => s.setThread d q (.fencing p true)
      | none => s.endPart d q p .fault 0
    | none => s.endPart d q p .fault 0

/-- The fence of a FENCE or SIGNAL packet begins, or is tried again. -/
def State.fenceStep (s : State) (d : DieId) (q : QueueId) (opc : Nat) : State :=
  match s.up, (s.thread d q).state with
  | true, .fetched p => if p.opc = opc then s.meet d q p else s
  | true, .fencing p false => if p.opc = opc then s.meet d q p else s
  | _, _ => s

def execSignal (die : DieId) (q : QueueId) (s : State) : Out := .next (s.fenceStep die q 0x04)
def execQueueFence (die : DieId) (q : QueueId) (s : State) : Out := .next (s.fenceStep die q 0x05)

/-- All four dies have met: a FENCE is done on this die; of a SIGNAL the die whose CAS sets bit [63] performs the
addition. -/
def execQueueFenceComplete (die : DieId) (q : QueueId) (s : State) : Out :=
  .next (match s.up, (s.thread die q).state with
    | true, .fencing p true =>
      let fn := s.fnOf q
      let s := s.extArm fn p.decision 8
      match s.extWord fn p.decision with
      | some w =>
        if fld w 0 3 ≠ 4 then s
        else if p.opc = 0x05 then s.endPart die q p .ok 0
        else
          let s := s.setThread die q .idle
          if bit w 63 then s
          else match s.extWrite fn p.decision (leBytes 8 (w ||| atB true 63).toNat) with
          | some s =>
            let s := s.extArm fn (p.sl 3) 8
            match s.extWord fn (p.sl 3) with
            | some x =>
              match s.extWrite fn (p.sl 3) (leBytes 8 (x + p.sl 4).toNat) with
              | some s => s.endOne q p.slots .ok 0
              | none => s.endOne q p.slots .fault 0
            | none => s.endOne q p.slots .fault 0
          | none => s.endOne q p.slots .fault 0
      | none => s.endPart die q p .fault 0
    | _, _ => s)

end Sys2Proof.Machine
end

