-- ==== Sys2Proof/Machine/Regions.lean ====
section
/-!
DEFINITION. REGION_CREATE and REGION_KILL (R34, R261, R262, R295, R322).
-/

namespace Sys2Proof.Machine

/-- Bits of each slot of a region control block that are no reserved bits (R261). -/
def blockMasks : List Nat :=
  [2 ^ 46 - 1, 2 ^ 21 - 1, 2 ^ 64 - 1, 2 ^ 48 - 1, 0x3FF0300, 2 ^ 20 - 1, 2 ^ 64 - 1, 2 ^ 64 - 1, 2 ^ 64 - 1, 0, 0, 0, 0, 0, 0, 0]

def blockReserved (b : List Word) : Bool :=
  (List.range 16).any (fun i => b.getD i 0 &&& ~~~(BitVec.ofNat 64 (blockMasks.getD i 0)) ≠ 0)

/-- The partition a block names. -/
def blockPart (b : List Word) : PartId := ⟨((b.getD 0 0).extractLsb' 41 5).toNat, ((b.getD 0 0).extractLsb' 41 5).isLt⟩
def blockOvr (b : List Word) (i : Nat) : Bool := bit (b.getD 1 0) (16 + i)

/-- The number of the block at an address, where it is one. -/
def State.blockNumber (s : State) (pa : Nat) : Option Nat := (s.regions.find? (fun e => e.2 = pa)).map (·.1)

/-- Governor values that stand in the ranges of `mctl` and no higher than the parent's ratio (R161, R262). -/
def blockGovOk (b : List Word) (up : Option (BitVec 2 × BitVec 10)) : Bool :=
  if blockOvr b 2 then
    let gwin : BitVec 2 := (b.getD 4 0).extractLsb' 8 2
    let gbud : BitVec 10 := (b.getD 4 0).extractLsb' 16 10
    mctlLegal 0 gwin gbud (up.getD (0, 64))
  else true

/-- The scrub of a partition runs (R295). -/
def Partition.scrubbing (p : Partition) : Bool := 1 ≤ p.phase.toNat && p.phase.toNat ≤ 4

/-- The parent's level and the checks of R262; none where one fails. -/
def State.blockLevel (s : State) (b : List Word) : Option Nat :=
  let up := (b.getD 2 0).toNat
  if blockReserved b then none
  else if up = 0 then
    if (List.range 5).all (blockOvr b) && blockGovOk b none then some 0 else none
  else match s.blockNumber up with
  | none => none
  | some n =>
    let w := s.slot up 0
    if fld w 36 2 = 1 && fld w 38 3 < 7 && fld w 41 5 = (blockPart b).val && blockGovOk b (some (s.regionGov (BitVec.ofNat 32 n))) then
      some (fld w 38 3 + 1)
    else none

/-- A number no region has had. -/
def State.freshRegion (s : State) : Nat := (s.regions.map (·.1)).foldl max 0 + 1

/-- The fields the device writes at creation (R261). -/
def State.makeRegion (s : State) (pa n level : Nat) : State :=
  let w := setFld (setFld (setFld (s.slot pa 0) 0 32 n) 36 2 1) 38 3 level
  let s := ((s.setSlot pa 0 w).setSlot pa 6 0).setSlot pa 7 0
  let s := s.setSlot pa 8 (BitVec.ofNat 64 s.clock)
  { s with regions := insert (s.regions.filter (fun e => e.2 ≠ pa)) n pa }

/-- REGION_CREATE. A virtual function may give DTAG only a domain of its own partition (R322). -/
def State.createRegion (s : State) (fn : FuncId) (p : Packet) : State × Option (CmdStatus × Nat) :=
  let addr := p.sl 3
  let pa := addr.toNat
  if pa % 128 ≠ 0 || homeOf pa ≠ .dram then (s, some (.badArg, 0))
  -- a virtual function acts on its own partition alone, which refuses while its scrub runs (R295)
  else if (partOfFunc fn).any (fun o => s.partitions[o].scrubbing) then (s, some (.refused, 0))
  else
  let s := s.extArm fn addr 128
  match s.extRead fn addr 128, s.extPa fn addr 128 .store with
  | some bs, some _ =>
    let b := slotsOf bs 16
    let part := blockPart b
    let live := match s.blockNumber pa with | some n => s.regionLive (BitVec.ofNat 32 n) | none => false
    let tagOk := !(blockOvr b 4) || !foreign fn (s.partOf ((b.getD 1 0).setWidth 16))
    if foreign fn part || !tagOk || s.partitions[part].scrubbing || live then (s, some (.refused, 0))
    else if blockOvr b 1 && fld (b.getD 3 0) 32 16 = 0 then (s, some (.badArg, 0))
    else match s.blockLevel b with
    | none => (s, some (.refused, 0))
    | some l => (s.makeRegion pa s.freshRegion l, some (.ok, s.freshRegion))
  | _, _ => (s, some (.fault, 0))

def execRegionCreate (die : DieId) (q : QueueId) (s : State) : Out :=
  .next (s.perform1 die q 0x07 (fun s p => s.createRegion (s.fnOf q) p))

/-- REGION_KILL of the block at an address. -/
def State.killRegionAt (s : State) (fn : FuncId) (p : Packet) : State × Option (CmdStatus × Nat) :=
  match s.blockNumber (p.sl 3).toNat with
  | none => (s, some (.badArg, 0))
  | some n =>
    let r : BitVec 32 := BitVec.ofNat 32 n
    if foreign fn (s.regionPart r) then (s, some (.refused, 0)) else (s.killFaultDomain r, some (.ok, 0))

def execRegionKill (die : DieId) (q : QueueId) (s : State) : Out :=
  .next (s.perform1 die q 0x08 (fun s p => s.killRegionAt (s.fnOf q) p))

end Sys2Proof.Machine
end

