-- ==== Sys2Proof/Machine/Partition.lean ====
section
/-!
DEFINITION. Domains and partitions as the security controller serves them: DOMAIN_CREATE, MEASURE, LOCK, START, ATTEST,
TEARDOWN with its scrub, PARTITION_SET (R278, R281, R289, R292 to R296, R322, R323).
-/

namespace Sys2Proof.Machine

def State.updPart (s : State) (p : PartId) (f : Partition → Partition) : State :=
  { s with partitions := s.partitions.set p (f s.partitions[p]) }

/-- The record of a partition is taken anew (R294; log 46). -/
def State.takeRecord (s : State) (p : PartId) : State := s.updPart p (fun x => { x with record := s.evidence p })

/-- A command that acts on the issuer's own partition. The physical function has none: REFUSED (R322; log 47). -/
def State.perform1Own (s : State) (d : DieId) (q : QueueId) (opc : Nat)
    (act : State → Packet → PartId → State × Option (CmdStatus × Nat)) : State :=
  s.perform1 d q opc (fun s p => match partOfFunc (s.fnOf q) with
    | some part => act s p part
    | none => (s, some (.refused, 0)))

/-! ### DOMAIN_CREATE, MEASURE (R278, R293) -/

/-- A tag the security controller may give: none of a domain that is not torn down, or whose partition's scrub still runs. -/
def State.tagFree (s : State) (t : Tag) : Bool :=
  t ≠ 0 && t ≠ 0xFFFF && (match s.domain? t with | some d => d.killed && !s.partitions[d.part].scrubbing | none => true)

/-- A window of a plan: base, limit and attributes as R281 lays them out, for the domain's tag. -/
def planWindow (t : Tag) (base limit attr : Word) : Window :=
  Window.trim { base := base.extractLsb' 6 46, limit := limit.extractLsb' 6 46, dtag := t, rd := bit attr 16, wr := bit attr 17
                ex := bit attr 18, space := bit attr 19, v := bit attr 20, clash := false }

def planOf (t : Tag) (ws : List Word) (n : Nat) : List Window :=
  (List.range n).map (fun i => planWindow t (ws.getD (3 * i) 0) (ws.getD (3 * i + 1) 0) (ws.getD (3 * i + 2) 0))

/-- Every core's per-domain state of a tag is that of a domain just created. -/
def State.freshDomain (s : State) (t : Tag) : State :=
  { s with cores := s.cores.map (fun (e : Nat × Core) => (e.1, { e.2 with doms := erase e.2.doms t.toNat })) }

def State.makeDomain (s : State) (part : PartId) (t : Tag) (plan : List Window) (ws : List Word) : State :=
  let gen := match s.domain? t with | some d => d.lastGen | none => 0
  let s := { s.freshDomain t with domains := insert s.domains t.toNat { part := part, killed := false, lastGen := gen, plan := plan } }
  let digest := Config.digestOf (t.toNat :: part.val :: ws.map (·.toNat))
  (s.updPart part (fun x => { x with pmeas := extend x.pmeas digest })).takeRecord part

def State.createDomain (s : State) (fn : FuncId) (p : Packet) (part : PartId) (t : Tag) : State × Option (CmdStatus × Nat) :=
  let n := (p.sl 3).toNat
  let x := s.partitions[part]
  if x.state ≠ .unlocked || x.scrubbing || 512 ≤ (s.domains.filter (fun e => !e.2.killed)).length then (s, some (.refused, 0))
  else if n = 0 || 16 < n then (s, some (.badArg, 0))
  else
  let s := s.extArm fn (p.sl 4) (24 * n)
  match s.extRead fn (p.sl 4) (24 * n) with
  | none => (s, some (.fault, 0))
  | some bs =>
    let ws := slotsOf bs (3 * n)
    if (List.range n).any (fun i => fld (ws.getD (3 * i + 2) 0) 0 16 ≠ 0) then (s, some (.badArg, 0))
    else (s.makeDomain part t (planOf t ws n) ws, some (.ok, t.toNat))

/-- DOMAIN_CREATE under a tag the security controller chooses. -/
def execDomainCreate (die : DieId) (q : QueueId) (tag : Tag) (s : State) : Out :=
  .next (if s.tagFree tag then s.perform1Own die q 0x09 (fun s p part => s.createDomain (s.fnOf q) p part tag) else s)

def State.measure (s : State) (fn : FuncId) (p : Packet) (part : PartId) : State × Option (CmdStatus × Nat) :=
  if s.partitions[part].state ≠ .unlocked then (s, some (.refused, 0))
  else
  let s := s.extArm fn (p.sl 3) (p.sl 4).toNat
  match s.extRead fn (p.sl 3) (p.sl 4).toNat with
  | none => (s, some (.fault, 0))
  | some bs =>
    ((s.updPart part (fun x => { x with pmeas := extend x.pmeas (reg256 (sha256 bs)) })).takeRecord part, some (.ok, 0))

def execMeasure (die : DieId) (q : QueueId) (s : State) : Out :=
  .next (s.perform1Own die q 0x0A (fun s p part => s.measure (s.fnOf q) p part))

/-! ### LOCK, START (R292) -/

/-- Opcode 0x0B with the function of slot 3 [1:0]. -/
def State.flow (s : State) (d : DieId) (q : QueueId) (sel : Nat)
    (act : State → Packet → PartId → State × Option (CmdStatus × Nat)) : State :=
  match s.current d q 0x0B with
  | some p => if fld (p.sl 3) 0 2 = sel then s.perform1Own d q 0x0B act else s
  | none => s

def State.lock (s : State) (fn : FuncId) (p : Packet) (part : PartId) : State × Option (CmdStatus × Nat) :=
  let x := s.partitions[part]
  if x.state ≠ .unlocked || x.scrubbing then (s, some (.refused, 0))
  else
    let n := Config.freeBytes32 s.fresh
    match s.extWrite fn (p.sl 4) (bytes256 n) with
    | none => (s, some (.fault, 0))
    | some s =>
      (({ s with fresh := s.fresh + 1 }.updPart part (fun x => { x with state := .locked, nonce := n })).takeRecord part, some (.ok, 0))

def execLock (die : DieId) (q : QueueId) (s : State) : Out :=
  .next (s.flow die q 0 (fun s p part => s.lock (s.fnOf q) p part))

def State.startRun (s : State) (d : DieId) (fn : FuncId) (p : Packet) (part : PartId) : State × Option (CmdStatus × Nat) :=
  if s.partitions[part].state ≠ .locked then (s, some (.refused, 0))
  else
  let s := s.extArm fn (p.sl 4) 32
  match s.extRead fn (p.sl 4) 32 with
  | none => (s, some (.fault, 0))
  | some bs =>
    if reg256 bs = s.partitions[part].nonce then
      ((s.updPart part (fun x => { x with state := .run })).takeRecord part, some (.ok, 0))
    else (s.log d { kind := 0x14, cls := 6, part := some part }, some (.refused, 0))

def execStart (die : DieId) (q : QueueId) (s : State) : Out :=
  .next (s.flow die q 1 (fun s p part => s.startRun die (s.fnOf q) p part))

/-! ### ATTEST (R293, R294) -/

def PartState.code : PartState → Nat
  | .unlocked => 0
  | .locked => 1
  | .run => 2
  | .error => 3

/-- Some domain of the partition is installed on a core. -/
def State.scheduled (s : State) (part : PartId) : Bool :=
  s.cores.any (fun e => e.2.installed ≠ 0 && (match s.domain? e.2.installed with | some d => d.part = part && !d.killed | none => false))

/-- Bytes 0x000 to 0x13F of a report. -/
def reportBody (part : PartId) (state counter : Nat) (asked nonce : BitVec 256) (e : Evidence) (flags : Nat) : List Byte :=
  leBytes 4 0x5258424F ++ leBytes 2 1 ++ leBytes 1 part.val ++ leBytes 1 state ++ leBytes 8 counter ++ bytes256 asked ++
    bytes256 nonce ++ (e.meas.toList.map bytes256).flatten ++ bytes256 e.pmeas ++ leBytes 8 e.clock ++ leBytes 8 flags ++
    bytes256 Config.identityDigest

/-- The report of a partition: GATED from the record taken at gating, descheduled from the controller's record, else as
read now. -/
def State.report704 (s : State) (part : PartId) (asked : BitVec 256) : List Byte :=
  let x := s.partitions[part]
  let nonce := if x.state = .unlocked then 0 else x.nonce
  let body :=
    if x.gated then reportBody part 4 (x.reports + 1) asked nonce x.gateRecord 6
    else if !s.scheduled part then reportBody part x.state.code (x.reports + 1) asked nonce x.record 5
    else reportBody part x.state.code (x.reports + 1) asked nonce (s.evidence part) 0
  body ++ leBytes 384 (Config.signature body).toNat

def State.attest (s : State) (fn : FuncId) (p : Packet) (part : PartId) : State × Option (CmdStatus × Nat) :=
  let s := s.extArm fn (p.sl 4) 32
  match s.extRead fn (p.sl 4) 32 with
  | none => (s, some (.fault, 0))
  | some bs =>
    match s.extWrite fn (p.sl 5) (s.report704 part (reg256 bs)) with
    | none => (s, some (.fault, 0))
    | some s => (s.updPart part (fun x => { x with reports := x.reports + 1 }), some (.ok, 0))

def execAttest (die : DieId) (q : QueueId) (s : State) : Out :=
  .next (s.flow die q 2 (fun s p part => s.attest (s.fnOf q) p part))

/-! ### TEARDOWN and its scrub (R289, R295, R296, R369) -/

/-- Every domain of a partition, torn down or not. -/
def State.tagsOf (s : State) (part : PartId) : List Tag :=
  (s.domains.filter (fun e => e.2.part = part)).map (fun e => BitVec.ofNat 16 e.1)

/-- Every gate of a killed tag becomes REVOKED, whatever its state. -/
def State.revokeGates (s : State) (t : Tag) : State :=
  match s.gateEntry t 0 with
  | none => s
  | some pa => (List.range 256).foldl (fun s i =>
      let a := pa + 64 * i
      if fld (s.slot a 1) 24 2 = 2 then s else s.setSlot a 1 (setFld (s.slot a 1) 24 2 2)) s

/-- No key slot and no engine holds a key of the tags that a test picks. -/
def State.dropKeys (s : State) (p : Tag → Bool) : State :=
  let s := s.listedCores.foldl (fun s c =>
    ((List.finRange 64).filter (fun n => (s.core c).keys[n].loaded && p (s.core c).keys[n].tag)).foldl
      (fun s n => s.zeroise c n true) s) s
  { s with dies := s.dies.map (fun d => { d with keys := d.keys.filter (fun k => !p k.tag) }) }

/-- The windows of a partition's domains. -/
def State.partWindows (s : State) (part : PartId) : List Window := ((s.tagsOf part).map s.windowsOf).flatten

/-- The scratchpad windows of a partition on a cluster: its plans, where the cluster is assigned to it, and the windows
installed on the cluster's cores. -/
def State.scratchWindows (s : State) (part : PartId) (cl : ClusterId) : List Window :=
  let tags := s.tagsOf part
  let plans := if s.partitions[part].clusters.getLsbD cl.val then
      (tags.map (fun t => match s.domain? t with | some d => d.plan | none => [])).flatten
    else []
  plans ++ ((s.cores.filter (fun e => e.1 / 64 = cl.val)).map (fun e =>
    e.2.windows.toList.filter (fun w => w.v && tags.contains w.dtag))).flatten

/-- First and last byte of a window that is valid. -/
def Window.range? (w : Window) : Option (Nat × Nat) :=
  if w.v && w.base.toNat ≤ w.limit.toNat then some (64 * w.base.toNat, 64 * w.limit.toNat + 63) else none

/-- What a range has between two bounds. -/
def clip (lo hi : Nat) (e : Nat × Nat) : Option (Nat × Nat) :=
  if max lo e.1 ≤ min hi e.2 then some (max lo e.1, min hi e.2) else none

def insertRange (e : Nat × Nat) : List (Nat × Nat) → List (Nat × Nat)
  | [] => [e]
  | x :: l => if e.1 ≤ x.1 then e :: x :: l else x :: insertRange e l

/-- The bytes a phase must clear, as ranges in rising order: of vaults and DRAM by physical address, of scratchpads by
2^23·cluster + offset in the cluster window. -/
def State.scrubRanges (s : State) (part : PartId) (phase : Nat) : List (Nat × Nat) :=
  let flat (lo hi : Nat) : List (Nat × Nat) :=
    (s.partWindows part).filterMap (fun w => if w.space then none else w.range?.bind (clip lo hi))
  let l := match phase with
    | 2 => ((List.finRange 128).map (fun (cl : ClusterId) =>
        ((s.scratchWindows part cl).filterMap (fun (w : Window) => if w.space then w.range?.bind (clip 0 0x7FFFFF) else none)).map
          (fun (e : Nat × Nat) => (0x800000 * cl.val + e.1, 0x800000 * cl.val + e.2)))).flatten
    | 3 => flat 0x10000000000 0x100BFFFFFFF
    | 4 => flat 0 0xBFFFFFFFFF
    | _ => []
  l.foldr insertRange []

/-- The bytes of rising ranges that lie below an address, each counted once. -/
def coveredBelow (rs : List (Nat × Nat)) (a : Nat) : Nat :=
  (rs.foldl (fun r e => (max r.1 (e.2 + 1), r.2 + (min a (e.2 + 1) - max r.1 e.1))) (0, 0)).2

def inRanges (rs : List (Nat × Nat)) (a : Nat) : Bool := rs.any (fun e => e.1 ≤ a && a ≤ e.2)

/-- A byte of the ranges that is among the first `n` of them. -/
def clearedBy (rs : List (Nat × Nat)) (n a : Nat) : Bool := inRanges rs a && coveredBelow rs a < n

/-- Bytes a phase must clear. -/
def State.scrubTotal (s : State) (part : PartId) (phase : Nat) : Nat := coveredBelow (s.scrubRanges part phase) (2 ^ 64)

def State.setPhase (s : State) (part : PartId) (n : BitVec 3) : State :=
  let total := s.scrubTotal part n.toNat
  s.updPart part (fun x => { x with phase := n, done := 0, total := total })

/-- The partition's kills, gates and keys: the work of phase 1, with what the partition's state becomes. -/
def State.tearDown (s : State) (part : PartId) : State :=
  let tags := s.tagsOf part
  let s := tags.foldl (fun s t => s.killDomain t) s
  let s := tags.foldl (fun s t => s.revokeGates t) s
  let s := s.dropKeys tags.contains
  (s.updPart part (fun x => { x with state := .unlocked, nonce := 0, replay := false })).setPhase part 1

/-- TEARDOWN completes once its scrub has begun (log 48). -/
def execTeardown (die : DieId) (q : QueueId) (s : State) : Out :=
  .next (s.flow die q 3 (fun s _ part => (s.tearDown part, some (.ok, 0))))

/-- What a phase clears of the bytes a test picks: they read 0, line counters and MACs reset, without poison. -/
def State.clearWhere (s : State) (phase : Nat) (hit : Nat → Bool) : State :=
  if phase = 2 then
    s.listedCores.foldl (fun s c =>
      let here (o : Nat) : Bool := hit (0x800000 * (clusterOf c).val + 0x20000 * coreN c + o)
      s.updCore c (fun q => { q with
        scratch := q.scratch.filter (fun e => !here e.1), scratchPoison := q.scratchPoison.filter (fun o => !here o) })) s
  else
    { s with mem := s.mem.filter (fun e => !hit e.1), poison := s.poison.filter (fun a => !hit a)
             lines := s.lines.filter (fun e => !hit e.1), frames := s.frames.filter (fun e => !hit e.1) }

/-- The first `n` bytes of the phase are cleared. -/
def State.scrubTo (s : State) (part : PartId) (n : Nat) : State :=
  let phase := s.partitions[part].phase.toNat
  s.clearWhere phase (clearedBy (s.scrubRanges part phase) n)

/-- Every byte of the phase is cleared. -/
def State.scrubWhole (s : State) (part : PartId) : State :=
  let phase := s.partitions[part].phase.toNat
  s.clearWhere phase (inRanges (s.scrubRanges part phase))

/-- The scrub engine clears further lines of its phase, and DONE grows. -/
def State.scrubMore (s : State) (part : PartId) (lines : Nat) : State :=
  let x := s.partitions[part]
  if 2 ≤ x.phase.toNat && x.phase.toNat ≤ 4 && s.powered then
    let n := min x.total (x.done + 64 * lines)
    (s.scrubTo part n).updPart part (fun x => { x with done := n })
  else s

/-- Highest generation of a tag's gates. -/
def State.topGen (s : State) (t : Tag) : Nat :=
  match s.gateEntry t 0 with
  | some pa => ((List.range 256).map (fun i => fld (s.slot (pa + 64 * i) 1) 0 24)).foldl max 0
  | none => 0

/-- A tag's gate table is cleared and its directory entry is not valid; its last generation is kept (R278). -/
def State.dropGates (s : State) (t : Tag) : State :=
  let gen := s.topGen t
  let s := match s.gateEntry t 0 with
    | some pa =>
      { s with mem := (s.mem.clear pa 16384).clear (0xBFF0000000 + 8 * t.toNat) 8
               published := s.published.filter (fun e => e.1 / 256 ≠ t.toNat), revoking := s.revoking.filter (fun e => e.1 / 256 ≠ t.toNat) }
    | none => s
  match s.domain? t with
  | some d =>
    let d : Domain := { d with plan := [], lastGen := BitVec.ofNat 24 (max gen d.lastGen.toNat) }
    { s with domains := insert s.domains t.toNat d }
  | none => s

/-- A troupe without what the tags own: tiles, table pairs, handles. -/
def Troupe.scrub (x : Troupe) (tags : List Tag) : Troupe :=
  let mine (o : Option Tag) : Bool := match o with | some t => tags.contains t | none => false
  let x := (List.finRange 16).foldl (fun (x : Troupe) (i : Fin 16) =>
    if mine x.owners[i] then
      { x with acc := x.acc.clear (16384 * i.val) 16384, flags := x.flags.set i 0, owners := x.owners.set i none
               accPoison := clearPoison x.accPoison (16384 * i.val) 16384 }
    else x) x
  { x with handles := x.handles.map (fun h => if tags.contains h.tag && h.state ≠ .free then .reset else h)
           pairs := x.pairs.map (fun p => if tags.contains p.tag then .reset else p) }

/-- Call boards, PEND bits and guard bitmaps of the tags. -/
def Core.scrub (q : Core) (tags : List Tag) : Core :=
  { q with doms := q.doms.map (fun (e : Nat × DomState) =>
    if tags.any (fun t => t.toNat = e.1) then (e.1, { e.2 with board := .replicate 64 0, pend := 0, deque := [], guard := 0, shadow := false })
    else e) }

/-- The end of the scrub: what is held outside memory, the gate tables, the regions, armed error injections on the
partition's lines (R155, R163, R189, R194, R221, R295). -/
def State.scrubRest (s : State) (part : PartId) : State :=
  let tags := s.tagsOf part
  let s := s.listedTroupes.foldl (fun s t => s.updTroupe t (·.scrub tags)) s
  let free (b : Barrier) : Barrier := match b.tag with | some t => if tags.contains t then .reset else b | none => b
  let s := { s with clusters := s.clusters.map (fun (e : Nat × Cluster) => (e.1, { e.2 with barriers := e.2.barriers.map free })) }
  let s := s.listedCores.foldl (fun s c => s.updCore c (·.scrub tags)) s
  tags.foldl (fun s t => s.dropGates t) s

def State.disarm (s : State) (part : PartId) : State :=
  let rs := (s.partWindows part).filterMap (fun w => if w.space then none else w.range?)
  s.listedCores.foldl (fun s c => s.updCore c (fun q => { q with
    einjArm := q.einjArm && !rs.any (fun e => e.1 ≤ q.einja.toNat && q.einja.toNat ≤ e.2) })) s

/-- The partition's regions go with their blocks. -/
def State.dropRegions (s : State) (part : PartId) : State :=
  { s with regions := s.regions.filter (fun e => s.regionPart (BitVec.ofNat 32 e.1) ≠ part) }

/-- A phase of the scrub ends, and the next begins; a rail fault holds the scrub engines in reset (R335). -/
def execScrubPhaseDone (part : PartId) (s : State) : Out :=
  .next (if !s.powered then s else match s.partitions[part].phase.toNat with
    | 1 => s.setPhase part 2
    | 2 => (s.scrubWhole part).setPhase part 3
    | 3 => (s.scrubWhole part).setPhase part 4
    | 4 => ((((s.disarm part).dropRegions part).scrubWhole part).scrubRest part).setPhase part 5
    | _ => s)

/-- A reset restarts a scrub from the beginning, every key slot and engine key of the device first (R296). -/
def State.restartScrub (s : State) (part : PartId) : State :=
  let s := s.dropKeys (fun _ => true)
  let s := s.updPart part (fun x => { x with restarts := if x.restarts = 0xFFFF then x.restarts else x.restarts + 1 })
  s.setPhase part 1

/-- A function-level reset of a partition's virtual function (R296, R336). -/
def execFunctionLevelReset (part : PartId) (s : State) : Out :=
  .next (if s.partitions[part].scrubbing then s.restartScrub part else s)

/-! ### PARTITION_SET (R323) -/

/-- PARTITION_SET with an ACTION that a test picks. -/
def State.partitionSet (s : State) (d : DieId) (q : QueueId) (sel : Nat → Bool)
    (act : State → Packet → PartId → State × Option (CmdStatus × Nat)) : State :=
  match s.current d q 0x12 with
  | none => s
  | some p =>
    if !sel (fld (p.sl 3) 8 2) then s
    else s.perform1 d q 0x12 (fun s p =>
      let part : PartId := ⟨((p.sl 3).extractLsb' 0 5).toNat, ((p.sl 3).extractLsb' 0 5).isLt⟩
      match partOfFunc (s.fnOf q) with
      | some _ => (s, some (.refused, 0))
      | none => act s p part)

/-- ASSIGN. -/
def State.assign (s : State) (p : Packet) (part : PartId) : State × Option (CmdStatus × Nat) :=
  let x := s.partitions[part]
  let masks : BitVec 128 := p.sl 5 ++ p.sl 4
  if fld (p.sl 3) 8 2 = 3 then (s, some (.badArg, 0))
  else if x.state ≠ .unlocked || x.scrubbing || (s.domainsOf part) ≠ [] then (s, some (.refused, 0))
  else if masks = 0 || 6 ≤ fld (p.sl 6) 0 3 || 6 ≤ fld (p.sl 6) 4 3 then (s, some (.badArg, 0))
  else
    ((s.updPart part (fun x => { x with clusters := masks, valw := (p.sl 6).setWidth 3, malw := (p.sl 6).extractLsb' 4 3 })).regate,
      some (.ok, 0))

/-- ASSIGN, and the ACTION that is a bad argument. -/
def execAssign (die : DieId) (q : QueueId) (s : State) : Out :=
  .next (s.partitionSet die q (fun a => a = 0 || a = 3) (fun s p part => s.assign p part))

def State.setReplayMode (s : State) (part : PartId) (on : Bool) : State × Option (CmdStatus × Nat) :=
  if s.partitions[part].scrubbing then (s, some (.refused, 0))
  else (s.updPart part (fun x => { x with replay := on }), some (.ok, 0))

def execSetReplay (die : DieId) (q : QueueId) (s : State) : Out :=
  .next (s.partitionSet die q (· = 1) (fun s _ part => s.setReplayMode part true))
def execClearReplay (die : DieId) (q : QueueId) (s : State) : Out :=
  .next (s.partitionSet die q (· = 2) (fun s _ part => s.setReplayMode part false))

end Sys2Proof.Machine
end

