-- ==== Sys2Proof/Machine/Waitp.lean ====
section
/-!
DEFINITION. The stage-manager harts: their address space, fetch, traps and WAITP (R330, R331).
-/

namespace Sys2Proof.Machine

/-! ### The executing hart -/

def State.hart (s : State) : Thread := s.thread s.turn.hartDie s.turn.hart
def State.updHart (s : State) (f : Thread → Thread) : State := s.updThread s.turn.hartDie s.turn.hart f

/-- A register of the hart; x0 reads 0. -/
def State.x (s : State) (r : Fin 32) : Word := if r = 0 then 0 else s.hart.x[r]

/-- Writes rd and goes on behind the word. -/
def State.hartNext (s : State) (rd : Fin 32) (v : Word) : State :=
  s.updHart (fun t => { t with x := if rd = 0 then t.x else t.x.set rd v, pc := t.pc + 4, instret := t.instret + 1 })

/-- A trap of a hart, in M mode only: mcause, mepc and mtval, then the vector (log 55). -/
def State.hartTrap (s : State) (cause : Nat) (val : Word) : State :=
  s.updHart (fun t => { t with
    mcause := BitVec.ofNat 64 cause, mepc := t.pc, mtval := val, pc := t.mtvec &&& ~~~3#64, mpie := t.mie, mie := false })

/-- The SRAM's size, and where device physical memory begins in a hart's address space. -/
def sramSize : Nat := 0x80000
def hartPhys : Nat := 0x1000000000000

/-- The bytes of [a, a + n) as a hart reads them; none where nothing answers. -/
def State.hartRead (s : State) (a n : Nat) : Option (List Byte) :=
  if a + n ≤ sramSize then some (s.dies[s.turn.hartDie].sram.readN a n)
  else if hartPhys ≤ a then
    let pa := a - hartPhys
    match homeOf pa with
    | .none => none
    | .dev => some (s.readDevice .monitor pa n)
    | _ => if homeOf (pa + n - 1) = homeOf pa then some (s.readPlace (.phys pa) none n) else none
  else none

/-! ### WAITP -/

/-- Form 0: the queue's TAIL differs from the hart's fetch count. -/
def execWaitpQ (rd : Fin 32) (s : State) : Out :=
  .next (
    let n := s.host.cmdq[s.turn.hart].tail - s.hart.count
    if n = 0 then s else s.hartNext rd (n.setWidth 64))

/-- Forms 1 and 2: each read of the dword at rs1 is an acquire; the hart waits until the test holds. -/
def State.waitMem (s : State) (rd rs1 rs2 : Fin 32) (test : Word → Word → Bool) : State :=
  let a := s.x rs1
  if a.toNat % 8 ≠ 0 then s.hartTrap 4 a
  else match s.hartRead a.toNat 8 with
  | none => s.hartTrap 5 a
  | some bs =>
    let v := leWord bs
    if test v (s.x rs2) then s.hartNext rd v else s

def execWaitpGeu (rd rs1 rs2 : Fin 32) (s : State) : Out := .next (s.waitMem rd rs1 rs2 (fun v x => x.toNat ≤ v.toNat))
def execWaitpNe (rd rs1 rs2 : Fin 32) (s : State) : Out := .next (s.waitMem rd rs1 rs2 (fun v x => v ≠ x))

end Sys2Proof.Machine
end

