-- ==== Sys2Proof/Machine/Bringup.lean ====
section
/-!
DEFINITION. Resets, boot, HBM training and the memory clear (R154, R293, R296, R299, R335 to R343).
-/

namespace Sys2Proof.Machine

/-! ### Boot images (R338) -/

def imageField (bs : List Byte) (off n : Nat) : Nat := leNat ((bs.drop off).take n)

/-- The body: its size stands at 0x018, and it begins at 0x280. -/
def imageBody (bs : List Byte) : List Byte := (bs.drop 0x280).take (imageField bs 0x018 8)

inductive Verdict where
  | accepted (owner : Bool)
  | lowSvn
  | bad
  deriving DecidableEq, Repr

/-- Whether the boot ROM or the firmware accepts an image as one of kind i + 1. -/
def Fuses.judge (f : Fuses) (i : Fin 3) (m : BootImage) : Verdict :=
  let bs := m.bytes
  let keyid := reg256 ((bs.drop 0x040).take 32)
  let whole := imageField bs 0x000 4 = 0x4F424D47 && imageField bs 0x004 4 = i.val + 1 &&
    0x280 + imageField bs 0x018 8 ≤ bs.length && sha256 (imageBody bs) = (bs.drop 0x020).take 32
  let key := (keyid = f.vendor && !f.ownerOnly) || keyid = f.owner
  if !(whole && m.signed && key) then .bad
  else if imageField bs 0x008 4 < f.svn[i].toNat then .lowSvn
  else .accepted (keyid ≠ f.vendor)

/-! ### Measurement and boot (R293, R337 to R339) -/

def State.measureBoot (s : State) (i : Fin 5) (digest : BitVec 256) : State :=
  s.updHost (fun h => { h with meas := h.meas.set i (extend h.meas[i] digest) })

/-- An accepted image runs, or is kept for stage 4: MEAS1, MEAS2 or MEAS3 is extended by the digest of its header bytes 0x000 to
0x03F. OWNER says whether the images accepted so far verified under the owner key. -/
def State.acceptImage (s : State) (i : Fin 3) (bs : List Byte) (owner : Bool) : State :=
  (s.measureBoot ⟨i.val + 1, by omega⟩ (reg256 (sha256 (bs.take 0x40)))).updBoot (fun b => { b with
    running := b.running.set i bs, owner := owner && (i = 0 || b.owner), err := 0, recovery := false })

/-- Bring-up stops and waits for an image from the host. -/
def State.needImage (s : State) (low : Bool) : State := s.updBoot (fun b => { b with err := if low then 2 else 1, recovery := true })

/-- Stage 0: MEAS0 by hardware, then MEAS4; the ROM tries slot A, then slot B, and runs the image (log 53). -/
def State.bootRom (s : State) : State :=
  let f := s.host.boot.fuses
  let s := ((s.measureBoot 0 f.rom).measureBoot 4 f.owner).measureBoot 4 (Config.digestOf (f.svn.toList.map (·.toNat)))
  let image (n : Fin 2) : BootImage := s.host.boot.flash[n][0]
  match f.judge 0 (image 0), f.judge 0 (image 1) with
  | .accepted o, _ => (s.acceptImage 0 (image 0).bytes o).updBoot (fun b => { b with slot := false, stage := 1 })
  | _, .accepted o => (s.acceptImage 0 (image 1).bytes o).updBoot (fun b => { b with slot := true, stage := 1 })
  | a, b => s.needImage (a = .lowSvn || b = .lowSvn)

/-- Stage 1 for one of the later images, from the slot of the running firmware (log 53). -/
def State.verifyLater (s : State) (i : Fin 3) : State :=
  let b := s.host.boot
  if b.recovery || b.running[i] ≠ [] then s
  else
    let m := b.flash[if b.slot then (1 : Fin 2) else 0][i]
    match b.fuses.judge i m with
    | .accepted o => s.acceptImage i m.bytes o
    | v => s.needImage (v = .lowSvn)

/-- Stage 1: the stage-manager firmware, then the monitor; the stacks are next. -/
def State.stageOne (s : State) : State :=
  let s := (s.verifyLater 1).verifyLater 2
  if s.host.boot.recovery then s else s.updBoot (fun b => { b with stage := 2 })

/-- What outlives every reset: the flash, the fuses, the nonvolatile copies of TRAINDATA, the retirement map. -/
def HostSide.fresh (h : HostSide) (cold : Bool) : HostSide :=
  { HostSide.reset with
    boot := { Boot.reset with cold := cold, flash := h.boot.flash, fuses := h.boot.fuses }
    hbm := h.hbm.map (fun x => if cold then { Hbm.reset with kept := x.kept }
      else { Hbm.reset with kept := x.kept, data := x.kept, passed := 3 })
    area := if cold then [] else h.area
    epochs := h.epochs }

/-- A cold start: every rail of the package rises from zero. Host memory is not the package's. -/
def execColdStart (s : State) : Out :=
  .next ({ State.reset with
    agenda := s.agenda, turn := s.turn, fresh := s.fresh, host := s.host.fresh true
    mem := s.mem.filter (fun e => homeOf e.1 = .host), poison := s.poison.filter (fun a => homeOf a = .host) } : State).bootRom

/-- A partition after a warm package reset: its journal key is zeroised with every other key (R336). -/
def Partition.warm (x : Partition) : Partition :=
  { x with state := .unlocked, nonce := 0, pmeas := 0, gated := false, journalKey := 0, record := .reset, gateRecord := .reset }

/-- A partition whose scrub a warm package reset starts over (R296). -/
def Partition.scrubsOn (x : Partition) : Bool := x.scrubbing || x.state ≠ .unlocked

/-- A warm package reset: memory stays, keys and all else are as after reset, scrubs start over. A rail fault holds on until the
rails are cycled (R296, R335, R336; log 54). -/
def execWarmPackageReset (s : State) : Out :=
  .next (
    let parts := (List.finRange 32).filter (fun p => s.partitions[p].scrubsOn)
    let keep (e : Nat × Core) : Nat × Core := (e.1, { Core.reset with scratch := e.2.scratch, scratchPoison := e.2.scratchPoison })
    let dead (e : Nat × Domain) : Nat × Domain := (e.1, { e.2 with killed := true })
    let s' : State := { State.reset with
      agenda := s.agenda, turn := s.turn, fresh := s.fresh, mem := s.mem, poison := s.poison, lines := s.lines
      cores := s.cores.map keep, domains := s.domains.map dead, partitions := s.partitions.map Partition.warm
      host := s.host.fresh false }
    let t := (parts.foldl (fun s p => s.restartScrub p) s').bootRom
    if s.host.railFault then (t.updHost (fun h => { h with railFault := true })).updBoot (fun b => { b with err := 4 }) else t)

/-- A rail out of tolerance: FAULT_N; every core and engine, the stage managers' among them, is held in reset until the rails are
cycled (R335). -/
def execRailFault (s : State) : Out :=
  let still (d : Die) : Die := { d with threads := .replicate 32 .reset }
  .next ((({ s with cores := [], troupes := [], dies := s.dies.map still } : State).updHost (fun h => { h with railFault := true })).updBoot (fun b => { b with err := 4 }))

/-- GO: the image at the host's address is judged as the one that is missing, by what its bytes hold and whether its signature
verifies; bring-up goes on at the stage that failed (R338, R339). -/
def execBootRecoveryGo (signed : Bool) (s : State) : Out :=
  .next (
    let b := s.host.boot
    if !b.recovery || s.host.railFault then s
    else
      let at0 := b.addr ||| (1#64 <<< 63)
      let s := s.extArm 0 at0 b.len.toNat
      let i : Fin 3 := ((List.finRange 3).find? (fun i => b.running[i] = [])).getD 0
      match s.extRead 0 at0 b.len.toNat with
      | none => s.needImage false
      | some bs =>
        match b.fuses.judge i { bytes := bs, signed := signed } with
        | .accepted o =>
          let s := s.acceptImage i bs o
          if i = 0 then s.updBoot (fun b => { b with stage := 1 }) else s
        | v => s.needImage (v = .lowSvn))

/-! ### The last stages (R299, R337, R343) -/

/-- A core as stage 4 leaves it: the retirement map applied, `mtvec` at the monitor entry, and running there in M mode. -/
def Core.released (q : Core) (retired : Bool) (entry : Word) : Core :=
  let m := q.ctxs[mBank]
  { q with
    retired := retired, mtvec := entry
    mmode := if retired then none else some { cause := 0, ctx := 0, core := true, epc := 0, val := 0 }
    ctxs := q.ctxs.set mBank { m with state := if retired then .dormant else .ready, regs := { m.regs with pc := entry } } }

/-- Puts bytes into device memory. -/
def State.loadBody (s : State) (pa : Nat) (bs : List Byte) : State :=
  if (homeOf pa = .dram || homeOf pa = .vault) && homeOf (pa + bs.length - 1) = homeOf pa then s.writePhys pa bs none else s

/-- Puts the body of the stage-manager firmware at its load address, in each die's SRAM or in device memory, as a hart names it
(R330, R338). -/
def State.loadStageManager (s : State) : State :=
  let bs := s.host.boot.running[1]
  let a := imageField bs 0x010 8
  let body := imageBody bs
  if a + body.length ≤ sramSize then { s with dies := s.dies.map (fun (d : Die) => { d with sram := d.sram.writeL a body }) }
  else if hartPhys ≤ a then s.loadBody (a - hartPhys) body
  else s

/-- Puts the body of the monitor image at its load address, a physical address. -/
def State.loadMonitor (s : State) : State :=
  let bs := s.host.boot.running[2]
  s.loadBody (imageField bs 0x010 8) (imageBody bs)

/-- Stage 4: the images are loaded, the stage managers get the retirement map, cores and stage managers are released; then
stage 5, where the links train. -/
def State.ready (s : State) : State :=
  let s := s.loadStageManager.loadMonitor
  let map := s.host.epochs.headD (0, [])
  -- each image is entered at its load address (log 53)
  let entry (i : Fin 3) : Word := BitVec.ofNat 64 (imageField s.host.boot.running[i] 0x010 8) &&& ~~~1#64
  let s := { s with
    cores := (List.finRange 8192).map (fun (c : CoreId) => (c.val, (s.core c).released (map.2.contains c.val) (entry 2)))
    dies := s.dies.map (fun (d : Die) => { d with
      epochs := [map], threads := d.threads.map (fun (t : Thread) => { t with pc := entry 1 }) }) }
  let s := s.updBoot (fun b => { b with stage := 5 })
  (List.finRange 16).foldl (fun s k => s.autoTrain k) s

/-- The firmware's work of stage 1 or stage 4. -/
def State.bootStep (s : State) : State :=
  match s.host.boot.stage.toNat with
  | 1 => if s.host.boot.recovery || s.host.railFault then s else s.stageOne
  | 4 => if s.host.railFault then s else s.ready
  | _ => s

/-- Stage 3 ends: memory is 0 with every line fresh, scratchpads and accumulator memory +0, all tiles unowned. -/
def execMemoryClearComplete (s : State) : Out :=
  .next (if s.host.boot.stage ≠ 3 || s.host.railFault then s
    else
      let bare (e : Nat × Core) : Nat × Core := (e.1, { e.2 with scratch := [], scratchPoison := [] })
      let tiles (e : Nat × Troupe) : Nat × Troupe :=
        (e.1, { e.2 with acc := [], accPoison := [], flags := .replicate 16 0, owners := .replicate 16 none })
      ({ s with
        mem := s.mem.filter (fun e => homeOf e.1 ≠ .dram && homeOf e.1 ≠ .vault), poison := [], lines := [], frames := []
        cores := s.cores.map bare, troupes := s.troupes.map tiles } : State).updBoot (fun b => { b with stage := 4 }))

/-! ### HBM training (R340 to R342) -/

/-- GO of a step by the firmware. -/
def execHbmStepGo (stack : Fin 12) (step : BitVec 4) (s : State) : Out :=
  .next (if s.host.boot.stage.toNat < 2 || s.host.boot.err = 3 then s else s.updHbm stack (fun h => (h.setStep step).go))

/-- The step that runs ends, whatever STEP holds by then. It passes on all 32 channels; step 6 always passes; step 5 leaves TRAINDATA, of which the firmware keeps
a copy. After a failed run the steps behind it may not start (R342). -/
def Hbm.stepDone (h : Hbm) (pass : BitVec 32) (data : List Byte) : Hbm :=
  let pass := if h.running = 6 then BitVec.allOnes 32 else pass
  if pass = BitVec.allOnes 32 then
    let h := { h with busy := false, fail := false, pass := pass, passed := max h.passed h.running.toNat }
    if h.running = 5 then
      let d := Memory.writeL [] 0 (data.take 256)
      { h with data := d, kept := d }
    else h
  else
    let n : Fin 7 := Fin.ofNat 7 h.running.toNat
    { h with busy := false, fail := true, pass := pass, passed := min h.passed (h.running.toNat - 1), fails := h.fails.set n (h.fails[n] + 1) }

/-- After a stack's step in stage 2: three failures of one step stop bring-up, and when every stack is trained stage 3 follows a
cold start, stage 4 a warm reset (R340). -/
def State.afterStep (s : State) (stack : Fin 12) : State :=
  if s.host.boot.stage ≠ 2 || s.host.boot.err = 3 then s
  else if s.host.hbm[stack].fails.any (3 ≤ ·) then s.updBoot (fun b => { b with err := 3, stack := BitVec.ofNat 4 stack.val })
  else if s.host.hbm.toList.all (fun h => h.passed = 6) then
    s.updBoot (fun b => { b with stage := if b.cold then 3 else 4 })
  else s

def execHbmStepDone (stack : Fin 12) (pass : BitVec 32) (data : List Byte) (s : State) : Out :=
  .next (if !s.host.hbm[stack].busy then s else (s.updHbm stack (fun h => h.stepDone pass data)).afterStep stack)

/-- Periodic retraining of one channel affects timing only (R342). -/
def execHbmRetrain (_stack : Fin 12) (_channel : Fin 32) (s : State) : Out := .next s

end Sys2Proof.Machine
end

