-- ==== Sys2Proof/Machine/Fetch.lean ====
section
/-!
DEFINITION. Fetching an instruction (R36, R37, R53, R233).
-/

namespace Sys2Proof.Machine

/-- The two bytes of a parcel at an address, or the access that fails. A protected line is verified as it is fetched
(log 35). -/
def State.fetchParcel (s : State) (a : Word) : Except Stop Parcel := do
  if bit a 0 then .error (.trap 0x05 a) else
  let l ← s.checkSpace a.toNat 2 .fetch
  match l.place with
  | .phys pa =>
    if homeOf pa = .dev then .error (.trap 0x06 a)
    else if (s.injection pa 2).isSome then .error (.fire pa)
    else match poisonedIn s.poison pa 2 with
    | some u => if s.mMode then .error (.trap 0x12 (at' u 0)) else .error (.halt (s.consumePoison s.turn.core s.myCtx (.phys pa) u))
    | none =>
      if l.prot && !s.macOk pa s.regs.tag then .error (.halt (s.ctxIntegrity s.turn.core s.myCtx (pa / 64 * 64) false))
      else
        match s.readPlace l.place (protTag l.prot s.regs.tag) 2 with
        | [x, y] => .ok (y ++ x)
        | _ => .ok 0
  | _ => .error (.trap 0x06 a)

/-- Parcels are read in address order until the decoder has an instruction; a chain has at most four prefixes. -/
def State.fetchFrom (s : State) (pc : Word) (got : List Parcel) : Nat → Except Stop Instr
  | 0 => .ok (.illegalInstruction 0x02 0)
  | n + 1 => do
    let p ← s.fetchParcel (pc + BitVec.ofNat 64 (2 * got.length))
    match decodeParcels (got ++ [p]) with
    | some i => .ok i
    | none => s.fetchFrom pc (got ++ [p]) n

/-- The instruction at pc. A parcel that cannot be fetched faults the whole instruction at its first parcel. -/
def State.fetch (s : State) : Except Stop Instr :=
  let pc := s.regs.pc
  match s.fetchFrom pc [] 6 with
  | .error (.trap 0x12 v) => .error (.trap 0x12 v)
  | .error (.trap c _) => .ok (.fetchFault c pc)
  | r => r

end Sys2Proof.Machine

namespace Sys2Proof

open Machine

/-- The live-mask index of a word that carries PFX.S (R269). -/
def Instr.safe? (i : Instr) : Option (BitVec 8) :=
  match i.pre? with
  | some w => w.chain.findSome? (fun p => match p with | .safe x => some x | _ => none)
  | none => none

end Sys2Proof
end

