-- ==== Sys2Proof/Machine/Preempt.lean ====
section
/-!
DEFINITION. Held contexts and their answers, M-mode entry, stop requests, budgets, ceilings, rollback, retirement and
the patrol scrub (R111 to R114, R203, R213, R263, R264, R271 to R274, R297 to R304).
-/

namespace Sys2Proof.Machine

/-! ### FP events (R111 to R114) -/

/-- The notice of a held context (R112). -/
def fpNotice (c : CoreId) (k : CtxId) (dest : Word) (t : Tag) (region : BitVec 32) (v : FpEvent) : Message :=
  { dest := dest.setWidth 19, header := mkHeader (dest.setWidth 6) c 4 t
    payload := [(coreAddr c.val).setWidth 64 ||| at' k.val 19 ||| at' v.flags.toNat 24, v.addr, v.opA, v.opB]
    region := region, origin := .fpNotice c k }

/-- Sends the notice of a held context that has none out, where the domain's stream is not halted; a refused one 256 clocks
later (R111, R114). -/
def State.sendNotice (s : State) (c : CoreId) (k : CtxId) : State :=
  let x := s.ctx c (bank k)
  match x.state, x.event with
  | .held, some v =>
    if v.sent || s.clock < v.again || (s.core c).streamHalted x.regs.tag then s
    else
      let m := fpNotice c k (s.dom c x.regs.tag).fpsup x.regs.tag x.regs.region v
      ((s.counted c x.regs.tag).updCtx c (bank k) (fun x => { x with event := some { v with sent := true } })).send
        (.message none { m with key := s.sealKey c x.regs.tag })
  | _, _ => s

/-- A context with an enabled event stops: its results return, it is HELD, a gang member detaches, the notice goes. -/
def execFpEvent (core : CoreId) (ctx : CtxId) (s : State) : Out :=
  .next (
    let x := s.ctx core (bank ctx)
    if x.event.isNone || x.flagsOut || !(x.state = .ready || x.state = .parked || x.state = .blocked) then s
    else
      let s := s.updCtx core (bank ctx) (fun x =>
        let x := x.returned
        { x with state := .held, regs := { x.regs with gstat := { x.regs.gstat with
            detached := x.regs.gstat.detached || (x.regs.gstat.inGang && !x.regs.gstat.leader) } } })
      let s := s.sendNotice core ctx
      if (s.core core).pmreq.stop.getLsbD ctx.val then (s.stopCtx core ctx none).stopEntry core else s)

def execFpNoticeRetry (core : CoreId) (ctx : CtxId) (s : State) : Out := .next (s.sendNotice core ctx)

/-- The entry the monitor is to act on, and the core without it: the one M mode was entered for, its bank still at mtvec, or the
next one, where the bank is free. -/
def Core.entryDue (q : Core) : Option (MEntry × Core) :=
  match q.mmode with
  | some e => if q.atVector then some (e, q.leave) else none
  | none => q.nextEntry

/-- The monitor's service of an answer the core has entered M mode for, or of one at the head of its entries: it is acted on
where it names a held context, under the held context's tag, at the address reported; M mode is then left (R113, R212; log 32). -/
def State.serveAnswer (s : State) (c : CoreId) (kind : Nat) (act : State → CtxId → FpEvent → Bool → State) : State :=
  let q := s.core c
  match q.entryDue with
  | some (e, q') =>
    match e.answer with
    | some m =>
      if q.dead || q.retired || fld (m.payload.headD 0) 0 8 ≠ kind then s
      else
        let x := s.ctx c (bank e.ctx)
        let s := s.setCore c { q' with
          mcause := e.cause, mepc := x.regs.pc, mtval := e.val, mctx := e.ctx
          tdsp := BitVec.ofNat 4 x.regs.dom.length, tdom := x.regs.tag }
        match x.state, x.event with
        | .held, some v =>
          if m.tag = x.regs.tag && m.payload.getD 1 0 = v.addr then act s e.ctx v (bit (m.payload.headD 0) 16) else s
        | _, _ => s
    | none => s
  | none => s

def execFpResume (core : CoreId) (s : State) : Out :=
  .next (s.serveAnswer core 0x10 (fun s k v clear =>
    s.updCtx core (bank k) (fun x =>
      let x := { x.resumed with halted := false }
      if clear then { x with regs := { x.regs with fflg := x.regs.fflg &&& ~~~v.flags } } else x)))

def execFpKill (core : CoreId) (s : State) : Out :=
  .next (s.serveAnswer core 0x11 (fun s k _ _ =>
    let n := (s.ctx core (bank k)).regs.dom.length
    let s := s.updCtx core (bank k) (fun x => { x with halted := false })
    if n = 0 then s.killCtx core k else s.unwind core k (n - 1) 2))

/-! ### M-mode entry (R213) -/

def execMmodeEntry (core : CoreId) (s : State) : Out :=
  .next (if (s.core core).dead || (s.core core).retired then s else s.enterM core)

/-! ### Stop requests (R271, R273) -/

/-- A pre-emption notice of the stage manager sets STOP. -/
def execPreemptionNotice (core : CoreId) (mask : BitVec 8) (s : State) : Out := .next (s.stopRequest core mask true false)

/-- The monitor sets STOP. -/
def execPmreqStop (core : CoreId) (mask : BitVec 8) (s : State) : Out := .next (s.stopRequest core mask false false)

/-- A context is asked to stop and has not. -/
def State.requested (s : State) (c : CoreId) (k : CtxId) : Bool :=
  (s.core c).pmreq.stop.getLsbD k.val && !(s.core c).pmreq.stopped.getLsbD k.val

/-- The live-mask index where the context's next instruction carries PFX.S; an attached follower's next one stands in
its queue. -/
def State.atSafe (s : State) (c : CoreId) (k : CtxId) : Option (BitVec 8) :=
  let x := s.ctx c (bank k)
  if x.regs.gstat.inGang && !x.regs.gstat.leader && !x.regs.gstat.detached then
    x.queue.head?.bind (fun f => f.instr.safe?)
  else
    match ({ s with turn := { s.turn with core := c, ctx := bank k } } : State).fetch with
    | .ok i => i.safe?
    | .error _ => none

/-- The redelivered item of a requested context starts again, the request's own bar of starts apart (R273, R277). -/
def State.restarts (s : State) (c : CoreId) (k : CtxId) : Bool :=
  ((s.core c).redelivered k).any (fun i =>
    let t := i.msg.tag
    let e := s.entry c t i.msg.chan
    entryHandler e ≠ 0 && entryEn e && s.partitions[s.partOf t].state = .run && !s.killedTag t && s.regionStarts i.msg.region &&
      !(entrySerial e && s.serialBusy c t i.msg.chan))

/-- A requested context rolled back to its start takes up the redelivered item, to be stopped as a new start: once M mode has
served its entry, and where the core makes no other start in this clock (R213, R266, R277). -/
def State.restart (s : State) (c : CoreId) (k : CtxId) : State :=
  let q := s.core c
  match s.restarts c k && q.served ≠ some k && !q.entryFor k && q.startClock ≠ some s.clock, q.redelivered k with
  | true, some i =>
    let prio := s.pickPrio (s.entry c i.msg.tag i.msg.chan) (.item i)
    (s.updCore c (fun q => Core.started { q with inbox := dropFirst (fun y => y = i) q.inbox } prio i.msg.chan.toNat s.clock)).startItem c k i
  | _, _ => s

/-- The wait limit of a request has passed. -/
def State.stopExpired (s : State) (c : CoreId) : Bool :=
  match (s.core c).stopClock with
  | some n => n + (s.core c).spbud.toNat ≤ s.clock
  | none => false

/-- A requested context stops before the instruction of a safe point, once its long results have returned and while the wait
limit has not passed. One that waits or is held or ended counts as stopped; a new start is stopped with every register live;
one whose ceiling has run out is unwound first (R273, R277). -/
def State.safeStop (s : State) (c : CoreId) (k : CtxId) : State :=
  if !s.requested c k then s else
  let s := s.restart c k
  let x := s.ctx c (bank k)
  if x.toUnwind || s.restarts c k then s
  else if x.quiet || s.newStart c k then (s.stopCtx c k none).stopEntry c
  else if x.state = .ready && x.outstanding = [] && x.event.isNone && !s.stopExpired c then
    match s.atSafe c k with
    | some i => (s.stopCtx c k (some i)).stopEntry c
    | none => s
  else s

def execSafePointStop (core : CoreId) (ctx : CtxId) (s : State) : Out := .next (s.safeStop core ctx)

/-- The forced stop of one context at its instruction boundary: its results have returned, its stores have left, no
verification of it is pending. -/
def State.forceStop (s : State) (c : CoreId) (k : CtxId) : State :=
  if !s.requested c k then s else
  let s := s.restart c k
  let x := s.ctx c (bank k)
  if x.toUnwind || s.restarts c k then s
  else if x.quiet || s.newStart c k then s.stopCtx c k none
  else if x.verifs ≠ [] || x.flagsOut || !x.storeBuf.all (s.leaves x) || x.event.isSome then s
  else
    let s := s.updCtx c (bank k) (fun x =>
      let x := x.returned
      { x with state := if x.wait.isSome then x.state else .ready })
    let s := (s.drain c (bank k)).updCore c (fun q => { q with pmreq := { q.pmreq with forced := true } })
    s.stopCtx c k none

def execForcedStop (core : CoreId) (s : State) : Out :=
  .next (if s.stopExpired core then ((List.finRange 8).foldl (fun s k => s.forceStop core k) s).stopEntry core else s)

def execPmreqFree (core : CoreId) (mask : BitVec 8) (s : State) : Out := .next (s.freeCtxs core mask)

/-! ### Budgets (R263, R264, R274) -/

def execChargeFold (region : BitVec 32) (s : State) : Out := .next (s.fold region)

/-- The contexts of a core whose charged region is exhausted are asked to stop. -/
def execBudgetExhausted (core : CoreId) (s : State) : Out :=
  .next (
    let s := s.foldCore core
    let mask := ((List.finRange 8).filter (fun k =>
      let x := s.ctx core (bank k)
      x.state ≠ .dormant && x.state ≠ .saved && !x.halted && !(s.core core).pmreq.stop.getLsbD k.val && s.exhausted x.regs.region)).foldl
        (fun m k => m ||| maskBit k) (0 : BitVec 8)
    s.stopRequest core mask false true)

/-- The regions with a context or a frame on a core. -/
def State.regionsOn (s : State) (c : CoreId) : List (BitVec 32) :=
  ((List.finRange 8).filterMap (fun k =>
      let x := s.ctx c (bank k)
      if x.state ≠ .dormant && x.state ≠ .saved then some x.regs.region else none) ++
    (s.frames.filter (fun f => f.2.live && f.2.core = c && f.2.level = 0)).map (fun f => f.2.region)).eraseDups

/-- The core entry of a window's opening (R274). -/
def State.reopen (s : State) (c : CoreId) (r : BitVec 32) : State :=
  let k : CtxId := ((List.finRange 8).find? (fun k => (s.ctx c (bank k)).regs.region = r)).getD 0
  s.queueEntry c { cause := 0x14, ctx := k, core := true, epc := (s.ctx c (bank k)).regs.pc, val := r.setWidth 64 ||| atB true 63 }

/-- USED ≥ BUDGET in the pool of a block (R264). -/
def State.poolOut (s : State) (pa : Nat) : Bool :=
  fld (s.slot pa 3) 0 32 ≠ 0xFFFFFFFF && fld (s.slot pa 3) 0 32 ≤ (s.slot pa 6).toNat

/-- A pool's next window, once the clock has come to its end: USED is 0, and cores with contexts or frames of a region exhausted
in that pool are told (R263, R274). -/
def State.openWindow (s : State) (region : BitVec 32) : State :=
  match s.regionPa region with
  | some pa =>
    let len := 4096 * fld (s.slot pa 3) 32 16
    let start := (s.slot pa 8).toNat
    if !bit (s.slot pa 1) 17 || len = 0 || s.clock < start + len then s
    else
      let s := s.foldAll
      let out := if s.poolOut pa then
          (s.regions.map (fun e => (BitVec.ofNat 32 e.1 : BitVec 32))).filter (fun r => (s.pools r).contains pa)
        else []
      let s := (s.setSlot pa 8 (BitVec.ofNat 64 (start + len))).setSlot pa 6 0
      s.listedCores.foldl (fun s c => (((s.regionsOn c).filter (fun r => out.contains r)).foldl (fun s r => s.reopen c r) s)) s
  | none => s

def execBudgetWindowStart (region : BitVec 32) (s : State) : Out := .next (s.openWindow region)

/-! ### Ceilings (R203) -/

def execCeilingExpiry (core : CoreId) (ctx : CtxId) (s : State) : Out :=
  .next (
    let x := s.ctx core (bank ctx)
    match x.state.counts, x.regs.expired with
    | true, some depth => s.unwind core ctx depth 3
    | _, _ => s)

/-! ### Rollback and retirement (R298, R299, R303) -/

/-- The next epoch published reaches a die's stage manager, which holds the last four (R259). -/
def Die.learn (d : Die) (published : List (Nat × List Nat)) : Die :=
  match d.epochs with
  | (n, _) :: _ => match published.find? (fun e => e.1 = n + 1) with
    | some e => { d with epochs := e :: d.epochs.take 3 }
    | none => d
  | [] => { d with epochs := published.take 1 }

/-- A core retires; its own die's stage manager knows the new epoch at once (R299). -/
def State.retireCore (s : State) (c : CoreId) : State :=
  let s := s.updCore c (fun q => { q with retired := true, degraded := false })
  let rs := (s.regionsOn c)
  let s := rs.foldl (fun s r => if s.regionLive r then s.killFaultDomain r else s) s
  let (n, m) := s.host.epochs.headD (0, [])
  let s := s.updHost (fun h => { h with epochs := (n + 1, m.filter (· < c.val) ++ c.val :: m.filter (c.val < ·)) :: h.epochs })
  let s := s.updDie (dieOf c) (fun d => d.learn s.host.epochs)
  s.log (dieOf c) { kind := 0x05, cls := 4, core := some c, data := BitVec.ofNat 64 (n + 1) }

/-- A persistent mismatch in a context. -/
def State.persist (s : State) (c : CoreId) (k : CtxId) : State :=
  let x := s.ctx c (bank k)
  let pc := x.regs.pc
  let kills := !x.rollsBack
  let s := if x.regs.gstat.inGang then s.disband c (bank k) 2 0x13 else s
  let s := s.rollbackCtx c k 0x13
  let s := s.updCore c (fun q => { q with degraded := true, mismatches := s.clock :: q.mismatches })
  let l := (s.core c).mismatches
  let s := s.log (dieOf c) { kind := 0x04, cls := if kills then 2 else 1, core := some c, ctx := k.val, tag := x.regs.tag
                             part := some (s.partOf x.regs.tag), region := x.regs.region, detail := l.length, pc := pc }
  let s := s.queueEntry c { cause := 0x13, ctx := k, core := true, epc := (s.ctx c (bank k)).regs.pc, val := pc }
  match l with
  | a :: _ :: b :: _ => if a - b < 940000000 && !(s.core c).retired then s.retireCore c else s
  | _ => s

/-- A rollback event: uncorrectable data in what the core itself holds, a word marked before or one found now, at an address the spec
does not give, with its record; or a persistent mismatch (R300, R301, R303; log 2). It waits for stores to a busy tile (log 107). -/
def execRollback (core : CoreId) (ctx : CtxId) (persist : Bool) (s : State) : Out :=
  .next (
    let x := s.ctx core (bank ctx)
    if x.gone || s.rollbackWaits core ctx then s
    else if persist then s.persist core ctx
    else match s.spoilt.find? (fun e => e.1 = dieOf core) with
    | some e => ({ s with spoilt := s.spoilt.erase e }).rollbackEvent core ctx e.2
    | none =>
      let a := Config.freeWord s.fresh
      let cls := if x.rollsBack || x.badVerif.isSome then 1 else 2
      (({ s with fresh := s.fresh + 1 }).log (dieOf core)
        { kind := 0x02, cls := cls, core := some core, ctx := ctx.val, tag := x.regs.tag, part := some (s.partOf x.regs.tag)
          region := x.regs.region, addr := a, pc := x.regs.pc }).rollbackEvent core ctx a)

/-- The retry after a mismatch matches: its record, and nothing else but time (R298). -/
def State.checkRetry (s : State) (c : CoreId) (k : CtxId) : State :=
  let r := (s.ctx c (bank k)).regs
  s.log (dieOf c) { kind := 0x03, cls := 0, core := some c, ctx := k.val, tag := r.tag, part := some (s.partOf r.tag)
                    region := r.region, pc := r.pc }

/-! ### Errors of SRAM words (R300) -/

/-- The die a site stands on. -/
def SoftSite.die : SoftSite → DieId
  | .mem pa => lineDie pa
  | .scratch c _ => dieOf c
  | .acc t _ => troupeDie t
  | .other d => d

/-- The core a record of the site names: that whose scratchpad holds the word (R307). -/
def SoftSite.core : SoftSite → Option CoreId
  | .scratch c _ => some c
  | _ => none

/-- Marks a unit poisoned. -/
def hitUnit (l : List Nat) (off : Nat) : List Nat := if l.contains (off / 8 * 8) then l else off / 8 * 8 :: l

/-- An error found in a word of memory by a read, or in an SRAM word: a correctable one is corrected; an uncorrectable one is marked
poisoned; each has its record. SRAM has no physical address, and the spec numbers no structure: ADDR is there a free value, by which
the word of another structure stays marked (R222, R300, R307; log 112). -/
def State.softError (s : State) (site : SoftSite) (o : EccOutcome) : State :=
  let d := site.die
  let (s, a) : State × Word := match site with
    | .mem pa => (s, at' (pa / 8 * 8) 0)
    | _ => ({ s with fresh := s.fresh + 1 }, Config.freeWord s.fresh)
  let held : Bool := match site with | .mem pa => homeOf pa = .dram || homeOf pa = .vault | _ => true
  if !held then s else
  match o with
  | .clean => s
  | .corrected b => s.log d { kind := 0x01, cls := 0, core := site.core, detail := b, addr := a }
  | .uncorrectable =>
    let s := match site with
      | .mem pa => { s with poison := hitUnit s.poison pa }
      | .scratch c off => s.updCore c (fun q => { q with scratchPoison := hitUnit q.scratchPoison (off % 0x20000) })
      | .acc t off => s.updTroupe t (fun x => { x with accPoison := hitUnit x.accPoison (off % 0x40000) })
      | .other d => { s with spoilt := (d, a) :: s.spoilt }
    s.log d { kind := 0x02, cls := 1, core := site.core, addr := a }

/-! ### The patrol scrub (R300) -/

/-- What the patrol does with what it finds in a word. -/
def State.scrubbed (s : State) (u : Nat) (o : EccOutcome) (injected : Bool) : State :=
  match o with
  | .clean => s
  | .corrected b => s.log (lineDie u) { kind := 0x01, cls := 0, injected := injected, detail := b, addr := at' u 0 }
  | .uncorrectable =>
    if s.poison.contains u then s
    else ({ s with poison := u :: s.poison }).log (lineDie u)
      { kind := 0x02, cls := 1, injected := injected, detail := 1, addr := at' u 0 }

def execPatrolScrub (pa : Nat) (o : EccOutcome) (s : State) : Out :=
  .next (
    let u := pa / 8 * 8
    if homeOf u ≠ .dram && homeOf u ≠ .vault then s
    else match s.injection u 8 with
    | none => s.scrubbed u o false
    | some (c, ty) =>
      let a := (s.core c).einja.toNat / 8 * 8
      let s := s.updCore c (fun q => { q with einjArm := false, einjFired := true })
      match ty.toNat with
      | 0 => { s.scrubbed a (.corrected ((Config.freeWord s.fresh).toNat % 64)) true with fresh := s.fresh + 1 }
      | 1 => s.scrubbed a .uncorrectable true
      | _ => s)

end Sys2Proof.Machine
end

