-- ==== Sys2Proof/Machine/Cue.lean ====
section
/-!
DEFINITION. Cues, their emission, posts to the host and the counter-based generator (R206 to R211, R308, R313, R314).
-/

namespace Sys2Proof.Machine

/-! ### Cue numbers and streams (R206, R308) -/

def cueNumber (d : DieId) (slot ord : Nat) : Word := at' ord 0 ||| at' slot 48 ||| at' d.val 60

/-- The stream of a sequence that takes cues, else one that has ended. -/
def Die.sequence (x : Die) (seqid : BitVec 32) : Option (Nat × CueStream) :=
  match x.streams.find? (fun e => e.2.seqid = seqid && !e.2.ended) with
  | some e => some e
  | none => x.streams.find? (fun e => e.2.seqid = seqid)

def CueStream.cue? (q : CueStream) (ord : Nat) : Option Cue := q.cues.find? (fun c => c.ord = ord)

/-- The stream and cue a cue number names. -/
def State.cueOf (s : State) (n : Word) : Option (DieId × Nat × CueStream × Cue) :=
  let d : DieId := ⟨(n.extractLsb' 60 2).toNat, (n.extractLsb' 60 2).isLt⟩
  if fld n 62 2 ≠ 0 then none
  else match lookup s.dies[d].streams (fld n 48 12) with
  | some q => (q.cue? (fld n 0 48)).map (fun c => (d, fld n 48 12, q, c))
  | none => none

def State.setCueStream (s : State) (d : DieId) (slot : Nat) (q : CueStream) : State :=
  s.updDie d (fun x => { x with streams := insert x.streams slot q })

/-- A cue unit sends a message to an understudy, in one flit of VC 0 (R309, R332). -/
def State.sendCue (s : State) (endpoint : BitVec 48) (d : DieId) (slot : Nat) (m : CueMessage) : State :=
  let s := s.updHost (fun h => { h with cueSends := h.cueSends ++ [{ endpoint := endpoint, die := d, slot := slot, body := m }] })
  match s.host.linkTo endpoint 0 with
  | some k => s.updLink k (fun l => l.enqueue 0 [3])
  | none => s

/-- Sends a flit of a stream's entries, sealed under its partition's journal key (R308, R309). -/
def State.sendFlitOf (s : State) (d : DieId) (slot : Nat) (q : CueStream) (f : CueFlit) : State :=
  s.sendCue q.ustudy d slot (.entries f.first f.last s.partitions[q.part].journalKey)

/-- The stream takes no further cue; an ACTIVE or REPLAY one shows ENDED (R308). -/
def CueStream.close (q : CueStream) : CueStream :=
  { q with ended := true, state := if q.state = .active || q.state = .replay then .ended else q.state }

/-- Room for one more unacknowledged cue in the window of 256. -/
def CueStream.window (q : CueStream) : Bool := q.nextOrd - q.ackOrd < 256
/-- Room in the retention area. -/
def CueStream.retains (q : CueStream) : Bool := q.cues.length < q.retainSize / 32

/-- Appends a cue: ordinal NEXTORD, its entry written to RETAIN at the ring place of its ordinal (R309; log 31). -/
def State.appendCue (s : State) (d : DieId) (slot : Nat) (q : CueStream) (e : Vector Word 4) : State :=
  let c : Cue := { ord := q.nextOrd, entry := e, emitted := false, replayed := false }
  let q' : CueStream := { q with
    nextOrd := q.nextOrd + 1, cues := q.cues ++ [c], retainFull := false
    firstClock := if q.unsent = q.nextOrd then s.clock else q.firstClock }
  (s.writePhys (q.retainBase + 32 * (q.nextOrd % (q.retainSize / 32))) (bytesOfSlots e.toList) none).setCueStream d slot q'

/-- The journal of a stream registered in replay is still to be loaded (R313). -/
def State.journalDue (s : State) (d : DieId) (slot : Nat) : Bool :=
  s.host.transfers.any (fun t => match t.body with | .journal d' slot' _ => d' = d && slot' = slot | _ => false)

/-! ### CUE (R208) -/

/-- The wait for room: PARKED, the instruction unissued; a full retention area is recorded once (R208, R308, R370). -/
def State.cueWait (s : State) (d : DieId) (slot : Nat) (q : CueStream) : State :=
  let s := if !q.retains && !q.retainFull then
      (s.setCueStream d slot { q with retainFull := true }).log d { kind := 0x17, cls := 6, part := some q.part, data := BitVec.ofNat 64 slot }
    else s
  s.updMe (fun x => { x with state := .parked, wait := some (.reissue false) })

def Regs.setCueSlots (r : Regs) (a : Fin 32) (e : Vector Word 4) : Regs :=
  ((r.setG (Fin.ofNat 32 (a.val + 1)) e[1]).setG (Fin.ofNat 32 (a.val + 2)) e[2]).setG (Fin.ofNat 32 (a.val + 3)) e[3]

/-- CUE and CUEV past their operands (R206, R208). On a stream in REPLAY whose journal is still being read the CUE waits PARKED, which
the spec does not say (DESIGN CHOICE; log 133). -/
def State.cueStep (s : State) (i : Instr) (d : GReg) (a : Fin 32) : Except Stop State :=
  let r := s.regs.range a.val 4
  let e : Vector Word 4 := Vector.ofFn (fun k => r.getD k.val 0)
  let die := dieOf s.turn.core
  match s.dies[die].sequence (e[0].setWidth 32) with
  | none => .error (.trap 0x06 (zext e[0] 32))
  | some (slot, q) =>
    if q.part ≠ s.partOf s.regs.tag || q.ended then .error (.trap 0x06 (zext e[0] 32))
    else if e[1] >>> 34 ≠ 0 then .error (.trap 0x01 i.baseWord)
    else
      let mode := s.regs.rplyMode
      match mode, q.journal with
      | true, ord :: rest =>
        let j := (q.cue? ord).getD { ord := ord, entry := e, emitted := false, replayed := true }
        let s := if j.entry ≠ e then
            (s.updRegs (fun r => { r with rplyMismatch := true })).log die
              { kind := 0x15, cls := 6, core := some s.turn.core, ctx := s.myCtx.val, tag := s.regs.tag, part := some q.part
                region := s.regs.region, pc := s.regs.pc, data := cueNumber die slot ord }
          else s
        let q : CueStream := { q with journal := rest }
        let s := s.setCueStream die slot (if bit j.entry[1] 33 then q.close else q)
        .ok (((s.updRegs (fun r => r.setCueSlots a j.entry)).writeG d (cueNumber die slot ord)).noRestore)
      | _, _ =>
        if s.journalDue die slot then .error (.halt (s.updMe (fun x => { x with state := .parked, wait := some (.reissue false) })))
        else
        let s := if mode then s.updRegs (fun r => { r with rplyBeyond := true }) else s
        if !q.window || !q.retains then .error (.halt (s.cueWait die slot q))
        else
          let q' : CueStream := if bit e[1] 33 then q.close else q
          .ok (((s.appendCue die slot q' e).writeG d (cueNumber die slot q.nextOrd)).noRestore)

def execCue (w : Pre) (d : GReg) (a : Fin 32) (s : State) : Out :=
  let i : Instr := .cue w d a
  runInstr i w { dst := some d, reads := rangeRefs a.val 4, writes := d.refs ++ rangeRefs a.val 4, long := true }
    (fun _ s => s.cueStep i d a) s

/-! ### EMIT (R209) -/

/-- The output record of a cue. -/
def outRecord (n : Word) (c : Cue) : Vector Word 4 := #v[c.entry[0], c.entry[1] ||| atB c.replayed 34, n, 0]

/-- Once the cue and every earlier one is durable and the thread's stores have performed, the record is posted. -/
def State.emitPoll (s : State) (n : Word) : Option (Except Stop State) :=
  match s.cueOf n with
  | none => some (.error (.trap 0x06 n))
  | some (d, slot, q, c) =>
    if q.ackOrd ≤ c.ord then none
    else match s.drainMe with
    | .error _ => none
    | .ok s =>
      if s.canPost (dieOf s.turn.core) q.outq then
        let q' : CueStream := { q with cues := q.cues.map (fun x => if x.ord = c.ord then { x with emitted := true } else x) }
        some (.ok ((s.setCueStream d slot q').post (dieOf s.turn.core) q.outq (outRecord n c) (some n)))
      else none

def execEmit (w : Pre) (a b : GReg) (s : State) : Out :=
  let i : Instr := .emit w a b
  keptOp i w { srcs := [a, b], reads := a.refs ++ b.refs }
    (fun x => .cue i x.1 x.2) (fun x => match x with | .cue j n t => if j = i then some (n, t) else none | _ => none)
    (fun vs s =>
      match s.cueOf (v0 vs) with
      | none => .error (.trap 0x06 (v0 vs))
      | some (_, _, q, c) =>
        if q.part ≠ s.partOf s.regs.tag || c.emitted || zext (v1 vs) 32 ≠ zext c.entry[1] 32 then .error (.trap 0x06 (v0 vs))
        else do
          let s ← s.commitPoint
          .ok (s, (v0 vs, v1 vs)))
    (fun x s => s.emitPoll x.1) s

/-! ### HPOST, RNG (R210, R211) -/

def execHpost (w : Pre) (a : GReg) (b : Fin 32) (s : State) : Out :=
  let i : Instr := .hpost w a b
  runInstr i w { srcs := [a], reads := a.refs ++ rangeRefs b.val 4 }
    (fun vs s =>
      if h : (v0 vs).toNat < 32 then
        let q : QueueId := ⟨(v0 vs).toNat, h⟩
        if s.host.cplq[q].func ≠ funcOf (s.partOf s.regs.tag) then .error (.trap 0x06 (v0 vs))
        else do
          let s ← s.releaseMe
          if !s.canPost (dieOf s.turn.core) q then blocked
          else
            let r := s.regs.range b.val 4
            .ok ((s.post (dieOf s.turn.core) q (Vector.ofFn (fun k => r.getD k.val 0)) none).noRestore)
      else .error (.trap 0x01 i.baseWord)) s

/-- The generator of R211. -/
def rngValue (seed counter : Word) : Word :=
  let z := seed + (counter + 1) * 0x9E3779B97F4A7C15
  let z := (z ^^^ (z >>> 30)) * 0xBF58476D1CE4E5B9
  let z := (z ^^^ (z >>> 27)) * 0x94D049BB133111EB
  z ^^^ (z >>> 31)

def execRng (w : Pre) (d a b : GReg) (s : State) : Out := gOp3 (.rng w d a b) w d a b true rngValue s

end Sys2Proof.Machine
end

