-- ==== Sys2Proof/Machine/CueUnit.lean ====
section
/-!
DEFINITION. The cue unit of a die: flits to the understudy, acknowledgements, resending and loss (R309, R311).
-/

namespace Sys2Proof.Machine

/-- The flit that holds the cues from an ordinal on, at most seven. -/
def flitFrom (now first next : Nat) : CueFlit := { first := first, last := min (first + 6) (next - 1), sent := now, resends := 0 }

/-- A flit leaves once it holds seven cues or its first has waited 940 clocks; an unreachable understudy loses the
stream. -/
def execCueFlitSend (die : DieId) (slot : Nat) (s : State) : Out :=
  .next (match lookup s.dies[die].streams slot with
    | some q =>
      if q.state = .lost || q.nextOrd ≤ q.unsent then s
      else if !s.host.reaches q.ustudy 0 then s.loseStream die slot
      else if q.unsent + 7 ≤ q.nextOrd || q.firstClock + 940 ≤ s.clock then
        let f := flitFrom s.clock q.unsent q.nextOrd
        (s.sendFlitOf die slot q f).setCueStream die slot { q with flits := q.flits ++ [f], unsent := f.last + 1, firstClock := s.clock }
      else s
    | none => s)

/-- A cumulative acknowledgement. The understudy acknowledges what it was sent; any other is discarded (log 39). -/
def execCueAck (die : DieId) (slot : Nat) (endpoint : BitVec 48) (m : Nat) (s : State) : Out :=
  .next (match lookup s.dies[die].streams slot with
    | some q =>
      if q.ustudy = endpoint && q.ackOrd ≤ m && m < q.unsent then
        s.setCueStream die slot { q with ackOrd := m + 1, acked := s.clock, flits := q.flits.filter (fun f => m < f.last) }
      else s
    | none => s)

/-- The oldest flit without an acknowledgement for 94,000 clocks is resent; the stream is LOST where its third resend has had none
that advances ACKORD since. -/
def execCueFlitResend (die : DieId) (slot : Nat) (s : State) : Out :=
  .next (match lookup s.dies[die].streams slot with
    | some q =>
      match q.state, q.flits.find? (fun f => f.sent + 94000 ≤ s.clock) with
      | .lost, _ => s
      | _, some f =>
        if 3 ≤ f.resends && q.acked ≤ f.sent then s.loseStream die slot
        else
          let again (g : CueFlit) : CueFlit := if g = f then { g with sent := s.clock, resends := g.resends + 1 } else g
          (s.sendFlitOf die slot q f).setCueStream die slot { q with flits := q.flits.map again }
      | _, none => s
    | none => s)

end Sys2Proof.Machine
end

