-- ==== Sys2Proof/Machine/Launch.lean ====
section
/-!
DEFINITION. Memory of a domain as a stage manager reaches it, and LAUNCH (R257 to R260, R318, R326).
-/

namespace Sys2Proof.Machine

/-! ### Memory of a domain -/

/-- The cluster through whose translation block a stage manager walks for a domain: the lowest one assigned to the
domain's partition (log 43). -/
def State.domCluster (s : State) (t : Tag) : ClusterId :=
  ((List.finRange 128).find? (fun c => s.partitions[s.partOf t].clusters.getLsbD c.val)).getD 0

def State.domGrants (s : State) (t : Tag) (a : Nat) (kind : Kind) : Bool :=
  !inMonitorRange a && (s.windowsOf t).any (fun w => w.grants a false kind t)

/-- Why a stage manager's access to a domain's memory fails: a translation fault with its code, or another refusal (R238). -/
inductive DomFault where
  | code (c : BitVec 2)
  | other
  deriving DecidableEq, Repr

/-- The walk for a domain's address; a read of it that fires an armed injection is made again (R221). -/
def State.domWalk (s : State) (t : Tag) (va : Nat) : Nat → State × Except WalkFault Leaf
  | 0 => (s, .error (.code 2))
  | n + 1 =>
    match s.walkIn (s.domCluster t) (fun a => s.domGrants t a .load) t va with
    | .ok (l, _) => (s, .ok l)
    | .error (.fire pa) =>
      match s.fireWalk pa with
      | (s, true) => (s, .error (.integrity (pa / 64 * 64)))
      | (s, false) => s.domWalk t va n
    | .error e => (s, .error e)

/-- The physical address behind a domain's global address and whether its page is protected. -/
def State.domPlace (s : State) (t : Tag) (va : Nat) (kind : Kind) : State × Except DomFault (Nat × Bool) :=
  if 2 ^ 56 ≤ va then (s, .error .other)
  else match s.domWalk t va (s.listedCores.length + 1) with
  | (s, .ok l) =>
    let pa := l.pa + va % l.size
    if !l.permits kind then (s, .error (.code 1))
    else if l.ty.toNat < 2 && homeOf pa ≠ .none && s.domGrants t pa kind then (s, .ok (pa, l.prot))
    else (s, .error .other)
  | (s, .error (.code c)) => (s, .error (.code c))
  | (s, .error _) => (s, .error .other)

/-- Bytes of a domain's memory, all of them readable, whole and verified. -/
def State.domRead (s : State) (t : Tag) (va n : Nat) : State × Option (List Byte) :=
  ((linesOf va n).map (fun g => (max g va, min (g + 64) (va + n) - max g va))).foldl (fun r x =>
    match r.2 with
    | none => r
    | some bs =>
      match r.1.domPlace t x.1 .load with
      | (s, .error _) => (s, none)
      | (s, .ok (pa, prot)) =>
        let (s, _, mac) := s.inject pa x.2
        if (poisonedIn s.poison pa x.2).isSome || (prot && (mac || !s.macOk pa t)) then (s, none)
        else (s, some (bs ++ s.readPlace (.phys pa) (protTag prot t) x.2))) (s, some [])

/-! ### The choice (R257, R258) -/

/-- A LAUNCH packet's fields. -/
def Packet.region (p : Packet) : BitVec 32 := (p.sl 3).setWidth 32
def Packet.nsh (p : Packet) : Nat := fld (p.sl 3) 32 4
def Packet.shape (p : Packet) (j : Nat) : Nat := fld (p.sl (4 + j / 2)) (32 * (j % 2)) 32

/-- Slot 8 and the slots after it are well formed. -/
def bucketOk (b : List Word) : Bool :=
  let w := b.getD 8 0
  fld w 0 32 ≠ 0 && !bit w 0 && w >>> 35 = 0 && (b.drop 9).all (· = 0)

def bucketMatches (p : Packet) (b : List Word) : Bool :=
  bucketOk b && (List.range p.nsh).all (fun j => fld (b.getD j 0) 0 32 ≤ p.shape j && p.shape j ≤ fld (b.getD j 0) 32 32)

def State.bucket (s : State) (t : Tag) (base b : Nat) : State × Option (List Word) :=
  let r := s.domRead t (base + 64 + 128 * b) 128
  (r.1, r.2.map (slotsOf · 16))

/-- The first n buckets of a table. -/
def State.buckets (s : State) (t : Tag) (base n : Nat) : State × Option (List (List Word)) :=
  (List.range n).foldl (fun r b =>
    match r.2 with
    | none => r
    | some l => let x := r.1.bucket t base b; (x.1, x.2.map (fun w => l ++ [w]))) (s, some [])

/-- The lowest bucket that matches; none where none does or the table cannot be read. A table that is not 64-byte aligned matches
nothing, which the spec does not say (R257; DESIGN CHOICE; log 135). -/
def State.chooseBucket (s : State) (t : Tag) (p : Packet) : State × Option Nat :=
  let base := (p.sl 8).toNat
  if base % 64 ≠ 0 then (s, none)
  else match s.domRead t base 64 with
  | (s, none) => (s, none)
  | (s, some bs) =>
    let h := slotsOf bs 8
    let n := (h.getD 0 0).toNat
    if n = 0 || 32 < n || (h.drop 1).any (· ≠ 0) then (s, none)
    else
      let r := s.buckets t base n
      (r.1, r.2.bind (fun l => l.findIdx? (bucketMatches p)))

/-- The newest retired-core epoch a die has received (R259). -/
def State.epoch (s : State) (d : DieId) : Nat := (s.dies[d].epochs.headD (0, [])).1

/-- The decision of the first die (R256, R258). -/
def State.launchDecision (s : State) (d : DieId) (p : Packet) : State × Word :=
  let r := p.region
  if s.partitions[s.regionPart r].state ≠ .run then (s, atB true 63 ||| atB true 61)
  else match s.chooseBucket (s.regionTag r) p with
  | (s, some b) => (s, atB true 63 ||| at' b 0 ||| at' (s.epoch d % 65536) 32)
  | (s, none) => (s, atB true 63 ||| atB true 62)

/-! ### Seeding (R259, R260) -/

/-- The target set, ascending. -/
def State.targets (s : State) (part : PartId) (mask : Word) (retired : List Nat) : List CoreId :=
  (List.finRange 8192).filter (fun c =>
    s.partitions[part].clusters.getLsbD (c.val / 64) && bit mask (c.val % 64) && !retired.contains c.val)

/-- The launch message for a member of a given rank. -/
def launchMessage (d : DieId) (share : Nat) (p : Packet) (q : QueueId) (tag : Tag) (n rank : Nat) (c : CoreId) : Message :=
  { dest := (BitVec.ofNat 13 c.val : BitVec 13) ++ (0 : BitVec 6)
    header := mkHeader 0 ⟨2048 * d.val, by omega⟩ 4 tag ||| atB true 50
    payload := [BitVec.ofNat 64 rank, BitVec.ofNat 64 n, p.sl 9, at' p.seq.toNat 0 ||| at' q.val 32]
    region := p.region, origin := .stage d share }

/-- A number no share of the die has. -/
def Die.freshShare (x : Die) : Nat := (x.shares.map (fun e => e.1 + 1)).foldl max 0

/-- The die seeds its members; an empty share is done at once. -/
def State.seed (s : State) (d : DieId) (q : QueueId) (p : Packet) (w : Word) (retired : List Nat) : State :=
  let r := p.region
  let tag := s.regionTag r
  match s.bucket tag (p.sl 8).toNat (fld w 0 16) with
  | (s, none) => s.endPart d q p .fault 0
  | (s, some b) =>
    let all := s.targets (s.regionPart r) (p.sl 10) retired
    let mine := all.zipIdx.filter (fun e => dieOf e.1 = d)
    let i := s.dies[d].freshShare
    let h : LaunchShare :=
      { queue := q, seq := p.seq, slots := p.slots, region := r, bucket := BitVec.ofNat 16 (fld w 0 16)
        handler := (b.getD 8 0).setWidth 32, prio := fld (b.getD 8 0) 32 3
        shapes := Vector.ofFn (fun j : Fin 8 => if j.val < p.nsh then BitVec.ofNat 64 (p.shape j.val) else 0)
        left := mine.length, held := [] }
    if mine = [] then s.endPart d q p .ok 0
    else
      let s := (s.setThread d q .idle).updDie d (fun x => { x with shares := insert x.shares i h })
      { s with net := s.net ++ mine.map (fun e => Flight.message none (launchMessage d i p q tag all.length e.2 e.1)) }

/-- A die's share of a decided LAUNCH. A die waits for an epoch it does not hold. -/
def State.launchShare (s : State) (d : DieId) (q : QueueId) (p : Packet) (w : Word) : State :=
  if bit w 61 then s.endPart d q p .refused 0
  else if bit w 62 then s.endPart d q p .noMatch 0
  else match s.dies[d].epochs.find? (fun e => e.1 % 65536 = fld w 32 16) with
  | some e => s.seed d q p w e.2
  | none => s

/-- LAUNCH. A packet with more than eight shapes or an unknown region is a bad argument; a virtual function launches
regions of its own partition only. -/
def execLaunch (die : DieId) (q : QueueId) (s : State) : Out :=
  .next (match s.current die q 0x01 with
    | none => s
    | some p =>
      let fn := s.fnOf q
      let r := p.region
      if 8 < p.nsh || (s.regionPa r).isNone then s.endPart die q p .badArg 0
      else if foreign fn (s.regionPart r) then s.endPart die q p .refused 0
      else
      let s := s.extArm fn p.decision 8
      match s.extWord fn p.decision with
      | none => s.endPart die q p .fault 0
      | some w =>
        if bit w 63 then s.launchShare die q p w
        else
          let (s, w) := s.launchDecision die p
          match s.extWrite fn p.decision (leBytes 8 w.toNat) with
          | none => s.endPart die q p .fault 0
          | some s =>
            let s := if bit w 61 || bit w 62 then
                s.log die { kind := 0x13, cls := 6, tag := s.regionTag r, part := some (s.regionPart r), region := r
                            detail := if bit w 61 then 1 else 0, data := at' p.seq.toNat 0 ||| at' q.val 32 }
              else s
            s.launchShare die q p w)

/-- The refused launch messages of a die go out again, each 256 clocks after it came back (R260). -/
def execLaunchRetry (die : DieId) (s : State) : Out :=
  .next (
    let due (m : Nat × Message) : Bool := m.1 ≤ s.clock
    let out := (s.dies[die].shares.map (fun e => e.2.held.filter due)).flatten
    let keep (e : Nat × LaunchShare) : Nat × LaunchShare := (e.1, { e.2 with held := e.2.held.filter (fun m => !due m) })
    let s := s.updDie die (fun x => { x with shares := x.shares.map keep })
    { s with net := s.net ++ out.map (fun m => Flight.message none m.2) })

/-- A store of an activation that a share counts is still buffered. -/
def State.shareStores (s : State) (die : DieId) (i : Nat) : Bool :=
  s.cores.any (fun e => e.2.ctxs.toList.any (fun x => x.storeBuf.any (fun st => st.launch = some (die, i))))

/-- Every activation of a share has ended: the die releases, which waits for their buffered stores, and adds 1 (R249, R260). -/
def execLaunchShareComplete (die : DieId) (i : Nat) (s : State) : Out :=
  .next (match lookup s.dies[die].shares i with
    | some h =>
      if h.left = 0 && h.held = [] && !s.shareStores die i then
        (s.updDie die (fun x => { x with shares := erase x.shares i })).partDone h.queue h.seq h.slots .ok 0
      else s
    | none => s)

end Sys2Proof.Machine
end

