-- ==== Sys2Proof/Machine/HostCopy.lean ====
section
/-!
DEFINITION. COPY_HOST and PEER_COPY: blocks of 512 bytes with their CRC-32C checks (R326, R333).
-/

namespace Sys2Proof.Machine

/-! ### Blocks of a domain's memory -/

/-- The places of the granules of [va, va + n): physical address, protected, offset, length; or the first address that has
none. A store to a protected line whose engine holds no key has none (R284). -/
def State.blockPlaces (s : State) (t : Tag) (va n : Nat) (kind : Kind) :
    State × Except (Nat × DomFault) (List (Nat × Bool × Nat × Nat)) :=
  (linesOf va n).foldl (fun r g =>
    match r.2 with
    | .error _ => r
    | .ok l =>
      let a := max g va
      match r.1.domPlace t a kind with
      | (s, .error f) => (s, .error (a, f))
      | (s, .ok (pa, prot)) =>
        if prot && kind = .store && (s.engineKey pa t).isNone then (s, .error (a, .other))
        else (s, .ok (l ++ [(pa, prot, a - va, min (g + 64) (va + n) - a)]))) (s, .ok [])

/-- Writes a block; a bad one leaves its words poisoned. -/
def State.putBlock (s : State) (t : Tag) (va : Nat) (bs : List Byte) (good : Bool) : State × Except (Nat × DomFault) Unit :=
  match s.blockPlaces t va bs.length .store with
  | (s, .error f) => (s, .error f)
  | (s, .ok l) =>
    (l.foldl (fun s (x : Nat × Bool × Nat × Nat) =>
      let (pa, prot, off, n) := x
      let s := s.writePhys pa ((bs.drop off).take n) (if prot then some t else none)
      if good then s else { s with poison := (unitsOf pa n).filter (fun u => !s.poison.contains u) ++ s.poison }) s, .ok ())

/-- Reads a block: its bytes, and whether its ECC and MAC checks pass. A word that fails gives free values (log 2). -/
def State.getBlock (s : State) (t : Tag) (va n : Nat) : State × Except (Nat × DomFault) (List Byte × Bool) :=
  match s.blockPlaces t va n .load with
  | (s, .error f) => (s, .error f)
  | (s, .ok l) =>
    let r := l.foldl (fun (r : State × List Byte × Bool) x =>
      let (pa, prot, _, k) := x
      let (s, _, mac) := r.1.inject pa k
      let bad := (poisonedIn s.poison pa k).isSome || (prot && (mac || !s.macOk pa t))
      let bs := if bad then (List.range k).map (fun i => (Config.freeWord (s.fresh + i)).setWidth 8) else s.readPlace (.phys pa) (protTag prot t) k
      ({ s with fresh := if bad then s.fresh + k else s.fresh }, r.2.1 ++ bs, r.2.2 && !bad)) (s, [], true)
    (r.1, .ok r.2)

/-- The CRC word of a block in the array, where one is given. -/
def State.crcWord (s : State) (fn : FuncId) (arr : Word) (i : Nat) : Option (List Byte) := s.extRead fn (arr + BitVec.ofNat 64 (4 * i)) 4

/-- Whether received bytes agree with the array. -/
def State.crcAgrees (s : State) (fn : FuncId) (arr : Word) (i : Nat) (bs : List Byte) : Bool :=
  arr = 0 || s.crcWord fn arr i = some (leBytes 4 (crc32c bs).toNat)

/-- Writes a block's CRC, inverted where a check failed, and says whether the block is good: a CRC that cannot be written makes it
a failed one (R318, R326). -/
def State.putCrc (s : State) (fn : FuncId) (arr : Word) (i : Nat) (bs : List Byte) (good : Bool) : State × Bool :=
  if arr = 0 then (s, good)
  else
    let c := crc32c bs
    match s.extWrite fn (arr + BitVec.ofNat 64 (4 * i)) (leBytes 4 (if good then c else ~~~c).toNat) with
    | some s => (s, good)
    | none => (s, false)

/-- Why a copy stops: a translation fault at an address of a block, or another refusal of the domain's memory. -/
inductive CopyStop where
  | fault (block va : Nat) (write : Bool) (code : BitVec 2)
  | refused
  deriving DecidableEq, Repr

def DomFault.stop (f : DomFault) (block va : Nat) (write : Bool) : CopyStop :=
  match f with
  | .code c => .fault block va write c
  | .other => .refused

/-- Outcome of a copy: blocks failed so far, and what stopped it. -/
structure CopyRun where
  s : State
  failed : Nat
  stop : Option CopyStop

/-- Number and lengths of the blocks of a copy. -/
def blocksOf (len : Nat) : List (Nat × Nat) := (List.range ((len + 511) / 512)).map (fun i => (i, min 512 (len - 512 * i)))

/-- One block toward the device; `got` is what the link delivered. -/
def CopyRun.toDevice (r : CopyRun) (fn : FuncId) (t : Tag) (va : Nat) (arr : Word) (i n : Nat) (got : Option (List Byte)) : CopyRun :=
  let bs := got.getD (List.replicate n 0)
  let good := got.isSome && r.s.crcAgrees fn arr i bs
  match r.s.putBlock t (va + 512 * i) bs good with
  | (s, .ok ()) => { r with s := s, failed := if good then r.failed else r.failed + 1 }
  | (s, .error (a, f)) => { r with s := s, stop := some (f.stop i a true) }

/-- A block has been done, good or failed. -/
def CopyRun.counted (r : CopyRun) (x : State × Bool) : CopyRun :=
  { r with s := x.1, failed := if x.2 then r.failed else r.failed + 1 }

/-- One block toward the host. -/
def CopyRun.toHost (r : CopyRun) (fn : FuncId) (t : Tag) (va : Nat) (host arr : Word) (i n : Nat) (link : LinkAnswer) : CopyRun :=
  match r.s.getBlock t (va + 512 * i) n with
  | (s, .error (a, f)) => { r with s := s, stop := some (f.stop i a false) }
  | (s, .ok (bs, ok)) =>
    match (if link = .ok then s.extWrite fn (host + BitVec.ofNat 64 (512 * i)) bs else none) with
    | some s => r.counted (s.putCrc fn arr i bs ok)
    | none => r.counted (s.putCrc fn arr i bs false)

def Packet.copyRegion (p : Packet) : BitVec 32 := (p.sl 5).setWidth 32

/-- What a copy's packet and its region allow: none, or the status that ends it. -/
def State.copyRefused (s : State) (fn : FuncId) (p : Packet) : Option CmdStatus :=
  if (s.regionPa p.copyRegion).isNone then some .badArg
  else if foreign fn (s.regionPart p.copyRegion) then some .refused
  else none

/-- The status and result of a copy. A translation fault that is not resolved counts no block. -/
def copyResult (failed : Nat) (unresolved : Bool) : CmdStatus × Nat :=
  (if failed = 0 && !unresolved then .ok else .fault, failed)

/-- The blocks of a COPY_HOST from one on; `links` are the link's answers, ok where none is given (log 40). -/
def State.runHost (s : State) (fn : FuncId) (p : Packet) (next failed : Nat) (links : List LinkAnswer) : CopyRun :=
  let (host, va, arr) := (p.sl 3, (p.sl 4).toNat, p.sl 8)
  let t := s.regionTag p.copyRegion
  ((blocksOf (p.sl 6).toNat).drop next).foldl (fun (r : CopyRun) b =>
    let link := links.getD b.1 .ok
    if r.stop.isSome then r
    else if bit (p.sl 7) 0 then r.toHost fn t va host arr b.1 b.2 link
    else r.toDevice fn t va arr b.1 b.2 (if link = .ok then r.s.extRead fn (host + BitVec.ofNat 64 (512 * b.1)) b.2 else none))
    { s := s, failed := failed, stop := none }

/-! ### PEER_COPY (R333) -/

/-- Bytes of one transfer: 255 data flits. -/
def transferBytes : Nat := 65280

/-- Queues a transfer on a link under a new TAG. -/
def State.transfer (s : State) (k : Fin 16) (b : TransferBody) : State × Word :=
  let tag := BitVec.ofNat 64 s.host.nextTag
  let t : Transfer := { tag := tag, link := k, body := b, src := Config.endpointId }
  let s := s.updHost (fun h => { h with nextTag := h.nextTag + 1, transfers := h.transfers ++ [t] })
  (s.updLink k (fun l => l.enqueue 1 b.kinds), tag)

/-- Queues transfers in order, with their TAGs. -/
def State.transferAll (s : State) (k : Fin 16) (l : List TransferBody) : State × List Word :=
  l.foldl (fun r b => let x := r.1.transfer k b; (x.1, r.2 ++ [x.2])) (s, [])

/-- The pieces of a copy that one transfer carries: offset in the copy and length. -/
def chunksOf (len : Nat) : List (Nat × Nat) :=
  (List.range ((len + transferBytes - 1) / transferBytes)).map (fun i => (transferBytes * i, min transferBytes (len - transferBytes * i)))

/-- Reads every block toward the peer, with its CRCs, and the bytes. -/
def State.peerBytes (s : State) (fn : FuncId) (t : Tag) (va len : Nat) (arr : Word) : CopyRun × List Byte :=
  (blocksOf len).foldl (fun (r : CopyRun × List Byte) b =>
    if r.1.stop.isSome then r
    else match r.1.s.getBlock t (va + 512 * b.1) b.2 with
    | (s, .error (a, f)) => ({ r.1 with s := s, stop := some (f.stop b.1 a false) }, r.2)
    | (s, .ok (bs, ok)) =>
      (r.1.counted (s.putCrc fn arr b.1 bs ok), r.2 ++ bs))
    ({ s := s, failed := 0, stop := none }, [])

/-- Starts the wait for the answers of a PEER_COPY's transfers. -/
def State.peerJob (s : State) (d : DieId) (q : QueueId) (p : Packet) (tags : List Word) (failed : Nat) : State :=
  s.updHost (fun h => { h with jobs := h.jobs ++ [{ die := d, queue := q, packet := p, tags := tags, failed := failed }] })

/-- A transfer of a PEER_COPY has been answered; the last one completes the command. -/
def State.peerAnswered (s : State) (tag : Word) (failed : Nat) (fault : Bool) : State :=
  match s.host.jobs.find? (fun j => j.tags.contains tag) with
  | none => s
  | some j =>
    let j' : PeerJob := { j with tags := j.tags.filter (· ≠ tag), failed := j.failed + failed, fault := j.fault || fault }
    let rest := s.host.jobs.filter (fun x => !x.tags.contains tag)
    if j'.tags = [] then
      let r := copyResult j'.failed j'.fault
      (s.updHost (fun h => { h with jobs := rest })).endOne j.queue j.packet.slots r.1 r.2
    else s.updHost (fun h => { h with jobs := rest ++ [j'] })

/-! ### Translation faults of copies (R238, R326) -/

/-- How a piece of a copy ends: the command is done, it goes on by other events, or a translation fault stops it, with what is
left to do. -/
inductive WorkEnd where
  | done (st : CmdStatus) (result : Nat)
  | going
  | fault (work : CopyWork) (va : Nat) (write : Bool) (code : BitVec 2)
  deriving DecidableEq, Repr

/-- Does what a copy still has to do. -/
def State.runWork (s : State) (d : DieId) (q : QueueId) (p : Packet) (w : CopyWork) : State × WorkEnd :=
  let fn := s.fnOf q
  let t := s.regionTag p.copyRegion
  let (va, len, arr, at0) := ((p.sl 4).toNat, (p.sl 6).toNat, p.sl 8, (p.sl 9).toNat)
  match w with
  | .host next failed links =>
    let r := s.runHost fn p next failed links
    match r.stop with
    | some (.fault i a wr c) => (r.s, .fault (.host i r.failed links) a wr c)
    | x => let e := copyResult r.failed x.isSome; (r.s, .done e.1 e.2)
  | .peerOut =>
    match s.host.linkTo ((p.sl 3).setWidth 48) 2 with
    | none => (s, .done .fault 0)
    | some k =>
      let (r, bs) := s.peerBytes fn t va len arr
      match r.stop with
      | some (.fault _ a wr c) => (r.s, .fault .peerOut a wr c)
      | some .refused => (r.s, .done .fault r.failed)
      | none =>
        let (s, tags) := r.s.transferAll k ((chunksOf len).map (fun c => .write (at0 + c.1) ((bs.drop c.1).take c.2)))
        (s.peerJob d q p tags r.failed, .going)
  | .peerIn tag off data next failed =>
    let r := ((blocksOf data.length).drop next).foldl (fun (r : CopyRun) b =>
      if r.stop.isSome then r
      else r.toDevice fn t va arr ((off - at0) / 512 + b.1) b.2 (some ((data.drop (512 * b.1)).take b.2)))
      { s := s, failed := failed, stop := none }
    match r.stop with
    | some (.fault i a wr c) => (r.s, .fault (.peerIn tag off data (i - (off - at0) / 512) r.failed) a wr c)
    | x => (r.s.peerAnswered tag r.failed x.isSome, .going)

/-- A fault of a copy that is not resolved ends it with FAULT, and counts no block. -/
def State.unresolved (s : State) (q : QueueId) (p : Packet) (w : CopyWork) : State :=
  match w with
  | .host _ failed _ => s.endOne q p.slots .fault failed
  | .peerOut => s.endOne q p.slots .fault 0
  | .peerIn tag _ _ _ failed => s.peerAnswered tag failed true

/-- The fault notice of a copy command: it has no job identifier and no issuing core, for which free values stand; the header
names core 0 of the die as a launch's does (log 115). -/
def copyNotice (j : HostCopy) (dest : BitVec 19) (t : Tag) (id from0 : Word) : Message :=
  { dest := dest, header := mkHeader (chanOfAddr dest) ⟨2048 * j.die.val, by omega⟩ 4 t
    payload := [id, BitVec.ofNat 64 j.fault.va, atB j.fault.write 0 ||| atB true 1 ||| at' j.fault.code.toNat 2,
      (from0 &&& 0x7FFC0) ||| at' j.packet.copyRegion.toNat 32]
    region := j.packet.copyRegion, origin := .hostCopy j.num }

def State.updCopy (s : State) (num : Nat) (f : HostCopy → HostCopy) : State :=
  s.updHost (fun h => { h with copies := h.copies.map (fun j => if j.num = num then f j else j) })

/-- Sends the notice of a suspended copy that has none out; a refused one goes again 256 clocks later. -/
def State.notifyCopy (s : State) (j : HostCopy) : State :=
  let r := j.packet.copyRegion
  match j.fault.noticed || s.clock < j.fault.again, s.regionFsvc r with
  | false, some a =>
    ((({ s with fresh := s.fresh + 2 } : State).updCopy j.num (fun j => { j with fault := { j.fault with noticed := true } }))).send
      (.message none (copyNotice j a (s.regionTag r) (Config.freeWord s.fresh) (Config.freeWord (s.fresh + 1))))
  | _, _ => s

/-- What follows a piece of a copy: its completion, or its suspension, with the fault it had before where it is the same one;
a region without a fault service leaves it unresolved at once. -/
def State.afterWork (s : State) (d : DieId) (q : QueueId) (p : Packet) (e : WorkEnd) (old : Option HostCopy) : State :=
  match e with
  | .done st r => s.endOne q p.slots st r
  | .going => s
  | .fault w va wr c =>
    if (s.regionFsvc p.copyRegion).isNone then s.unresolved q p w
    else
      let new : JobFault := { va := va, write := wr, code := c, since := s.clock, noticed := false, again := 0, walked := s.clock }
      let f := match old with
        | some j => if j.fault.va = va && j.fault.write = wr then { j.fault with code := c, walked := s.clock } else new
        | none => new
      let j : HostCopy := { num := s.host.nextCopy, die := d, queue := q, packet := p, work := w, fault := f }
      let j := match old with | some o => { j with num := o.num } | none => j
      (s.updHost (fun h => { h with copies := h.copies ++ [j], nextCopy := if old.isSome then h.nextCopy else h.nextCopy + 1 })).notifyCopy j

/-- The fault path of a suspended copy: a walk every 1,024 clocks, which lets it go on; after 1,048,576 clocks it is
unresolved (R238). -/
def State.serveCopy (s : State) (num : Nat) : State :=
  match s.host.copies.find? (fun j => j.num = num) with
  | none => s
  | some j =>
    let out := s.updHost (fun h => { h with copies := h.copies.filter (fun k => k.num ≠ num) })
    if j.fault.since + 1048576 ≤ s.clock then out.unresolved j.queue j.packet j.work
    else if s.clock < j.fault.walked + 1024 then s.notifyCopy j
    else
      let r := out.runWork j.die j.queue j.packet j.work
      r.1.afterWork j.die j.queue j.packet r.2 (some j)

/-! ### The commands -/

/-- COPY_HOST (R326). -/
def execCopyHost (die : DieId) (q : QueueId) (links : List LinkAnswer) (s : State) : Out :=
  .next (s.perform1 die q 0x06 (fun s p =>
    match s.copyRefused (s.fnOf q) p with
    | some st => (s, some (st, 0))
    | none =>
      if !bit (p.sl 3) 63 then (s, some (.badArg, 0))
      else
        let r := s.runWork die q p (.host 0 0 links)
        (r.1.afterWork die q p r.2 none, none)))

/-- PEER_COPY: its transfers go out; it completes when all have been answered (log 44). A virtual function's endpoint must be
one of its partition's (R322; log 113). -/
def execPeerCopy (die : DieId) (q : QueueId) (s : State) : Out :=
  .next (s.perform1 die q 0x11 (fun s p =>
    let (len, off, ep) := ((p.sl 6).toNat, (p.sl 9).toNat, (p.sl 3).setWidth 48)
    match s.copyRefused (s.fnOf q) p with
    | some st => (s, some (st, 0))
    | none =>
      if (partOfFunc (s.fnOf q)).any (fun o => !Config.endpointOf o.val ep) then (s, some (.refused, 0))
      else if off % 256 ≠ 0 then (s, some (.badArg, 0))
      else match s.host.linkTo ep 2 with
      | none => (s, some (.fault, 0))
      | some k =>
        if len = 0 then (s, some (.ok, 0))
        else if bit (p.sl 7) 0 then
          let r := s.runWork die q p .peerOut
          (r.1.afterWork die q p r.2 none, none)
        else
          let (s, tags) := s.transferAll k ((chunksOf len).map (fun c => .read (off + c.1) c.2))
          (s.peerJob die q p tags 0, none)))

/-- READ_DATA of a PEER_COPY goes to the device, block by block. -/
def State.peerData (s : State) (tag : Word) (off : Nat) (data : List Byte) : State :=
  match s.host.jobs.find? (fun j => j.tags.contains tag) with
  | none => s
  | some j =>
    let r := s.runWork j.die j.queue j.packet (.peerIn tag off data 0 0)
    r.1.afterWork j.die j.queue j.packet r.2 none

end Sys2Proof.Machine
end

