-- ==== Sys2Proof/Machine/Streams.lean ====
section
/-!
DEFINITION. REGISTER, REASSIGN and TRUNC of cue streams (R308, R310, R312, R313, R322).
-/

namespace Sys2Proof.Machine

/-! ### REGISTER (R308, R313) -/

def lowestSlot (x : Die) : Option Nat := (List.range 4096).find? (fun i => (lookup x.streams i).isNone)

/-- A stream just registered. -/
def newStream (p : Packet) (part : PartId) (state : StreamState) : CueStream :=
  { seqid := (p.sl 3).setWidth 32, part := part, outq := ⟨((p.sl 3).extractLsb' 32 5).toNat, ((p.sl 3).extractLsb' 32 5).isLt⟩
    ustudy := (p.sl 4).setWidth 48, state := state, ended := false, nextOrd := 0, ackOrd := 0, truncOrd := none, ckref := 0
    ckord := none, retainBase := (p.sl 5).toNat, retainSize := (p.sl 6).toNat, retainFull := false, cues := [], journal := []
    unsent := 0, firstClock := 0, flits := [], acked := 0, truncPos := none }

/-- The retention area is device memory in DRAM that the partition may write. -/
def State.retainOk (s : State) (fn : FuncId) (base size : Word) : Bool :=
  size = 0 || (homeOf base.toNat = .dram && (s.extPa fn base size.toNat .store).isSome)

/-- The journal of a stream registered in replay is read from the understudy, from an ordinal on (R313; log 41). -/
def State.loadJournal (s : State) (d : DieId) (slot : Nat) (ustudy : BitVec 48) (first : Nat) : State :=
  match s.host.linkTo ustudy 0 with
  | some k => (s.transfer k (.journal d slot first)).1
  | none => (s.transfer 0 (.journal d slot first)).1.loseStream d slot

/-- CKREF and CKORD that the checkpoint last loaded gives a sequence; none where it does not hold it (R313). -/
def State.checkpointOf (s : State) (seqid : BitVec 32) : Option (Word × Option Nat) :=
  s.host.loaded.bind (fun e => (lookup e.2.ckords seqid.toNat).map (fun o => (e.1, o)))

def State.registerStream (s : State) (fn : FuncId) (p : Packet) (part : PartId) : State × Option (CmdStatus × Nat) :=
  let d : DieId := ⟨((p.sl 3).extractLsb' 37 2).toNat, ((p.sl 3).extractLsb' 37 2).isLt⟩
  let q := newStream p part .active
  let held := s.dies[d].streams.any (fun e => e.2.seqid = q.seqid && !e.2.ended)
  if (p.sl 5).toNat % 32 ≠ 0 || (p.sl 6).toNat % 32 ≠ 0 then (s, some (.badArg, 0))
  else if !s.retainOk fn (p.sl 5) (p.sl 6) then (s, some (.fault, 0))
  else if held || s.host.cplq[q.outq].func ≠ fn then (s, some (.refused, 0))
  else match lowestSlot s.dies[d] with
  | none => (s, some (.refused, 0))
  | some i =>
    -- in replay: the loaded checkpoint holds the sequence, or the partition is in replay mode (log 41)
    let ck := s.checkpointOf q.seqid
    let s := if ck.isSome || s.partitions[part].replay then
        let (ref, ord) := ck.getD (0, none)
        (s.setCueStream d i { q with state := .replay, ckref := ref, ckord := ord }).loadJournal d i q.ustudy
          (match ord with | some n => n + 1 | none => 0)
      else s.setCueStream d i q
    (s, some (.ok, i + 4096 * d.val))

def execRegister (die : DieId) (q : QueueId) (s : State) : Out :=
  .next (s.perform1Own die q 0x0C (fun s p part => s.registerStream (s.fnOf q) p part))

/-- A journal opens under the journal key of the stream's partition: the key that seals it stands first (R308; log 41). -/
def State.journalOpens (s : State) (d : DieId) (slot : Nat) (data : List Byte) : Bool :=
  match lookup s.dies[d].streams slot with
  | none => true
  | some q => data.take 32 = bytes256 s.partitions[q.part].journalKey

/-- The journal of a stream has been read: an ordinal, then the entries from it on. They are durable, stand in RETAIN,
and NEXTORD goes on behind the last (R308, R313). -/
def State.journalLoaded (s : State) (d : DieId) (slot : Nat) (data : List Byte) : State :=
  let data := data.drop 32
  match lookup s.dies[d].streams slot with
  | none => s
  | some q =>
    let first := leNat (data.take 8)
    let n := (data.length - 8) / 32
    let entry (i : Nat) : Vector Word 4 :=
      let ws := slotsOf (data.drop (8 + 32 * i)) 4
      Vector.ofFn (fun k : Fin 4 => ws.getD k.val 0)
    let cues := (List.range n).map (fun i => ({ ord := first + i, entry := entry i, emitted := false, replayed := true } : Cue))
    let before : Option Nat := if first = 0 then none else some (first - 1)
    let next := first + n
    let q : CueStream := { q with
      nextOrd := next, ackOrd := next, truncOrd := before, ckord := before, cues := cues, journal := cues.map (·.ord), unsent := next }
    let put (s : State) (c : Cue) : State :=
      if q.retainSize < 32 then s
      else s.writePhys (q.retainBase + 32 * (c.ord % (q.retainSize / 32))) (bytesOfSlots c.entry.toList) none
    (cues.foldl put s).setCueStream d slot q

/-! ### The streams a packet names (R322) -/

/-- One stream, or every stream of an endpoint; a virtual function's command reaches its own partition's only. -/
def State.namedStreams (s : State) (p : Packet) : List (DieId × Nat × CueStream) :=
  let w := p.sl 3
  if bit w 63 then
    ((List.finRange 4).map (fun (d : DieId) =>
      (List.range 4096).filterMap (fun slot => match lookup s.dies[d].streams slot with
        | some x => if x.ustudy = (p.sl 5).setWidth 48 then some (d, slot, x) else none
        | none => none))).flatten
  else
    let d : DieId := ⟨(w.extractLsb' 12 2).toNat, (w.extractLsb' 12 2).isLt⟩
    match lookup s.dies[d].streams (fld w 0 12) with
    | some q => [(d, fld w 0 12, q)]
    | none => []

/-- The streams a command acts on, or the status that ends it. -/
def State.streamArgs (s : State) (fn : FuncId) (p : Packet) : Except CmdStatus (List (DieId × Nat × CueStream)) :=
  let l := s.namedStreams p
  if bit (p.sl 3) 63 then .ok (l.filter (fun e => !foreign fn e.2.2.part))
  else if l = [] then .error .badArg
  else if l.any (fun e => foreign fn e.2.2.part) then .error .refused
  else .ok l

/-! ### REASSIGN (R310) -/

/-- The flits that carry the ordinals from one on. -/
def flitsFrom (now first next : Nat) : Nat → List CueFlit
  | 0 => []
  | fuel + 1 =>
    if next ≤ first then []
    else
      let f := flitFrom now first next
      f :: flitsFrom now (f.last + 1) next fuel

/-- A stream under a new understudy: every cue above TRUNCORD goes out again. -/
def CueStream.reassigned (q : CueStream) (now : Nat) (ustudy : BitVec 48) : CueStream :=
  let first := match q.cues with | c :: _ => c.ord | [] => q.nextOrd
  { q with ustudy := ustudy, ackOrd := first, state := if q.ended then .ended else .active
           flits := flitsFrom now first q.nextOrd q.cues.length, unsent := q.nextOrd }

/-- A journal still to be read is read from the new understudy. -/
def State.moveJournal (s : State) (d : DieId) (slot : Nat) (ustudy : BitVec 48) : State :=
  match s.host.linkTo ustudy 0 with
  | none => s
  | some k =>
    if s.journalDue d slot then
      (s.updHost (fun h => { h with transfers := h.transfers.map (fun t =>
        match t.body with
        | .journal d' slot' _ => if d' = d && slot' = slot then { t with link := k } else t
        | _ => t) })).updLink k (fun l => l.enqueue 1 [1])
    else s

/-- REASSIGN of one stream: an opening flit and the cues from RETAIN to the new understudy, a closing flit to the old one where it
is reachable. -/
def State.reassignStream (s : State) (d : DieId) (slot : Nat) (old : CueStream) (ustudy : BitVec 48) : State :=
  let q := old.reassigned s.clock ustudy
  let s := (s.setCueStream d slot q).sendCue ustudy d slot (.opening q.ckref q.ckord)
  let s := q.flits.foldl (fun s f => s.sendFlitOf d slot q f) s
  let s := if s.host.reaches old.ustudy 0 then s.sendCue old.ustudy d slot .closing else s
  s.moveJournal d slot ustudy

def State.reassign (s : State) (fn : FuncId) (p : Packet) : State × Option (CmdStatus × Nat) :=
  let ustudy : BitVec 48 := (p.sl 4).setWidth 48
  match s.streamArgs fn p with
  | .error st => (s, some (st, 0))
  | .ok l =>
    (l.foldl (fun s e => s.reassignStream e.1 e.2.1 e.2.2 ustudy) s, some (.ok, 0))

def execReassign (die : DieId) (q : QueueId) (s : State) : Out :=
  .next (s.perform1 die q 0x0D (fun s p => s.reassign (s.fnOf q) p))

/-! ### TRUNC (R312) -/

/-- Position of a cue: POS of its entry (R207). -/
def Cue.pos (c : Cue) : Nat := fld c.entry[0] 32 32

/-- The cues not truncated up to T: none where a truncated one lies behind the position. -/
def CueStream.upTo (q : CueStream) (pos : Nat) : List Cue :=
  if q.truncPos.all (· ≤ pos) then q.cues.takeWhile (fun c => c.pos ≤ pos) else []

/-- The host has consumed the cue's output record, or none was posted: a posted one lies behind HEAD. -/
def State.consumed (s : State) (outq : QueueId) (c : Cue) : Bool :=
  match c.record with
  | none => !c.emitted
  | some n => (s.host.cplq[outq].tail - s.host.cplq[outq].head).toNat ≤ (s.host.cplq[outq].tail - n - 1).toNat

/-- The stream truncated, where the three conditions hold. -/
def State.truncated (s : State) (q : CueStream) (pos : Nat) : Option CueStream :=
  let l := q.upTo pos
  match l.getLast? with
  | none => none
  | some c =>
    let covered := match q.ckord with | some o => c.ord ≤ o | none => false
    if covered && l.all (s.consumed q.outq) then
      some { q with truncOrd := some c.ord, truncPos := some ((l.map Cue.pos).foldl max (q.truncPos.getD 0)), cues := q.cues.drop l.length, journal := q.journal.filter (fun o => c.ord < o), retainFull := false }
    else none

/-- TRUNC of one stream, or of each stream of an endpoint by itself: the understudy is told to drop its journal; REFUSED where any was refused (log 49). -/
def State.trunc (s : State) (fn : FuncId) (p : Packet) : State × Option (CmdStatus × Nat) :=
  match s.streamArgs fn p with
  | .error st => (s, some (st, 0))
  | .ok l =>
    let r := l.foldl (fun (r : State × Bool) e =>
      match r.1.truncated e.2.2 (p.sl 4).toNat with
      | some q => ((r.1.setCueStream e.1 e.2.1 q).sendCue q.ustudy e.1 e.2.1 (.drop (q.truncOrd.getD 0)), r.2)
      | none => (r.1, false)) (s, true)
    (r.1, some (if r.2 then .ok else .refused, 0))

def execTrunc (die : DieId) (q : QueueId) (s : State) : Out :=
  .next (s.perform1 die q 0x0E (fun s p => s.trunc (s.fnOf q) p))

end Sys2Proof.Machine
end

