-- ==== Sys2Proof/Machine/Checkpoint.lean ====
section
/-!
DEFINITION. CHECKPOINT: stopping the partitions, the image and its manifest, what makes a checkpoint valid and what
fails it (R273, R314 to R316, R322).
-/

namespace Sys2Proof.Machine

def State.updCkpt (s : State) (f : Checkpoint → Checkpoint) : State :=
  s.updHost (fun h => { h with checkpoint := h.checkpoint.map f })

/-! ### What the partitions hold -/

/-- A tag of the named partitions. -/
def State.inParts (s : State) (parts : BitVec 32) (t : Tag) : Bool :=
  match s.domain? t with | some d => parts.getLsbD d.part.val | none => false

/-- The contexts of the partitions, by the domain of their outermost level. -/
def State.contextsOf (s : State) (parts : BitVec 32) : List (CoreId × CtxId) :=
  s.contextsIf (fun _ _ x => s.inParts parts x.regs.outerTag)

/-- What a checkpoint asks of a core: the contexts of the partitions not yet halted or asked, and where a domain of theirs is
installed the DORMANT ones too, so that none starts (R273, R315). -/
def State.askMask (s : State) (parts : BitVec 32) (c : CoreId) : BitVec 8 :=
  let q := s.core c
  (List.finRange 8).foldl (fun m k =>
    let x := q.ctxs[bank k]
    let mine := match x.state with
      | .dormant => s.inParts parts q.installed
      | .saved => false
      | _ => s.inParts parts x.regs.outerTag
    if mine && !x.halted && !q.pmreq.stop.getLsbD k.val then m ||| maskBit k else m) 0

/-- The stops a checkpoint asks for now, noted with it. -/
def State.askParts (s : State) (parts : BitVec 32) : State :=
  s.listedCores.foldl (fun s c =>
    let m := s.askMask parts c
    if m = 0 then s
    else (s.stopRequest c m true false).updCkpt (fun x => { x with asked := x.asked ++ [(c, m)] })) s

/-- Every context of the partitions stands stopped and can be saved. -/
def State.partsStopped (s : State) (parts : BitVec 32) : Bool :=
  (s.contextsOf parts).all (fun e =>
    let x := s.ctx e.1 (bank e.2)
    x.halted && !x.isDying && x.verifs = [] && x.storeBuf.all (s.leaves x)) &&
  s.listedCores.all (fun c => s.askMask parts c = 0)

/-- No matrix or copy queue holds a job of the partitions (R315, step 2). -/
def State.queuesEmpty (s : State) (parts : BitVec 32) : Bool :=
  s.troupes.all (fun e => e.2.mat.all (fun j => !s.inParts parts j.owner.tag) && e.2.copies.all (fun j => !s.inParts parts j.owner.tag))

/-- The windows of the partitions' domains. -/
def State.windowsIn (s : State) (parts : BitVec 32) : List Window :=
  ((List.finRange 32).map (fun p => if parts.getLsbD p.val then s.partWindows p else [])).flatten

/-! ### The image and the manifest (R314, R315; log 3) -/

/-- The window takes in an address of its space. -/
def Window.holds (w : Window) (space : Bool) (a : Nat) : Bool :=
  w.v && w.space = space && 64 * w.base.toNat ≤ a && a ≤ 64 * w.limit.toNat + 63

/-- The partitions' windows grant a byte of a core's scratchpad. -/
def State.scratchIn (s : State) (parts : BitVec 32) (c : CoreId) (o : Nat) : Bool :=
  (List.finRange 32).any (fun p => parts.getLsbD p.val &&
    (s.scratchWindows p (clusterOf c)).any (fun w => w.holds true (0x20000 * coreN c + o)))

/-- What tags that a test picks own in a troupe: tiles, table pairs, handles. -/
def Troupe.only (x : Troupe) (p : Tag → Bool) : Troupe :=
  let mine (i : Fin 16) : Bool := x.owners[i].any p
  { Troupe.reset with
    acc := x.acc.filter (fun b => if h : b.1 / 16384 < 16 then mine ⟨b.1 / 16384, h⟩ else false)
    flags := Vector.ofFn (fun (i : Fin 16) => if mine i then x.flags[i] else 0)
    owners := x.owners.map (fun o => o.filter p)
    handles := x.handles.map (fun (h : Handle) => if p h.tag && h.state ≠ .free then h else .reset)
    pairs := x.pairs.map (fun t => if p t.tag then t else .reset) }

/-- CRC-32C of every 512 bytes that are not all 0. -/
def blockCrcs (m : Memory) : List (Nat × BitVec 32) :=
  ((m.map (fun b => b.1 / 512)).eraseDups).map (fun n => (512 * n, crc32c (m.readN (512 * n) 512)))

/-- Bytes and lines the partitions' windows grant, their scratchpads, what they own in troupes, boards and deques. -/
def State.imageOf (s : State) (parts : BitVec 32) (key : BitVec 256) : Image :=
  let ws := s.windowsIn parts
  let cells := s.mem.filter (fun b => ws.any (fun w => w.holds false b.1))
  let scratch := s.listedCores.map (fun c => (c.val, (s.core c).scratch.filter (fun b => s.scratchIn parts c b.1)))
  let troupes := s.troupes.map (fun e => (e.1, e.2.only (s.inParts parts)))
  let domsOf (e : Nat × Core) : Nat × List (Nat × DomState) :=
    (e.1, e.2.doms.filter (fun d => s.inParts parts (BitVec.ofNat 16 d.1)))
  let localOf (e : Nat × Memory) : List (Nat × Nat × BitVec 32) := (blockCrcs e.2).map (fun x => (e.1, x.1, x.2))
  { cells := cells, lines := s.lines.filter (fun l => ws.any (fun w => w.holds false l.1))
    scratch := scratch, doms := s.cores.map domsOf, key := key, troupes := troupes
    crcs := blockCrcs cells
    localCrcs := ((scratch ++ troupes.map (fun (e : Nat × Troupe) => (8192 + e.1, e.2.acc))).map localOf).flatten }

/-- Puts back what an image's troupe holds. -/
def Troupe.restoreFrom (x y : Troupe) : Troupe :=
  let mine (i : Fin 16) : Bool := y.owners[i].isSome
  let x := (List.finRange 16).foldl (fun (x : Troupe) (i : Fin 16) =>
    if mine i then
      { x with acc := (x.acc.clear (16384 * i.val) 16384).writeL (16384 * i.val) (y.acc.readN (16384 * i.val) 16384)
               flags := x.flags.set i y.flags[i], owners := x.owners.set i y.owners[i]
               accPoison := clearPoison x.accPoison (16384 * i.val) 16384 }
    else x) x
  { x with handles := Vector.ofFn (fun i => if y.handles[i].state ≠ .free then y.handles[i] else x.handles[i])
           pairs := Vector.ofFn (fun i => if y.pairs[i].tag ≠ 0 then y.pairs[i] else x.pairs[i]) }

/-- Puts the bytes of an image over those a test picks. -/
def Memory.restoreFrom (m img : Memory) (hit : Nat → Bool) : Memory :=
  (img.filter (fun (b : Host.Cell) => hit b.1)).foldl (fun (m : Memory) (b : Host.Cell) => m.writeL b.1 [b.2])
    (m.filter (fun (b : Host.Cell) => !hit b.1))

/-- Puts back a core's scratchpad, call boards and deques from an image. -/
def State.restoreCore (s : State) (parts : BitVec 32) (img : Image) (c : CoreId) : State :=
  let inside (o : Nat) : Bool := s.scratchIn parts c o
  let boards := ((lookup img.doms c.val).getD []).filter (fun (d : Nat × DomState) => s.inParts parts (BitVec.ofNat 16 d.1))
  let put (l : List (Nat × DomState)) (d : Nat × DomState) : List (Nat × DomState) :=
    insert l d.1 { (lookup l d.1).getD (DomState.reset c.val) with board := d.2.board, deque := d.2.deque }
  s.updCore c (fun q => { q with
    scratch := q.scratch.restoreFrom ((lookup img.scratch c.val).getD []) inside
    scratchPoison := q.scratchPoison.filter (fun o => !inside o), doms := boards.foldl put q.doms })

/-- Loads a checkpoint image, as far as the windows of its partitions grant it (R313, step 1; log 118). -/
def State.loadImage (s : State) (ref : Word) (img : Image) (m : Manifest) : State :=
  let parts : BitVec 32 := m.signatures.foldl (fun b e => b ||| (1#32 <<< e.1)) 0
  let ws := s.windowsIn parts
  let hit (a : Nat) : Bool := ws.any (fun w => w.holds false a)
  let lines := (img.lines.filter (fun (l : Nat × LineMeta) => hit l.1)).foldl
    (fun (l : List (Nat × LineMeta)) (e : Nat × LineMeta) => insert l e.1 e.2) (s.lines.filter (fun l => !hit l.1))
  let s := { s with mem := s.mem.restoreFrom img.cells hit, poison := s.poison.filter (fun a => !hit a), lines := lines }
  let s := s.listedCores.foldl (fun s c => s.restoreCore parts img c) s
  let s := img.troupes.foldl (fun (s : State) (e : Nat × Troupe) =>
    if h : e.1 < 1024 then s.updTroupe ⟨e.1, h⟩ (fun x => x.restoreFrom (e.2.only (s.inParts parts))) else s) s
  s.updHost (fun h => { h with loaded := some (ref, m) })

/-- What a partition's signature is made from (R314, R323). -/
def State.signatureParts (s : State) (p : PartId) : List Nat :=
  let x := s.partitions[p]
  let mask (d : DieId) : Nat := (x.clusters.extractLsb' (32 * d.val) 32).toNat
  let dies := (List.finRange 4).filter (fun d => mask d ≠ 0)
  let retired := (s.host.epochs.headD (0, [])).2.filter (fun c => x.clusters.getLsbD (c / 64))
  dies.length :: (List.finRange 4).map mask ++ retired ++ [x.valw.toNat, x.malw.toNat]

/-- The streams of the partitions, by 4,096·die + slot. -/
def State.streamsOf (s : State) (parts : BitVec 32) : List (DieId × Nat × CueStream) :=
  ((List.finRange 4).map (fun (d : DieId) =>
    (s.dies[d].streams.filter (fun e => parts.getLsbD e.2.part.val)).map (fun e => (d, e.1, e.2)))).flatten

def streamKey (e : DieId × Nat × CueStream) : Nat := 4096 * e.1.val + e.2.1

def State.manifestOf (s : State) (parts : BitVec 32) : Manifest :=
  let named := (List.finRange 32).filter (fun p => parts.getLsbD p.val)
  let tree := s.regions.filter (fun e => parts.getLsbD (s.regionPart (BitVec.ofNat 32 e.1)).val)
  { signatures := named.map (fun p => (p.val, Config.digestOf (s.signatureParts p)))
    ckords := (s.streamsOf parts).map (fun e => (e.2.2.seqid.toNat, e.2.2.ckord))
    regions := tree.map (fun e => (e.1, (List.range 16).map (s.slot e.2))), crc := Config.freeWord s.fresh }

/-! ### Stopping and restoring -/

/-- The frame area of a context (R220). -/
def State.frameArea (s : State) (c : CoreId) (k : CtxId) : Nat := (s.core c).dstkb.toNat * 4096 + 147456 * k.val

/-- The checkpoint does the monitor's work on the entry of its stop: the entry is made and ended, or the request is withdrawn while
contexts run; what it halted stays halted until the end, and no activation starts on the core (R217, R273; log 50). -/
def State.serveStop (s : State) (c : CoreId) (m : BitVec 8) : State :=
  s.updCore c (fun q =>
    if q.mmode.any MEntry.stops then q.leave
    else if q.pmreq.stop &&& ~~~m = 0 then
      { q with pmreq := { q.pmreq with stop := 0, stopped := 0 }, stopClock := none, stopBudget := false }
    else { q with pmreq := { q.pmreq with stop := q.pmreq.stop &&& ~~~m, stopped := q.pmreq.stopped &&& ~~~m } })

/-- What the checkpoint stopped and did not save goes on. -/
def State.releaseAsked (s : State) (l : List (CoreId × BitVec 8)) : State :=
  l.foldl (fun s e => (inMask e.2).foldl (fun s k =>
    s.updCtx e.1 (bank k) (fun x => if x.state = .saved then x else { x with halted := false, stopped := false, safe := none }))
    (s.serveStop e.1 e.2)) s

/-- Every context of the partitions is saved at its core's frame area (R315, step 1). -/
def State.saveParts (s : State) (parts : BitVec 32) : State :=
  let l := s.contextsOf parts
  let asked := match s.host.checkpoint with | some c => c.asked | none => []
  let s := l.foldl (fun s e => s.saveCtx e.1 e.2 (s.frameArea e.1 e.2)) (asked.foldl (fun s e => s.serveStop e.1 e.2) s)
  s.updCkpt (fun c => { c with saved := l.map (fun e => (e.1, e.2, s.frameArea e.1 e.2)) })

/-- The saved contexts come back, by CTXLD and HREL (R217; R315, step 6). -/
def State.restoreParts (s : State) (l : List (CoreId × CtxId × Nat)) : State :=
  l.foldl (fun s e =>
    if (s.ctx e.1 (bank e.2.1)).state = .saved then
      let s := s.updCtx e.1 (bank e.2.1) (fun x => { x with state := .dormant })
      (s.loadCtx e.1 e.2.1 e.2.2).releaseCtx e.1 e.2.1 false
    else s) s

/-- A transfer of a checkpoint. -/
def TransferBody.ofCkpt : TransferBody → Bool
  | .image .. | .manifest => true
  | _ => false

/-- The checkpoint is over: its transfers go, its contexts are restored, the command completes. -/
def State.endCkpt (s : State) (c : Checkpoint) (st : CmdStatus) : State :=
  let s := s.updHost (fun h => { h with checkpoint := none, transfers := h.transfers.filter (fun t => !t.body.ofCkpt) })
  let s := (s.restoreParts c.saved).releaseAsked c.asked
  s.endOne c.queue c.packet.slots st 0

/-- A failed checkpoint: the record, and CKORD as it was (R316; log 50). -/
def State.failCkpt (s : State) (c : Checkpoint) (reason : Nat) : State :=
  let s := c.before.foldl (fun s e =>
    let d : DieId := ⟨e.1 / 4096 % 4, by omega⟩
    match lookup s.dies[d].streams (e.1 % 4096) with
    | some q => s.setCueStream d (e.1 % 4096) { q with ckord := e.2 }
    | none => s) s
  (s.log c.die { kind := 0x18, cls := 6, detail := reason }).endCkpt c .fault

/-! ### The steps (R315, R316) -/

/-- The links of a checkpoint that are free of faults. -/
def HostSide.ckptLinks (h : HostSide) (links : BitVec 16) (endpoint : BitVec 48) : List (Fin 16) :=
  (List.finRange 16).filter (fun k =>
    links.getLsbD k.val && h.links[k].up && h.links[k].peer = endpoint && h.links[k].profiles.getLsbD 1)

/-- The partitions a packet names; none where a virtual function reaches beyond its own. -/
def ckptParts (fn : FuncId) (p : Packet) : Option (BitVec 32) :=
  let m : BitVec 32 := if bit (p.sl 3) 32 then BitVec.allOnes 32 else (p.sl 3).setWidth 32
  match partOfFunc fn with
  | none => some m
  | some own => if m &&& ~~~(1#32 <<< own.val) = 0 then some m else none

/-- Step 1 begins: the contexts are asked to stop. One checkpoint runs at a time; a second one is REFUSED. A virtual function's
endpoint must be one of its partition's (R322; log 113). -/
def State.startCkpt (s : State) (d : DieId) (q : QueueId) (p : Packet) : State × Option (CmdStatus × Nat) :=
  match ckptParts (s.fnOf q) p with
  | none => (s, some (.refused, 0))
  | some parts =>
    if (partOfFunc (s.fnOf q)).any (fun o => !Config.endpointOf o.val ((p.sl 5).setWidth 48)) then (s, some (.refused, 0))
    else if s.host.checkpoint.isSome then (s, some (.refused, 0))
    else if parts = 0 then (s, some (.badArg, 0))
    else
      let links : BitVec 16 := (p.sl 4).setWidth 16
      let c : Checkpoint :=
        { die := d, queue := q, packet := p, parts := parts, links := links, endpoint := (p.sl 5).setWidth 48
          phase := .draining s.clock, image := none, before := [], saved := [], asked := [] }
      if s.host.ckptLinks links c.endpoint = [] then (s.log d { kind := 0x18, cls := 6, detail := 2 }, some (.fault, 0))
      else
        ((s.updHost (fun h => { h with checkpoint := some c })).askParts parts, none)

/-- The bytes of an image: 256 of its own description, what the partitions' windows grant in vaults, DRAM and scratchpads, 16 for the
counter and MAC of each line, tiles, call boards and deques (R315; the layout is the model's, DESIGN CHOICE; log 3). -/
def State.imageSize (s : State) (parts : BitVec 32) (img : Image) : Nat :=
  let named := (List.finRange 32).filter (fun p => parts.getLsbD p.val)
  let granted := (named.map (fun p => s.scrubTotal p 2 + s.scrubTotal p 3 + s.scrubTotal p 4)).sum
  let tiles := (img.troupes.map (fun e => 16384 * (e.2.owners.toList.filter (·.isSome)).length)).sum
  let boards := (img.doms.map (fun e => (e.2.map (fun d => 512 + 32 * d.2.deque.length)).sum)).sum
  256 + granted + 16 * img.lines.length + tiles + boards

/-- Sends the next piece of a stripe over a link: at most 255 data flits (R333). -/
def State.imagePiece (s : State) (k : Fin 16) (off stop : Nat) : State :=
  (s.transfer k (.image off (min transferBytes (stop - off)) stop)).1

/-- Stripes an image over links: equal shares, in whole flits, each begun (R316, R333). -/
def State.stripe (s : State) (size : Nat) (links : List (Fin 16)) : State :=
  let share := 256 * ((size + 256 * links.length - 1) / (256 * links.length))
  links.zipIdx.foldl (fun s e => s.imagePiece e.1 (share * e.2) (share * (e.2 + 1))) s

/-- Steps 1 to 4 once the contexts stand and the queues are empty. -/
def State.writeImage (s : State) (c : Checkpoint) : State :=
  let s := s.saveParts c.parts
  let l := s.streamsOf c.parts
  let s := l.foldl (fun s e =>
    s.setCueStream e.1 e.2.1 { e.2.2 with ckord := if e.2.2.nextOrd = 0 then none else some (e.2.2.nextOrd - 1) }) s
  let image := s.imageOf c.parts (Config.freeBytes32 s.fresh)
  let m := s.manifestOf c.parts
  let s := s.stripe (s.imageSize c.parts image) (s.host.ckptLinks c.links c.endpoint)
  { s with fresh := s.fresh + 1 }.updCkpt (fun c => { c with
    phase := .writing, image := some (image, m), before := l.map (fun e => (streamKey e, e.2.2.ckord)) })

/-- What remains of the checkpoint's transfers stands on links that are down: no link remains. -/
def State.ckptCut (s : State) : Bool :=
  s.host.transfers.any (fun t => t.body.ofCkpt && !s.host.links[t.link].up)

/-- A checkpoint in progress goes on as far as it can; what has started on its cores meanwhile is asked to stop. -/
def State.stepCkpt (s : State) (c : Checkpoint) : State :=
  match c.phase with
  | .draining _ =>
    let s := s.askParts c.parts
    if !(s.partsStopped c.parts && s.queuesEmpty c.parts) then s
    else if s.host.ckptLinks c.links c.endpoint = [] then s.failCkpt c 2
    else s.writeImage c
  | _ => if s.ckptCut then s.failCkpt c 2 else s

/-- CHECKPOINT begins on the die that reads it; the same event moves it on. -/
def execCheckpoint (die : DieId) (q : QueueId) (s : State) : Out :=
  .next (match s.host.checkpoint with
    | some c => if c.die = die && c.queue = q && s.up then s.stepCkpt c else s.perform1 die q 0x0F (fun s p => s.startCkpt die q p)
    | none => s.perform1 die q 0x0F (fun s p => s.startCkpt die q p))

/-- The queues have not emptied within 9,400,000 clocks. -/
def execCheckpointQueueTimeout (s : State) : Out :=
  .next (match s.host.checkpoint with
    | some c =>
      match c.phase with
      | .draining since => if since + 9400000 ≤ s.clock && !s.queuesEmpty c.parts then s.failCkpt c 1 else s
      | _ => s
    | none => s)

/-- Every part of the image is durable: the manifest goes. -/
def State.imageDurable (s : State) (c : Checkpoint) : State :=
  if s.host.transfers.any (fun t => match t.body with | .image .. => true | _ => false) then s
  else match s.host.ckptLinks c.links c.endpoint with
  | k :: _ => (s.transfer k .manifest).1.updCkpt (fun c => { c with phase := .manifest })
  | [] => s.failCkpt c 2

/-- The endpoint's answer to the manifest: the checkpoint is valid, CKREF is the manifest's TAG (log 50), the contexts
come back; or the store was refused. -/
def execCheckpointManifestAck (accepted : Bool) (s : State) : Out :=
  .next (match s.host.checkpoint, s.host.transfers.find? (fun t => t.body = .manifest) with
    | some c, some t =>
      if !accepted then s.failCkpt c 3
      else
        let s := (s.streamsOf c.parts).foldl (fun s e => s.setCueStream e.1 e.2.1 { e.2.2 with ckref := t.tag }) s
        s.endCkpt c .ok
    | _, _ => s)

end Sys2Proof.Machine
end

