-- ==== Sys2Proof/Machine/Flags.lean ====
section
/-!
DEFINITION. The floating-point formats, exact values, rounding, NaN rules and the flags they raise (R99 to R111).
-/

namespace Sys2Proof.Machine

/-! ### Formats (R99, R101) -/

/-- A binary format: exponent and fraction widths, bias. `wf` marks WF19, which has no subnormals and no signalling
NaNs (R101). -/
structure Fmt where
  eb : Nat
  mb : Nat
  bias : Nat
  wf : Bool := false
  deriving DecidableEq, Repr

def fp64 : Fmt := { eb := 11, mb := 52, bias := 1023 }
def fp32 : Fmt := { eb := 8, mb := 23, bias := 127 }
def fp16 : Fmt := { eb := 5, mb := 10, bias := 15 }
def bf16 : Fmt := { eb := 8, mb := 7, bias := 127 }
def wf19 : Fmt := { eb := 8, mb := 10, bias := 127, wf := true }

def Fmt.width (t : Fmt) : Nat := 1 + t.eb + t.mb
def Fmt.maxE (t : Fmt) : Nat := 2 ^ t.eb - 1
def Fmt.signBit (t : Fmt) : Nat := 2 ^ (t.eb + t.mb)
/-- The canonical NaN (R100, R101). -/
def Fmt.canonical (t : Fmt) : Nat := t.maxE * 2 ^ t.mb + 2 ^ (t.mb - 1)
def Fmt.inf (t : Fmt) (neg : Bool) : Nat := (if neg then t.signBit else 0) + t.maxE * 2 ^ t.mb
def Fmt.largest (t : Fmt) (neg : Bool) : Nat := t.inf neg - 1
def Fmt.zero (t : Fmt) (neg : Bool) : Nat := if neg then t.signBit else 0

/-- A value: a NaN with its fraction bits, an infinity, or ±m·2^e. -/
inductive Val where
  | nan (neg : Bool) (frac : Nat) (sig : Bool)
  | inf (neg : Bool)
  | fin (neg : Bool) (m : Nat) (e : Int)
  deriving DecidableEq, Repr

/-- The meaning of a pattern; bits above the format are ignored (R100). -/
def Fmt.value (t : Fmt) (x : Nat) : Val :=
  let neg := x / t.signBit % 2 = 1
  let e := x / 2 ^ t.mb % 2 ^ t.eb
  let f := x % 2 ^ t.mb
  if e = t.maxE then
    if f = 0 then .inf neg else .nan neg f (!t.wf && f < 2 ^ (t.mb - 1))
  else if e = 0 then
    if t.wf then .fin neg 0 0 else .fin neg f (1 - (t.bias : Int) - (t.mb : Int))
  else .fin neg (2 ^ t.mb + f) ((e : Int) - (t.bias : Int) - (t.mb : Int))

def Val.isNan : Val → Bool
  | .nan .. => true
  | _ => false
def Val.isSig : Val → Bool
  | .nan _ _ s => s
  | _ => false
def Val.isInf : Val → Bool
  | .inf _ => true
  | _ => false
def Val.isZero : Val → Bool
  | .fin _ m _ => m = 0
  | _ => false
def Val.neg : Val → Bool
  | .nan n _ _ => n
  | .inf n => n
  | .fin n _ _ => n
def Val.flip : Val → Val
  | .nan n f s => .nan n f s
  | .inf n => .inf !n
  | .fin n m e => .fin (!n) m e

/-! ### Flags (R110) -/

abbrev Fl := BitVec 5
def NX : Fl := 1
def UF : Fl := 2
def OF : Fl := 4
def DZ : Fl := 8
def NV : Fl := 16

/-- A result pattern with the flags its computation raises. -/
structure Fp where
  bits : Nat
  flags : Fl
  deriving DecidableEq, Repr

/-- Flags are ORed into fflg; an enabled one makes an FP event with this instruction's address and operands, or adds
its flags to the event there is (R110, R111). -/
def State.raiseFlags (s : State) (fl : Fl) (opA opB : Word) : State :=
  s.updMe (fun x =>
    let on := fl &&& x.regs.fen
    let ev : Option FpEvent :=
      if on = 0 then x.event
      else match x.event with
        | some e => some { e with flags := e.flags ||| on }
        | none => some { flags := on, addr := x.regs.pc, opA := opA, opB := opB, sent := false, again := 0 }
    { x with regs := { x.regs with fflg := x.regs.fflg ||| fl }, event := ev })

/-! ### Rounding (R107, R108) -/

/-- Rounding modes by `frm` value. -/
def rne : Nat := 0

/-- ±m·2^e as a multiple of 2^q, rounded by mode; whether bits were lost. -/
def roundAt (rm : Nat) (neg : Bool) (m : Nat) (e q : Int) : Nat × Bool :=
  if q ≤ e then (m <<< (e - q).toNat, false)
  else
    let d := (q - e).toNat
    let r := m >>> d
    let rest := m % 2 ^ d
    let half := 2 ^ (d - 1)
    let up := match rm with
      | 0 => half < rest || (rest = half && r % 2 = 1)
      | 1 => false
      | 2 => rest ≠ 0 && !neg
      | 3 => rest ≠ 0 && neg
      | _ => half ≤ rest
    (if up then r + 1 else r, rest ≠ 0)

/-- The overflow result of a mode. -/
def Fmt.overflow (t : Fmt) (rm : Nat) (neg : Bool) : Nat :=
  match rm with
  | 1 => t.largest neg
  | 2 => if neg then t.largest neg else t.inf neg
  | 3 => if neg then t.inf neg else t.largest neg
  | _ => t.inf neg

/-- Rounds ±m·2^e to a format (R108). -/
def Fmt.round (t : Fmt) (rm : Nat) (neg : Bool) (m : Nat) (e : Int) : Fp :=
  if m = 0 then { bits := t.zero neg, flags := 0 } else
  let q := (m.log2 : Int) + e - (t.mb : Int)
  let (r, inexact) := roundAt rm neg m e q
  let emin : Int := 1 - (t.bias : Int)
  let qmin : Int := emin - (t.mb : Int)
  if q < qmin && !(q = qmin - 1 && r = 2 ^ (t.mb + 1)) then
    if t.wf then { bits := t.zero neg, flags := UF ||| NX }
    else
      let (r, inexact) := roundAt rm neg m e qmin
      { bits := t.zero neg + r, flags := if inexact then UF ||| NX else 0 }
  else
    let b := (q - qmin).toNat * 2 ^ t.mb + r
    -- q = qmin − 1 with a carry stands for 2^emin
    let b := if q < qmin then 2 ^ t.mb else b
    if t.maxE * 2 ^ t.mb ≤ b then { bits := t.overflow rm neg, flags := OF ||| NX }
    else { bits := t.zero neg + b, flags := if inexact then NX else 0 }

/-! ### NaNs (R100, R109) -/

/-- The quieted NaN of a sign and fraction of another format, keeping as many top fraction bits as fit. -/
def Fmt.quiet (t : Fmt) (neg : Bool) (frac mb : Nat) : Nat :=
  let f := if mb ≤ t.mb then frac <<< (t.mb - mb) else frac >>> (mb - t.mb)
  t.inf neg + (f ||| 2 ^ (t.mb - 1))

def sigFlag (xs : List Val) : Fl := if xs.any Val.isSig then NV else 0

/-- nan_result of R109 for the operands in order. -/
def Fmt.nanOf (t : Fmt) (xs : List Val) : Option Nat :=
  xs.findSome? (fun x => match x with | .nan n f _ => some (t.quiet n f t.mb) | _ => none)

def Fmt.invalid (t : Fmt) : Fp := { bits := t.canonical, flags := NV }

/-! ### Exact arithmetic -/

/-- ±m·2^e as an integer multiple of 2^q, q ≤ e. -/
def scaled (neg : Bool) (m : Nat) (e q : Int) : Int :=
  let x : Int := ((m <<< (e - q).toNat : Nat) : Int)
  if neg then -x else x

/-- The exact order of two finite values: their difference as an integer. -/
def finDiff (n1 : Bool) (m1 : Nat) (e1 : Int) (n2 : Bool) (m2 : Nat) (e2 : Int) : Int :=
  let q := min e1 e2
  scaled n1 m1 e1 q - scaled n2 m2 e2 q

/-- Rounded sum of two finite values (R108: zero sums). -/
def Fmt.sumFin (t : Fmt) (rm : Nat) (n1 : Bool) (m1 : Nat) (e1 : Int) (n2 : Bool) (m2 : Nat) (e2 : Int) : Fp :=
  let q := min e1 e2
  let x := scaled n1 m1 e1 q + scaled n2 m2 e2 q
  if x = 0 then { bits := t.zero (if n1 = n2 then n1 else rm = 3), flags := 0 }
  else t.round rm (x < 0) x.natAbs q

/-- Rounded sum of two values, NaNs in operand order (R109). -/
def Fmt.addVal (t : Fmt) (rm : Nat) (a b : Val) : Fp :=
  match t.nanOf [a, b] with
  | some n => { bits := n, flags := sigFlag [a, b] }
  | none =>
    match a, b with
    | .inf n1, .inf n2 => if n1 = n2 then { bits := t.inf n1, flags := 0 } else t.invalid
    | .inf n, _ => { bits := t.inf n, flags := 0 }
    | _, .inf n => { bits := t.inf n, flags := 0 }
    | .fin n1 m1 e1, .fin n2 m2 e2 => t.sumFin rm n1 m1 e1 n2 m2 e2
    | _, _ => t.invalid

/-- The exact product of two values that are not NaN; none for 0·∞. -/
def mulVal (a b : Val) : Option Val :=
  let n := a.neg != b.neg
  match a, b with
  | .fin _ m1 e1, .fin _ m2 e2 => some (.fin n (m1 * m2) (e1 + e2))
  | _, _ => if a.isZero || b.isZero then none else some (.inf n)

/-- A value that is not NaN, rounded. -/
def Fmt.ofVal (t : Fmt) (rm : Nat) (v : Val) : Fp :=
  match v with
  | .inf n => { bits := t.inf n, flags := 0 }
  | .fin n m e => t.round rm n m e
  | .nan n f s => { bits := t.quiet n f t.mb, flags := if s then NV else 0 }

/-- Integer square root by bits: the largest r with r² ≤ x, below 2^(n). -/
def isqrt (x : Nat) : Nat → Nat → Nat
  | 0, r => r
  | n + 1, r => if (r + 2 ^ n) * (r + 2 ^ n) ≤ x then isqrt x n (r + 2 ^ n) else isqrt x n r

/-! ### Operations on patterns of one format -/

def Fmt.add (t : Fmt) (rm a b : Nat) : Fp := t.addVal rm (t.value a) (t.value b)

/-- The sign change of B for a difference leaves a NaN as it is. -/
def Fmt.sub (t : Fmt) (rm a b : Nat) : Fp := t.addVal rm (t.value a) (t.value b).flip

def Fmt.mul (t : Fmt) (rm a b : Nat) : Fp :=
  let x := t.value a
  let y := t.value b
  match t.nanOf [x, y] with
  | some n => { bits := n, flags := sigFlag [x, y] }
  | none => match mulVal x y with | some v => t.ofVal rm v | none => t.invalid

/-- Correctly rounded quotient: enough quotient bits and a sticky bit below them. -/
def Fmt.divFin (t : Fmt) (rm : Nat) (neg : Bool) (m1 : Nat) (e1 : Int) (m2 : Nat) (e2 : Int) : Fp :=
  let k := 2 * t.mb + 8
  let n := m1 <<< k
  t.round rm neg (2 * (n / m2) + (if n % m2 = 0 then 0 else 1)) (e1 - e2 - (k : Int) - 1)

def Fmt.div (t : Fmt) (rm a b : Nat) : Fp :=
  let x := t.value a
  let y := t.value b
  let neg := x.neg != y.neg
  match t.nanOf [x, y] with
  | some n => { bits := n, flags := sigFlag [x, y] }
  | none =>
    match x, y with
    | .fin _ m1 e1, .fin _ m2 e2 =>
      if m2 = 0 then (if m1 = 0 then t.invalid else { bits := t.inf neg, flags := DZ })
      else if m1 = 0 then { bits := t.zero neg, flags := 0 }
      else t.divFin rm neg m1 e1 m2 e2
    | .inf _, .inf _ => t.invalid
    | .inf _, _ => { bits := t.inf neg, flags := 0 }
    | _, _ => { bits := t.zero neg, flags := 0 }

def Fmt.sqrt (t : Fmt) (rm a : Nat) : Fp :=
  match t.value a with
  | .nan n f s => { bits := t.quiet n f t.mb, flags := if s then NV else 0 }
  | .inf n => if n then t.invalid else { bits := t.inf false, flags := 0 }
  | .fin n m e =>
    if m = 0 then { bits := t.zero n, flags := 0 }
    else if n then t.invalid
    else
      -- an even exponent and twice the bits of the result
      let k := 2 * t.mb + 8 + (if e % 2 = 0 then 0 else 1)
      let x := m <<< k
      let r := isqrt x (x.log2 / 2 + 1) 0
      t.round rm false (2 * r + (if r * r = x then 0 else 1)) ((e - (k : Int)) / 2 - 1)

/-- FMIN and FMAX (R117): the value returned is one of the operands. -/
def Fmt.pick (t : Fmt) (greater : Bool) (a b : Nat) : Fp :=
  let x := t.value a
  let y := t.value b
  match t.nanOf [x, y] with
  | some n => { bits := n, flags := sigFlag [x, y] }
  | none =>
    let less : Bool := match x, y with
      | .inf n, .inf n' => n && !n'
      | .inf n, _ => n
      | _, .inf n => !n
      | .fin n1 m1 e1, .fin n2 m2 e2 =>
        let d := finDiff n1 m1 e1 n2 m2 e2
        d < 0 || (d = 0 && n1 && !n2)
      | _, _ => false
    { bits := (if less != greater then a else b) % 2 ^ t.width, flags := 0 }

/-- ±(a·b) ± c rounded once, with the NaN rule of the FMA forms (R109, R118). -/
def Fmt.fma (t : Fmt) (rm : Nat) (negP negC : Bool) (a b c : Nat) : Fp :=
  let x := t.value a
  let y := t.value b
  let z := t.value c
  let bad : Bool := (x.isZero && y.isInf) || (x.isInf && y.isZero)
  let sig := sigFlag [x, y, z]
  match z with
  | .nan n f _ => { bits := t.quiet n f t.mb, flags := sig ||| (if bad then NV else 0) }
  | _ =>
    match t.nanOf [x, y] with
    | some n => { bits := n, flags := sig }
    | none =>
      match mulVal x y with
      | none => t.invalid
      | some p => t.addVal rm (if negP then p.flip else p) (if negC then z.flip else z)

/-! ### Comparison (R119) -/

/-- An ordered comparison: a < b, a = b; none where either is NaN. -/
def cmpVal (x y : Val) : Option Ordering :=
  match x, y with
  | .nan .., _ => none
  | _, .nan .. => none
  | .inf n, .inf n' => some (if n = n' then .eq else if n then .lt else .gt)
  | .inf n, _ => some (if n then .lt else .gt)
  | _, .inf n => some (if n then .gt else .lt)
  | .fin n1 m1 e1, .fin n2 m2 e2 =>
    let d := finDiff n1 m1 e1 n2 m2 e2
    some (if d < 0 then .lt else if d = 0 then .eq else .gt)

/-- NV of a comparison: any NaN where `all`, else a signalling one. -/
def cmpFlag (all : Bool) (x y : Val) : Fl :=
  if all then (if x.isNan || y.isNan then NV else 0) else sigFlag [x, y]

/-! ### Conversions (R120, R135) -/

/-- Float to float: a NaN is quieted and keeps its top fraction bits; else rounded once. -/
def convert (dst src : Fmt) (rm x : Nat) : Fp :=
  match src.value x with
  | .nan n f s => { bits := dst.quiet n f src.mb, flags := if s then NV else 0 }
  | v => dst.ofVal rm v

/-- Float to an integer of n bits, signed or not: rounded by RM, out of range to the nearer bound with NV, NaN to the
greatest with NV. The result is a pattern of n bits. -/
def toInteger (src : Fmt) (rm : Nat) (signed : Bool) (n x : Nat) : Fp :=
  let lo : Int := if signed then -(2 ^ (n - 1) : Nat) else 0
  let hi : Int := if signed then (2 ^ (n - 1) : Nat) - 1 else (2 ^ n : Nat) - 1
  let pat (v : Int) : Nat := (v % (2 ^ n : Nat)).toNat
  match src.value x with
  | .nan .. => { bits := pat hi, flags := NV }
  | .inf neg => { bits := pat (if neg then lo else hi), flags := NV }
  | .fin neg m e =>
    let (r, inexact) := roundAt rm neg m e 0
    let v : Int := if neg then -(r : Int) else r
    if v < lo then { bits := pat lo, flags := NV }
    else if hi < v then { bits := pat hi, flags := NV }
    else { bits := pat v, flags := if inexact then NX else 0 }

/-- An integer to a float (R120). -/
def ofInteger (dst : Fmt) (rm : Nat) (v : Int) : Fp := dst.round rm (v < 0) v.natAbs 0

/-! ### Signs (R122) -/

def Fmt.cut (t : Fmt) (x : Nat) : Nat := x % 2 ^ t.width
def Fmt.negate (t : Fmt) (x : Nat) : Nat := t.cut (x ^^^ t.signBit)
def Fmt.abs (t : Fmt) (x : Nat) : Nat := x % t.signBit
def Fmt.copySign (t : Fmt) (x y : Nat) : Nat := t.abs x + (if y / t.signBit % 2 = 1 then t.signBit else 0)

/-! ### Classes (R121) -/

/-- The bit number of FCLS. -/
def Fmt.classOf (t : Fmt) (x : Nat) : Nat :=
  match t.value x with
  | .inf n => if n then 0 else 7
  | .nan _ _ s => if s then 8 else 9
  | .fin n m _ =>
    if m = 0 then (if n then 3 else 4)
    else if m < 2 ^ t.mb then (if n then 2 else 5)
    else if n then 1 else 6

end Sys2Proof.Machine
end

