-- ==== Sys2Proof/Machine/Float.lean ====
section
/-!
DEFINITION. Scalar floating-point instructions (R116 to R122, R126).
-/

namespace Sys2Proof.Machine

def fmtOf (dbl : Bool) : Fmt := if dbl then fp64 else fp32

/-- The rounding mode of the executing context (R107). -/
def Regs.rm (r : Regs) : Nat := r.frm.toNat

/-- The f register a PFX.R names, D without one (R51). -/
def srcF (w : Pre) (d : Fin 32) : Fin 32 :=
  match chainSrc w.chain with | some c => Fin.ofNat 32 c.toNat | none => d

/-- fD := op(fA, fB) with its flags; the bits above the format are 0 (R100). `long`: FP64 operations, FDIV and FSQRT
(R47). -/
def fOp3 (i : Instr) (w : Pre) (long : Bool) (d a b : FReg) (op : Nat → Nat → Nat → Fp) (s : State) : Out :=
  runInstr i w { reads := rf a ++ rf b, writes := rf d, long := long }
    (fun _ s =>
      let x := s.regs.f[a]
      let y := s.regs.f[b]
      let r := op s.regs.rm x.toNat y.toNat
      .ok ((s.updRegs (fun q => q.setF d (BitVec.ofNat 64 r.bits))).raiseFlags r.flags x y)) s

/-- fD := op(fA) with its flags. -/
def fOp2 (i : Instr) (w : Pre) (long : Bool) (d a : FReg) (op : Nat → Nat → Fp) (s : State) : Out :=
  runInstr i w { reads := rf a, writes := rf d, long := long }
    (fun _ s =>
      let x := s.regs.f[a]
      let r := op s.regs.rm x.toNat
      .ok ((s.updRegs (fun q => q.setF d (BitVec.ofNat 64 r.bits))).raiseFlags r.flags x 0)) s

/-! ### FOP (R117) -/

def execFadd (w : Pre) (dbl : Bool) (d a b : FReg) (s : State) : Out :=
  fOp3 (.fadd w dbl d a b) w dbl d a b (fmtOf dbl).add s
def execFsub (w : Pre) (dbl : Bool) (d a b : FReg) (s : State) : Out :=
  fOp3 (.fsub w dbl d a b) w dbl d a b (fmtOf dbl).sub s
def execFmul (w : Pre) (dbl : Bool) (d a b : FReg) (s : State) : Out :=
  fOp3 (.fmul w dbl d a b) w dbl d a b (fmtOf dbl).mul s
def execFdiv (w : Pre) (dbl : Bool) (d a b : FReg) (s : State) : Out :=
  fOp3 (.fdiv w dbl d a b) w true d a b (fmtOf dbl).div s
def execFmin (w : Pre) (dbl : Bool) (d a b : FReg) (s : State) : Out :=
  fOp3 (.fmin w dbl d a b) w dbl d a b (fun _ x y => (fmtOf dbl).pick false x y) s
def execFmax (w : Pre) (dbl : Bool) (d a b : FReg) (s : State) : Out :=
  fOp3 (.fmax w dbl d a b) w dbl d a b (fun _ x y => (fmtOf dbl).pick true x y) s
def execFsqrt (w : Pre) (dbl : Bool) (d a : FReg) (s : State) : Out :=
  fOp2 (.fsqrt w dbl d a) w true d a (fmtOf dbl).sqrt s

/-! ### FMA (R118) -/

def fmaOp (i : Instr) (w : Pre) (dbl : Bool) (d a b : FReg) (negP negC : Bool) (s : State) : Out :=
  let c := srcF w d
  runInstr i w { reads := rf a ++ rf b ++ rf c, writes := rf d, long := dbl }
    (fun _ s =>
      let x := s.regs.f[a]
      let y := s.regs.f[b]
      let r := (fmtOf dbl).fma s.regs.rm negP negC x.toNat y.toNat (s.regs.f[c]).toNat
      .ok ((s.updRegs (fun q => q.setF d (BitVec.ofNat 64 r.bits))).raiseFlags r.flags x y)) s

def execFma (w : Pre) (dbl : Bool) (d a b : FReg) (s : State) : Out := fmaOp (.fma w dbl d a b) w dbl d a b false false s
def execFms (w : Pre) (dbl : Bool) (d a b : FReg) (s : State) : Out := fmaOp (.fms w dbl d a b) w dbl d a b false true s
def execFnma (w : Pre) (dbl : Bool) (d a b : FReg) (s : State) : Out := fmaOp (.fnma w dbl d a b) w dbl d a b true false s
def execFnms (w : Pre) (dbl : Bool) (d a b : FReg) (s : State) : Out := fmaOp (.fnms w dbl d a b) w dbl d a b true true s

/-! ### FCMP (R119) -/

def fcond (c : FCond) (o : Option Ordering) : Bool :=
  match c with
  | .eq => o = some .eq
  | .lt => o = some .lt
  | .le => o = some .lt || o = some .eq
  | .un => o = none
  | .ne => o ≠ some .eq

/-- Conditions that raise NV for any NaN. -/
def fcondAll : FCond → Bool
  | .lt | .le => true
  | _ => false

def execFcmp (w : Pre) (dbl : Bool) (c : FCond) (p : PReg) (a b : FReg) (s : State) : Out :=
  runInstr (.fcmp w dbl c p a b) w { reads := rf a ++ rf b, writes := rp p, long := dbl }
    (fun _ s =>
      let t := fmtOf dbl
      let x := t.value (s.regs.f[a]).toNat
      let y := t.value (s.regs.f[b]).toNat
      .ok ((s.updRegs (fun q => q.setP p (fcond c (cmpVal x y)))).raiseFlags (cmpFlag (fcondAll c) x y) s.regs.f[a] s.regs.f[b])) s

/-! ### FCVT (R120) -/

/-- The result of a conversion of the 64 source bits. -/
def fcvt (k : Cvt) (rm : Nat) (x : Word) : Fp :=
  let n := x.toNat
  match k with
  | .f32f64 => convert fp32 fp64 rm n
  | .f64f32 => convert fp64 fp32 rm n
  | .f16f32 => convert fp16 fp32 rm n
  | .f32f16 => convert fp32 fp16 rm n
  | .bf16f32 => convert bf16 fp32 rm n
  | .f32bf16 => convert fp32 bf16 rm n
  | .i64f64 => toInteger fp64 rm true 64 n
  | .i64f32 => toInteger fp32 rm true 64 n
  | .u64f64 => toInteger fp64 rm false 64 n
  | .u64f32 => toInteger fp32 rm false 64 n
  | .f64i64 => ofInteger fp64 rm x.toInt
  | .f32i64 => ofInteger fp32 rm x.toInt
  | .f64u64 => ofInteger fp64 rm n
  | .f32u64 => ofInteger fp32 rm n
  | .wf19f32 => convert wf19 fp32 rm n
  | .f32wf19 => convert fp32 wf19 rm n

/-- Conversions with an FP64 operand or result (R47). -/
def fcvtLong : Cvt → Bool
  | .f32f64 | .f64f32 | .i64f64 | .u64f64 | .f64i64 | .f64u64 => true
  | _ => false

end Sys2Proof.Machine

namespace Sys2Proof

open Machine

/-- The g-file positions among scalar operands. -/
def Scalar.srcs : Scalar → List GReg
  | .gx r => [r]
  | .fx _ => []
def Scalar.gdst : Scalar → Option GReg
  | .gx r => some r
  | .fx _ => none
/-- The value of a scalar source, given the g-file value read for it. -/
def Scalar.read (x : Scalar) (g : Word) (s : State) : Word :=
  match x with
  | .gx _ => g
  | .fx n => s.regs.f[n]

end Sys2Proof

namespace Sys2Proof.Machine

/-- Writes a scalar destination. -/
def State.writeScalar (s : State) (d : Scalar) (x : Word) : State :=
  match d with
  | .gx r => s.writeG r x
  | .fx n => s.updRegs (fun q => q.setF n x)

def execFcvt (w : Pre) (k : Cvt) (d a : Scalar) (s : State) : Out :=
  runInstr (.fcvt w k d a) w { srcs := a.srcs, dst := d.gdst, reads := a.refs, writes := d.refs, long := fcvtLong k }
    (fun vs s =>
      let x := a.read (v0 vs) s
      let r := fcvt k s.regs.rm x
      .ok ((s.writeScalar d (BitVec.ofNat 64 r.bits)).raiseFlags r.flags x 0)) s

/-! ### FCLS, FMV, SCAL (R121, R122, R126) -/

def execFcls (w : Pre) (dbl : Bool) (d : GReg) (a : FReg) (s : State) : Out :=
  gOp1 (.fcls w dbl d a) w d (rf a) (fun s => at' 1 ((fmtOf dbl).classOf (s.regs.f[a]).toNat)) s

def execFmv (w : Pre) (dbl : Bool) (d a : FReg) (s : State) : Out :=
  fOp2 (.fmv w dbl d a) w false d a (fun _ x => { bits := (fmtOf dbl).cut x, flags := 0 }) s
def execFneg (w : Pre) (dbl : Bool) (d a : FReg) (s : State) : Out :=
  fOp2 (.fneg w dbl d a) w false d a (fun _ x => { bits := (fmtOf dbl).negate x, flags := 0 }) s
def execFabs (w : Pre) (dbl : Bool) (d a : FReg) (s : State) : Out :=
  fOp2 (.fabs w dbl d a) w false d a (fun _ x => { bits := (fmtOf dbl).abs x, flags := 0 }) s
def execFcpys (w : Pre) (dbl : Bool) (d a b : FReg) (s : State) : Out :=
  fOp3 (.fcpys w dbl d a b) w false d a b (fun _ x y => { bits := (fmtOf dbl).copySign x y, flags := 0 }) s

/-- The E8 exponent of |fa| (R126). -/
def scalOf (x : Nat) : Fp :=
  match fp32.value x with
  | .nan _ _ s => { bits := 0xFF, flags := if s then NV else 0 }
  | .inf _ => { bits := 0xFF, flags := NV }
  | .fin _ m _ => { bits := if m = 0 then 127 else x / 2 ^ 23 % 256, flags := 0 }

def execScal (w : Pre) (d : GReg) (a : FReg) (s : State) : Out :=
  runInstr (.scal w d a) w { dst := some d, reads := rf a, writes := d.refs }
    (fun _ s =>
      let x := s.regs.f[a]
      let r := scalOf x.toNat
      .ok ((s.writeG d (BitVec.ofNat 64 r.bits)).raiseFlags r.flags x 0)) s

end Sys2Proof.Machine
end

