-- ==== Sys2Proof/Machine/Codes.lean ====
section
/-!
DEFINITION. Decode tables and the instructions over codes (R103 to R106, R123 to R125).
-/

namespace Sys2Proof.Machine

/-! ### Tables -/

/-- A decode table in use: its code width and the WF19 value of each code. -/
structure Codes where
  w4 : Bool
  valid : Bool
  entry : Nat → Nat

def Codes.count (t : Codes) : Nat := if t.w4 then 16 else 256

/-- The WF19 NaN of a preset table's NaN code (R105). -/
def wfNan (neg : Bool) : Nat := wf19.inf neg + 0x200
def wfOf (neg : Bool) (m : Nat) (e : Int) : Nat := (wf19.round rne neg m e).bits

/-- The preset entries (R105). -/
def e4m3 (c : Nat) : Nat :=
  let s := c / 128 % 2 = 1
  let e := c / 8 % 16
  let m := c % 8
  if e = 15 && m = 7 then wfNan s
  else if e = 0 then wfOf s m (-9) else wfOf s (8 + m) ((e : Int) - 10)
def e5m2 (c : Nat) : Nat :=
  let s := c / 128 % 2 = 1
  let e := c / 4 % 32
  let m := c % 4
  if e = 31 then (if m = 0 then wf19.inf s else wfNan s)
  else if e = 0 then wfOf s m (-16) else wfOf s (4 + m) ((e : Int) - 17)
def int8 (c : Nat) : Nat := if c % 256 < 128 then wfOf false (c % 256) 0 else wfOf true (256 - c % 256) 0
def e2m1 (c : Nat) : Nat :=
  let s := c / 8 % 2 = 1
  let e := c / 2 % 4
  let m := c % 2
  if e = 0 then wfOf s m (-1) else wfOf s (2 + m) ((e : Int) - 2)

def Table.codes (t : Table) : Codes :=
  { w4 := t.w4, valid := t.valid, entry := fun c => (t.entries[c]?.getD 0).toNat }

/-- The table a selector names (R105, R124). -/
def Regs.codes (r : Regs) (t : TableSel) : Codes :=
  match t with
  | .e4m3 => { w4 := false, valid := true, entry := e4m3 }
  | .e5m2 => { w4 := false, valid := true, entry := e5m2 }
  | .int8 => { w4 := false, valid := true, entry := int8 }
  | .e2m1 => { w4 := true, valid := true, entry := e2m1 }
  | .ta => r.ta.codes
  | .tb => r.tb.codes

def selNumber : TableSel → Nat
  | .e4m3 => 0
  | .e5m2 => 1
  | .int8 => 2
  | .e2m1 => 3
  | .ta => 4
  | .tb => 5

/-- The slot a selector names, as R48 counts it. -/
def selRefs : TableSel → List RegRef
  | .ta => [⟨6, 0⟩]
  | .tb => [⟨6, 1⟩]
  | _ => []

/-! ### Table images (R103, R104) -/

/-- The values increase strictly; NaNs are left out. -/
def increasing : List Val → Bool
  | [] => true
  | [_] => true
  | a :: b :: t => cmpVal a b = some .lt && increasing (b :: t)

/-- Whether an image of 256 words makes a valid table in a mode. -/
def imageValid (ws : List Nat) (twos : Bool) : Bool :=
  let w4 := ws.getD 0 0 / 2 ^ 31 % 2 = 1
  let n := if w4 then 16 else 256
  let h := n / 2
  let e (i : Nat) : Nat := ws.getD i 0 % 2 ^ 19
  let vals (l : List Nat) : List Val := (l.map (fun i => wf19.value (e i))).filter (fun v => !v.isNan)
  (List.range 256).all (fun i =>
      let x := ws.getD i 0
      x / 2 ^ 19 % 4096 = 0 && (i = 0 || x / 2 ^ 31 % 2 = 0) && (i < n || x = 0) &&
        !(e i / 1024 % 256 = 0 && e i % 1024 ≠ 0)) &&
    (if twos then
        increasing (vals ((List.range h).map (fun i => h + i) ++ List.range h))
      else
        (List.range h).all (fun i => e i < 2 ^ 18 && e (h + i) = e i + 2 ^ 18) && increasing (vals (List.range h)))

/-- The table of an image's 1,024 bytes. -/
def tableOf (bs : List Byte) (twos : Bool) : Table :=
  let ws := (List.range 256).map (fun i => leNat ((bs.drop (4 * i)).take 4))
  { entries := Vector.ofFn (fun i : Fin 256 => BitVec.ofNat 19 (ws.getD i.val 0))
    w4 := ws.getD 0 0 / 2 ^ 31 % 2 = 1, twos := twos, valid := imageValid ws twos }

/-- The check of one granule read by a table image or a stream strip: DEV and SO pages are forbidden (R233). -/
def State.checkGranule (s : State) (a : Nat) : Except Stop Loc := do
  let l ← s.checkAccess a 64 .load
  if 2 ≤ l.ty.toNat then .error (.trap 0x06 (BitVec.ofNat 64 a)) else .ok l

/-- The checks of n granules of 64 bytes from an address on, each as a load. -/
def State.checkGranules (s : State) (addr : Word) (n : Nat) : Except Stop (List Loc) :=
  (List.range n).mapM (fun i => s.checkGranule (addr + BitVec.ofNat 64 (64 * i)).toNat)

/-- Reads checked places in order, n bytes each. -/
def State.readLocs (s : State) (n : Nat) : List Loc → Except Stop (State × List Byte)
  | [] => .ok (s, [])
  | l :: ls => do
    let (s, a) ← s.readLoc l n
    let (s, b) ← s.readLocs n ls
    .ok (s, a ++ b)

/-- A table image as ordinary loads read it (R123). -/
def State.readImage (s : State) (addr : Word) : Except Stop (State × List Byte) := do
  if addr.toNat % 64 ≠ 0 then .error (.trap 0x05 addr) else
  let ls ← s.checkGranules addr 16
  s.readLocs 64 ls

def execTbld (w : Pre) (slotB : Bool) (twos : Bool) (a : GReg) (s : State) : Out :=
  runInstr (.tbld w slotB twos a) w { srcs := [a], reads := a.refs, writes := selRefs (if slotB then .tb else .ta), long := true }
    (fun vs s => do
      let (s, bs) ← s.readImage (v0 vs)
      let t := tableOf bs twos
      .ok (s.updRegs (fun r => if slotB then { r with tb := t } else { r with ta := t }))) s

/-! ### ENC (R124) -/

/-- A finite FP32 or WF19 value as a multiple of 2^−149. -/
def fixedOf (v : Val) : Int :=
  match v with
  | .fin n m e => scaled n m e (-149)
  | _ => 0

/-- The finite codes of a table with their values. -/
def Codes.finite (t : Codes) : List (Nat × Int) :=
  (List.range t.count).filterMap (fun c =>
    match wf19.value (t.entry c) with
    | .fin n m e => some (c, fixedOf (.fin n m e))
    | _ => none)

def Codes.firstNan (t : Codes) : Option Nat := (List.range t.count).find? (fun c => (wf19.value (t.entry c)).isNan)
/-- The code of an infinity. -/
def Codes.infCode (t : Codes) (neg : Bool) : Option Nat :=
  (List.range t.count).find? (fun c => wf19.value (t.entry c) = .inf neg)

/-- The zero code of a sign, else any zero code. -/
def Codes.zeroCode (t : Codes) (neg : Bool) (l : List (Nat × Int)) : Option Nat :=
  let z := l.filter (fun e => e.2 = 0)
  match z.find? (fun e => (wf19.value (t.entry e.1)).neg = neg) with
  | some e => some e.1
  | none => z.head?.map (·.1)

/-- The code nearest to x; on a tie the one whose bit 0 is 0. -/
def nearest (l : List (Nat × Int)) (x : Int) : Nat × Int :=
  let dist (e : Nat × Int) : Nat := (e.2 - x).natAbs
  let best := l.foldl (fun b e => match b with | none => some (dist e) | some d => some (min d (dist e))) none
  let cs := l.filter (fun e => some (dist e) = best)
  let choose (ys : List (Nat × Int)) : Nat × Int :=
    let a := ys.headD (0, 0)
    let b := ys.getLastD (0, 0)
    if ys.all (fun e => e.2 = a.2) then a else if Config.encTieHigh a.1 b.1 then b else a
  match cs.filter (fun e => e.1 % 2 = 0) with
  | [] => choose cs
  | ev => choose ev

/-- A code for a value, the zero code with the argument's sign where the value is 0. -/
def Codes.signed (t : Codes) (neg : Bool) (l : List (Nat × Int)) (c : Nat × Int) : Nat :=
  if c.2 = 0 then (t.zeroCode neg l).getD c.1 else c.1

/-- enc of R124 for a valid table. -/
def Codes.enc (t : Codes) (infMode : Bool) (x : Nat) : Fp :=
  let v := fp32.value x
  let neg := v.neg
  let l := t.finite
  let infOf : Option Nat := if infMode then t.infCode neg else none
  if v.isNan then
    match t.firstNan with
    | some c => { bits := c, flags := if v.isSig then NV else 0 }
    | none => { bits := 0, flags := NV }
  else if l.isEmpty then
    let own := t.infCode neg
    match own, t.infCode (!neg) with
    | some c, _ => { bits := c, flags := if v.isInf then 0 else NX ||| OF }
    | none, some c => { bits := c, flags := NX }
    | none, none => { bits := t.firstNan.getD 0, flags := NV }
  else
    let side := l.filter (fun e => if neg then e.2 < 0 else 0 < e.2)
    if !v.isZero && side.isEmpty then
      match infOf with
      | some c => { bits := c, flags := if v.isInf then 0 else OF ||| NX }
      | none =>
        let far : Int := if v.isInf then (if neg then -2 ^ 300 else 2 ^ 300) else fixedOf v
        { bits := t.signed neg l (nearest l far), flags := NX }
    else
      let hi := side.foldl (fun b e => if b.2.natAbs < e.2.natAbs then e else b) (0, 0)
      let nb := side.foldl (fun b e => if e.2.natAbs < hi.2.natAbs then max b e.2.natAbs else b) 0
      if v.isInf then
        match infOf with
        | some c => { bits := c, flags := 0 }
        | none => { bits := hi.1, flags := NX }
      else
        let a := fixedOf v
        if !v.isZero && 3 * hi.2.natAbs - nb ≤ 2 * a.natAbs then
          { bits := infOf.getD hi.1, flags := OF ||| NX }
        else
          let c := nearest l a
          { bits := t.signed neg l c
            flags := (if c.2 ≠ a then NX else 0) ||| (if c.2 = 0 && a ≠ 0 then UF else 0) }

/-- The valid table of a selector, or the trap 0x0F (R104). -/
def State.validTable (s : State) (t : TableSel) : Except Stop Codes :=
  let c := s.regs.codes t
  if c.valid then .ok c else .error (.trap 0x0F (BitVec.ofNat 64 (selNumber t)))

def execEnc (w : Pre) (t : TableSel) (inf : Bool) (d : GReg) (a : FReg) (s : State) : Out :=
  runInstr (.enc w t inf d a) w { dst := some d, reads := rf a, tables := selRefs t, writes := d.refs }
    (fun _ s => do
      let c ← s.validTable t
      let x := s.regs.f[a]
      let r := c.enc inf x.toNat
      .ok ((s.writeG d (BitVec.ofNat 64 r.bits)).raiseFlags r.flags x 0)) s

/-! ### DEC (R125) -/

/-- The FP32 value of a code; bits above the code width are ignored. -/
def Codes.dec (t : Codes) (c : Nat) : Nat := (convert fp32 wf19 rne (t.entry (c % t.count))).bits

def execDec (w : Pre) (t : TableSel) (d : FReg) (a : GReg) (s : State) : Out :=
  runInstr (.dec w t d a) w { srcs := [a], reads := a.refs, tables := selRefs t, writes := rf d }
    (fun vs s => do
      let c ← s.validTable t
      .ok (s.updRegs (fun r => r.setF d (BitVec.ofNat 64 (c.dec (v0 vs).toNat))))) s

end Sys2Proof.Machine
end

