-- ==== Sys2Proof/Machine/Jobs.lean ====
section
/-!
DEFINITION. Engine jobs as the instructions see them: extents, identifiers, statuses, waiting for a job (R157 to R159,
R166, R169, R191, R193).
-/

namespace Sys2Proof.Machine

/-! ### Extents checked at issue (R166, R172, R191) -/

/-- The first addresses of the 64-byte granules that meet [a, a + n), the first one cut at a. -/
def granules (a n : Nat) : List Nat := (linesOf a n).map (fun g => max a g)

/-- A byte an engine may be given at issue: any global one, or a byte of the own cluster's scratchpads outside the
deque region that a window grants. -/
def State.engineByte (s : State) (c : CoreId) (tag : Tag) (kind : Kind) (a : Nat) : Bool :=
  if a < 2 ^ 56 then true
  else if !ownScratch a then false
  else
    let o := if aliasBase ≤ a then coreN c * 0x20000 + (a - aliasBase) else a - clusterBase
    scratchOpen (o % 0x20000) 1 && (s.core c).grants o true kind tag

/-- The first byte of a row at an address that an engine may not be given. -/
def State.badRow (s : State) (c : CoreId) (tag : Tag) (kind : Kind) (a : Int) (n : Nat) : Option Word :=
  if a < 0 then some (BitVec.ofInt 64 a)
  else if a.toNat + n ≤ 2 ^ 56 then none
  else ((granules a.toNat n).find? (fun b => !s.engineByte c tag kind b)).map (fun b => BitVec.ofNat 64 b)

/-- Checks rows in order; access fault at the first failing byte. -/
def State.checkRows (s : State) (kind : Kind) (rows : List (Int × Nat)) : Except Stop Unit :=
  match rows.findSome? (fun r => s.badRow s.turn.core s.regs.tag kind r.1 r.2) with
  | some a => .error (.trap 0x06 a)
  | none => .ok ()

/-- Reads a descriptor of n bytes, n-byte aligned, as slots. -/
def State.readDesc (s : State) (addr : Word) (n : Nat) : Except Stop (State × List Word) := do
  let l ← s.checkAccess addr.toNat n .load
  let (s, bs) ← s.readLoc l n
  .ok (s, slotsOf bs (n / 8))

/-! ### Identifiers and statuses (R158, R159, R193) -/

def seq24 (n : Nat) : BitVec 24 := BitVec.ofNat 24 n

/-- A job identifier. -/
def jobId (o : JobOwner) (seq : BitVec 24) (copy : Bool) : Word :=
  at' seq.toNat 0 ||| at' (coreX o.core) 24 ||| at' o.ctx.val 27 ||| atB copy 30

def State.owner (s : State) : JobOwner := { core := s.turn.core, ctx := s.myCtx, tag := s.regs.tag, region := s.regs.region }

def JobPhase.code : JobPhase → Nat
  | .queued => 0
  | .running => 1
  | .suspended => 2

/-- Entries that receive an identifier. -/
def MatWork.hasId : MatWork → Bool
  | .mma .. => true
  | .st _ => true
  | .zero _ => false
  | .table .. => false

/-- What an identifier finds. -/
inductive JobView where
  | bad
  | stale
  | live (status : Word)
  | done (st : JobStatus)
  deriving DecidableEq, Repr

/-- The status word a query returns. -/
def JobView.word : JobView → Word
  | .bad => 5
  | .stale => 4
  | .live w => w
  | .done st => st.status

/-- DONE, STALE or BADID. -/
def JobView.final : JobView → Bool
  | .live _ => false
  | _ => true

/-- What an identifier finds among a unit's live jobs and held statuses; `next` counts the jobs accepted. A job of another
domain is BADID, as is a CORE field that is not the asking core (R159). -/
def viewJob (c : CoreId) (tag : Tag) (copy : Bool) (next : Nat) (live : List (BitVec 24 × JobOwner × Word)) (done : List JobStatus)
    (id : Word) : JobView :=
  let seq : BitVec 24 := id.setWidth 24
  let ours (o : JobOwner) : Bool := o.tag = tag
  if bit id 30 != copy || id >>> 31 ≠ 0 || fld id 24 3 ≠ coreX c || (next < 2 ^ 24 && next ≤ seq.toNat) then .bad
  else match live.find? (fun e => e.1 = seq) with
  | some e => if ours e.2.1 then .live e.2.2 else .bad
  | none =>
    match done.find? (fun e => e.seq = seq) with
    | some st => if 256 < (seq24 next - seq).toNat then .stale else if ours st.owner then .done st else .bad
    | none => .stale

def State.viewMat (s : State) (id : Word) : JobView :=
  let t := s.troupe (troupeOf s.turn.core)
  viewJob s.turn.core s.regs.tag false t.matSeq
    (t.mat.filterMap (fun e => if e.work.hasId then some (e.seq, e.owner, matStatus e.phase.code 0 e.rg e.flags e.lsnew) else none))
    t.matDone id

def State.viewCopy (s : State) (id : Word) : JobView :=
  let t := s.troupe (troupeOf s.turn.core)
  viewJob s.turn.core s.regs.tag true t.copySeq
    (t.copies.map (fun e => (e.seq, e.owner, copyStatus e.phase.code 0 e.rows))) t.copyDone id

def State.updMyTroupe (s : State) (f : Troupe → Troupe) : State := s.updTroupe (troupeOf s.turn.core) f

/-- Marks a status as taken. -/
def takeStatus (l : List JobStatus) (seq : BitVec 24) : List JobStatus :=
  l.map (fun e => if e.seq = seq then { e with taken := true } else e)

/-- The answer to a query of a matrix job: the status, `mrow`, and at the first DONE its flags and stall clocks
(R169). -/
def State.answerMat (s : State) (d : GReg) (id : Word) (v : JobView) : State :=
  let x := v.word
  let s := s.updRegs (fun r => { r with mrow := at' (fld x 8 4) 0 ||| at' (fld x 0 4) 4 ||| at' (fld id 0 24) 8 })
  let s := match v with
    | .done st =>
      if st.taken then s
      else
        (s.updRegs (fun r => { r with
          fflg := r.fflg ||| st.status.extractLsb' 12 5
          mgst := BitVec.ofNat 64 (min (r.mgst.toNat + st.stall) (2 ^ 64 - 1)) })).updMyTroupe
          (fun t => { t with matDone := takeStatus t.matDone st.seq })
    | _ => s
  s.writeG d x

def State.answerCopy (s : State) (d : GReg) (v : JobView) : State := s.writeG d v.word

/-- An instruction that waits for a job (MWAIT, CWAIT). -/
def jobWait (i : Instr) (w : Pre) (d a : GReg) (view : State → Word → JobView) (answer : State → Word → JobView → State)
    (s : State) : Out :=
  keptOp i w { srcs := [a], dst := some d, reads := a.refs, writes := d.refs, long := true }
    (fun id => .job i id) (fun x => match x with | .job j id => if j = i then some id else none | _ => none)
    (fun vs s => do
      let s ← s.commitPoint
      .ok (s, v0 vs))
    (fun id s => let v := view s id; if v.final then some (.ok (answer s id v)) else none) s

/-- An instruction that asks for a job's status (MPOLL, CPOLL). -/
def jobPoll (i : Instr) (w : Pre) (d a : GReg) (view : State → Word → JobView) (answer : State → Word → JobView → State)
    (s : State) : Out :=
  runInstr i w { srcs := [a], dst := some d, reads := a.refs, writes := d.refs, long := true }
    (fun vs s => .ok (answer s (v0 vs) (view s (v0 vs)))) s

end Sys2Proof.Machine
end

