-- ==== Sys2Proof/Machine/Copy.lean ====
section
/-!
DEFINITION. Copy instructions and buffer handles as they issue (R190 to R196).
-/

namespace Sys2Proof.Machine

/-! ### COPY (R190, R191) -/

def fin32 (x : BitVec 5) : Fin 32 := ⟨x.toNat, x.isLt⟩

/-- A copy descriptor's fields; none where one breaks R190. -/
def copyDesc (p : List Word) : Option CopyDesc :=
  let x := p.getD 2 0
  let y := p.getD 3 0
  let rb := fld x 0 24
  let rows := fld x 24 16
  let ss := fld x 40 3
  let ds := fld x 43 3
  let acc (sp : Nat) (a : Word) (stride : Nat) : Bool := sp ≠ 3 || (a.toNat % 4 = 0 && rb % 4 = 0 && stride % 4 = 0)
  if h : ss < 5 ∧ ds < 5 then
    if rb ≠ 0 && rows ≠ 0 && x >>> 59 = 0 && acc ss (p.getD 0 0) (fld y 0 32) && acc ds (p.getD 1 0) (fld y 32 32) then
      some { src := p.getD 0 0, dst := p.getD 1 0, rowBytes := rb, rows := rows, sspace := ⟨ss, h.1⟩, dspace := ⟨ds, h.2⟩
             chan := x.extractLsb' 46 6, notify := bit x 52, handle := if bit x 53 then some (fin32 (x.extractLsb' 54 5)) else none
             sstride := fld y 0 32, dstride := fld y 32 32 }
    else none
  else none

/-- The address of an offset of a local space in the thread's address map. -/
def spaceAddr (space a : Nat) : Nat :=
  match space with
  | 1 => aliasBase + a
  | 2 => clusterBase + a
  | _ => accBase + a

/-- Size of a local space. -/
def spaceSize (space : Nat) : Nat :=
  match space with
  | 1 => 0x1F800
  | 2 => 0x800000
  | _ => 0x40000

/-- A byte of a local space that a copy may be given. -/
def State.copyByte (s : State) (c : CoreId) (tag : Tag) (kind : Kind) (space a : Nat) : Bool :=
  a < spaceSize space &&
    (if space = 3 then (s.troupe (troupeOf c)).owners[a / 16384]?.getD none = some tag
     else s.engineByte c tag kind (spaceAddr space a))

/-- The first byte of a row in a local space that a copy may not be given. -/
def State.badCopyRow (s : State) (kind : Kind) (space a n : Nat) : Option Word :=
  ((granules a n).find? (fun b => !s.copyByte s.turn.core s.regs.tag kind space b)).map
    (fun b => BitVec.ofNat 64 (spaceAddr space b))

/-- The rows of a side whose space is local, in order. -/
def State.checkCopySide (s : State) (kind : Kind) (space : Nat) (base : Word) (stride rows n : Nat) : Except Stop Unit :=
  if space = 0 || space = 4 then .ok ()
  else
    match (List.range rows).findSome? (fun r => s.badCopyRow kind space (base.toNat + r * stride) n) with
    | some a => .error (.trap 0x06 a)
    | none => .ok ()

/-- Accepts a copy job. -/
def State.acceptCopy (s : State) (d : CopyDesc) : Except Stop (State × BitVec 24) := do
  let s ← s.drainMe
  let t := s.troupe (troupeOf s.turn.core)
  if 32 ≤ t.copies.length then blocked else
  let e : CopyEntry := { owner := s.owner, desc := d, seq := seq24 t.copySeq, phase := .queued, rows := 0, fault := none }
  .ok (s.noRestore.updMyTroupe (fun t => { t with copies := t.copies ++ [e], copySeq := t.copySeq + 1 }), e.seq)

def execCopy (w : Pre) (d a : GReg) (s : State) : Out :=
  let i : Instr := .copy w d a
  runInstr i w { srcs := [a], dst := some d, reads := a.refs, writes := d.refs, long := true }
    (fun vs s => do
      let (s, p) ← s.readDesc (v0 vs) 32
      match copyDesc p with
      | none => .error (.trap 0x01 i.baseWord)
      | some x => do
        s.checkCopySide .load x.sspace.val x.src x.sstride x.rows x.rowBytes
        s.checkCopySide .store x.dspace.val x.dst x.dstride x.rows x.rowBytes
        let (s, seq) ← s.acceptCopy x
        .ok (s.writeG d (jobId s.owner seq true))) s

def execCwait (w : Pre) (d a : GReg) (s : State) : Out :=
  jobWait (.cwait w d a) w d a State.viewCopy (fun s _ v => s.answerCopy d v) s
def execCpoll (w : Pre) (d a : GReg) (s : State) : Out :=
  jobPoll (.cpoll w d a) w d a State.viewCopy (fun s _ v => s.answerCopy d v) s

/-! ### Buffer handles (R194 to R196) -/

def State.handle (s : State) (h : Fin 32) : Handle := (s.troupe (troupeOf s.turn.core)).handles[h]

/-- A handle number, on a handle that is FREE or carries the thread's domain tag. -/
def State.handleOf (s : State) (i : Instr) (x : Word) : Except Stop (Fin 32) :=
  if h : x.toNat < 32 then
    let n : Fin 32 := ⟨x.toNat, h⟩
    let y := s.handle n
    if y.state = .free || y.tag = s.regs.tag then .ok n else .error (.trap 0x06 x)
  else .error (.trap 0x01 i.baseWord)

def execBwait (w : Pre) (st : HandleState) (a : GReg) (s : State) : Out :=
  let i : Instr := .bwait w st a
  keptOp i w { srcs := [a], reads := a.refs } (fun h => .handle i h st)
    (fun x => match x with | .handle j h _ => if j = i then some h else none | _ => none)
    (fun vs s => do
      let h ← s.handleOf i (v0 vs)
      let s ← s.commitPoint
      .ok (s, h))
    (fun h s => if (s.handle h).state = st then some (.ok s) else none) s

def execBset (w : Pre) (st : HandleState) (a : GReg) (s : State) : Out :=
  let i : Instr := .bset w st a
  runInstr i w { srcs := [a], reads := a.refs }
    (fun vs s => do
      let h ← s.handleOf i (v0 vs)
      if (s.handle h).held then blocked else do
      let s ← s.drainMe
      let y : Handle := if st = .free then .reset else { state := st, held := false, tag := s.regs.tag }
      .ok (s.noRestore.updMyTroupe (fun t => { t with handles := t.handles.set h y }))) s

def handleCode : HandleState → Nat
  | .free => 0
  | .filling => 1
  | .full => 2
  | .draining => 3

/-- Accepted jobs waiting for a handle. -/
def Troupe.waiters (t : Troupe) (h : Fin 32) : Nat :=
  (t.mat.filter (fun e => match e.work with | .mma _ d .. => e.phase = .queued && d.handle = some h | _ => false)).length +
    (t.copies.filter (fun e => e.phase = .queued && e.desc.handle = some h)).length

def execBstat (w : Pre) (d a : GReg) (s : State) : Out :=
  let i : Instr := .bstat w d a
  runInstr i w { srcs := [a], dst := some d, reads := a.refs, writes := d.refs, long := true }
    (fun vs s => do
      let h ← s.handleOf i (v0 vs)
      let y := s.handle h
      .ok (s.writeG d (at' (handleCode y.state) 0 ||| atB y.held 2 ||| at' ((s.troupe (troupeOf s.turn.core)).waiters h) 8))) s

end Sys2Proof.Machine
end

