-- ==== Sys2Proof/Machine/Vector.lean ====
section
/-!
DEFINITION. Vector registers by lanes, streams, element masks, and the element-wise, reducing, moving, code and mask
instructions of page 2 (R127 to R140, R145, R146, R148 to R150).
-/

namespace Sys2Proof.Machine

/-! ### Lanes (R14, R127) -/

/-- Element i of w bytes. -/
def lane (x : BitVec 512) (w i : Nat) : Nat := x.toNat >>> (8 * w * i) % 2 ^ (8 * w)

/-- The register whose elements of w bytes are the list, from element 0. -/
def packNat (w : Nat) : List Nat → Nat
  | [] => 0
  | x :: t => x % 2 ^ (8 * w) + packNat w t <<< (8 * w)
def pack (w : Nat) (l : List Nat) : BitVec 512 := BitVec.ofNat 512 (packNat w l)

def toSigned (bits x : Nat) : Int := if x % 2 ^ bits < 2 ^ (bits - 1) then (x % 2 ^ bits : Nat) else (x % 2 ^ bits : Nat) - (2 ^ bits : Nat)
def ofSigned (bits : Nat) (x : Int) : Nat := (x % (2 ^ bits : Nat)).toNat

/-- The float format of an element type; integer types do not use it. -/
def elemFmt (t : ElemTy) : Fmt :=
  match t with
  | .bf16 => bf16
  | .fp16 => fp16
  | .f64 => fp64
  | _ => fp32

/-- Whether element i of w bytes is active under a word's mask (R128). -/
def Regs.active (r : Regs) (w : Pre) (width i : Nat) : Bool := bit (r.getM w.mask.1) (width * i)

/-! ### Streams (R148, R149) -/

def streamIdx (n : VReg) : Fin 4 := Fin.ofNat 4 (n.val - 28)

/-- The register is in stream mode. -/
def Regs.streaming (r : Regs) (n : VReg) : Bool := 28 ≤ n.val && r.streams[streamIdx n].on

/-- The address of a stream's strip n. -/
def Stream.addr (x : Stream) (n : Nat) : Word :=
  x.base + x.ostride.signExtend 64 * BitVec.ofNat 64 (n / x.inner.toNat) +
    x.istride.signExtend 64 * BitVec.ofNat 64 (n % x.inner.toNat)
def Stream.total (x : Stream) : Nat := x.inner.toNat * x.outer.toNat

def State.setStream (s : State) (i : Fin 4) (x : Stream) : State :=
  s.updRegs (fun r => { r with streams := r.streams.set i x })

/-- Fetches strip n of a stream: its data, with the verification that its pop leaves pending. It checks no guard bitmap
(R228). -/
def State.fetchStrip (s : State) (x : Stream) (n : Nat) : Except Stop (State × Strip) := do
  let l ← s.checkGranule (x.addr n).toNat
  let (s', bs) ← s.readRaw false l 64
  let old := s.me.verifs
  let fresh := s'.me.verifs.drop old.length
  .ok (s'.updMe (fun y => { y with verifs := old }), { data := BitVec.ofNat 512 (leNat bs), check := fresh.head? })

/-- Pops the next strip; zeros once every strip has been popped. -/
def State.popStrip (s : State) (i : Fin 4) : Except Stop (State × BitVec 512) := do
  let x := s.regs.streams[i]
  if x.total ≤ x.popped then .ok (s, 0) else
  let (s, st) ← (match x.ahead with
    | st :: _ => Except.ok (s, st)
    | [] => s.fetchStrip x x.popped)
  if st.check.isSome && 32 ≤ s.me.verifs.length then blocked else
  let s := s.setStream i { x with popped := x.popped + 1, ahead := x.ahead.drop 1 }
  .ok (s.updMe (fun y => { y with verifs := y.verifs ++ st.check.toList }), st.data)

/-- Reads a vector register as a source. -/
def State.readV (s : State) (n : VReg) : Except Stop (State × BitVec 512) :=
  if s.regs.streaming n then s.popStrip (streamIdx n) else .ok (s, s.regs.v[n])

/-- A stream-mode register is no destination. The spec does not order this trap among an instruction's execution traps; the model
tests it before the others (DESIGN CHOICE; log 131). -/
def State.checkDst (s : State) (i : Instr) (d : VReg) : Except Stop Unit :=
  if s.regs.streaming d then .error (.trap 0x01 i.baseWord) else .ok ()

/-- Reads the B operand: every element, or the broadcast scalar. -/
def State.readB (s : State) (b : VSrc) (g : Word) (width : Nat) : Except Stop (State × BitVec 512) :=
  match b with
  | .vec r => s.readV r
  | .bcast x => .ok (s, pack width (List.replicate (64 / width) (x.read g s).toNat))

end Sys2Proof.Machine

namespace Sys2Proof

open Machine

def VSrc.srcs : VSrc → List GReg
  | .vec _ => []
  | .bcast x => x.srcs
/-- Some source is a stream (R149: the result is long). -/
def VSrc.streaming (b : VSrc) (r : Regs) : Bool :=
  match b with
  | .vec n => r.streaming n
  | .bcast _ => false

end Sys2Proof

namespace Sys2Proof.Machine

/-! ### Writing elements (R128) -/

/-- The n elements of a result: new where active, else 0 under zeroing or the old value. -/
def mergeElems (n width : Nat) (act : Nat → Bool) (zero : Bool) (old : BitVec 512) (new : Nat → Nat) : BitVec 512 :=
  pack width ((List.range n).map (fun i => if act i then new i else if zero then 0 else lane old width i))

/-- Flags of the elements, with the operands of the lowest one that raised an enabled flag (R112, R127). -/
def State.raiseElems (s : State) (fl : List Fl) (a b : Nat → Nat) : State :=
  let all := fl.foldl (fun x y => x ||| y) 0
  let i := (fl.findIdx? (fun x => x &&& s.regs.fen ≠ 0)).getD 0
  s.raiseFlags all (BitVec.ofNat 64 (a i)) (BitVec.ofNat 64 (b i))

def State.setV (s : State) (d : VReg) (x : BitVec 512) : State := s.updRegs (fun r => r.setV d x)

/-- Writes the active elements' results and raises their flags. -/
def State.vwrite (s : State) (w : Pre) (width : Nat) (d : VReg) (rs : List Fp) (a b : Nat → Nat) : State :=
  let r := s.regs
  let x := mergeElems (64 / width) width (r.active w width) w.mask.2 r.v[d] (fun i => (rs.getD i ⟨0, 0⟩).bits)
  (s.setV d x).raiseElems (rs.map (·.flags)) a b

/-- Results for the active elements only. -/
def Regs.onActive (r : Regs) (w : Pre) (width n : Nat) (f : Nat → Fp) : List Fp :=
  (List.range n).map (fun i => if r.active w width i then f i else ⟨0, 0⟩)

/-! ### Element-wise arithmetic (R131) -/

/-- An element operation over mode, A and B. -/
def velem (i : Instr) (w : Pre) (t : ElemTy) (d a : VReg) (b : VSrc) (op : Nat → Nat → Nat → Fp) (s : State) : Out :=
  runInstr i w { srcs := b.srcs, reads := rv a ++ b.refs, writes := rv d, long := s.regs.streaming a || b.streaming s.regs }
    (fun vs s => do
      s.checkDst i d
      let n := t.bytes
      let (s, x) ← s.readV a
      let (s, y) ← s.readB b (v0 vs) n
      let rs := s.regs.onActive w n (64 / n) (fun j => op s.regs.rm (lane x n j) (lane y n j))
      .ok (s.vwrite w n d rs (lane x n) (lane y n))) s

/-- An integer operation on element patterns as a result without flags. -/
def intOp (f : Nat → Nat → Nat) : Nat → Nat → Nat → Fp := fun _ a b => { bits := f a b, flags := 0 }

def vaddOp (t : ElemTy) : Nat → Nat → Nat → Fp := if t.isInt then intOp (· + ·) else (elemFmt t).add
def vsubOp (t : ElemTy) : Nat → Nat → Nat → Fp :=
  if t.isInt then intOp (fun a b => a + 2 ^ (8 * t.bytes) - b) else (elemFmt t).sub
def vmulOp (t : ElemTy) : Nat → Nat → Nat → Fp := if t.isInt then intOp (· * ·) else (elemFmt t).mul
def vpickOp (greater : Bool) (t : ElemTy) : Nat → Nat → Nat → Fp :=
  if t.isInt then
    intOp (fun a b => if (decide (toSigned (8 * t.bytes) a < toSigned (8 * t.bytes) b)) != greater then a else b)
  else fun _ a b => (elemFmt t).pick greater a b

def execVadd (w : Pre) (t : ElemTy) (d a : VReg) (b : VSrc) (s : State) : Out := velem (.vadd w t d a b) w t d a b (vaddOp t) s
def execVsub (w : Pre) (t : ElemTy) (d a : VReg) (b : VSrc) (s : State) : Out := velem (.vsub w t d a b) w t d a b (vsubOp t) s
def execVmul (w : Pre) (t : ElemTy) (d a : VReg) (b : VSrc) (s : State) : Out := velem (.vmul w t d a b) w t d a b (vmulOp t) s
def execVmin (w : Pre) (t : ElemTy) (d a : VReg) (b : VSrc) (s : State) : Out :=
  velem (.vmin w t d a b) w t d a b (vpickOp false t) s
def execVmax (w : Pre) (t : ElemTy) (d a : VReg) (b : VSrc) (s : State) : Out :=
  velem (.vmax w t d a b) w t d a b (vpickOp true t) s
def execVand (w : Pre) (t : ElemTy) (d a : VReg) (b : VSrc) (s : State) : Out :=
  velem (.vand w t d a b) w t d a b (intOp (· &&& ·)) s
def execVor (w : Pre) (t : ElemTy) (d a : VReg) (b : VSrc) (s : State) : Out :=
  velem (.vor w t d a b) w t d a b (intOp (· ||| ·)) s
def execVxor (w : Pre) (t : ElemTy) (d a : VReg) (b : VSrc) (s : State) : Out :=
  velem (.vxor w t d a b) w t d a b (intOp (· ^^^ ·)) s
def execVshl (w : Pre) (t : ElemTy) (d a : VReg) (b : VSrc) (s : State) : Out :=
  velem (.vshl w t d a b) w t d a b (intOp (fun x y => x <<< (y % (8 * t.bytes)))) s
def execVshr (w : Pre) (t : ElemTy) (d a : VReg) (b : VSrc) (s : State) : Out :=
  velem (.vshr w t d a b) w t d a b (intOp (fun x y => x >>> (y % (8 * t.bytes)))) s
def execVsar (w : Pre) (t : ElemTy) (d a : VReg) (b : VSrc) (s : State) : Out :=
  velem (.vsar w t d a b) w t d a b
    (intOp (fun x y => ofSigned (8 * t.bytes) (toSigned (8 * t.bytes) x / (2 ^ (y % (8 * t.bytes)) : Nat)))) s

/-- The vector register a PFX.R names, D without one (R51). -/
def srcV (w : Pre) (d : VReg) : VReg := match chainSrc w.chain with | some c => Fin.ofNat 32 c.toNat | none => d

def execVfma (w : Pre) (t : ElemTy) (d a : VReg) (b : VSrc) (s : State) : Out :=
  let i : Instr := .vfma w t d a b
  let c := srcV w d
  runInstr i w { srcs := b.srcs, reads := rv a ++ b.refs ++ rv c, writes := rv d, long := true }
    (fun vs s => do
      s.checkDst i d
      let n := t.bytes
      let (s, x) ← s.readV a
      let (s, y) ← s.readB b (v0 vs) n
      let (s, z) ← s.readV c
      let rs := s.regs.onActive w n (64 / n) (fun j =>
        (elemFmt t).fma s.regs.rm false false (lane x n j) (lane y n j) (lane z n j))
      .ok (s.vwrite w n d rs (lane x n) (lane y n))) s

/-! ### VUN (R132) -/

/-- An element operation over A alone. -/
def vun (i : Instr) (w : Pre) (t : ElemTy) (d a : VReg) (op : Nat → Nat) (s : State) : Out :=
  runInstr i w { reads := rv a, writes := rv d, long := s.regs.streaming a }
    (fun _ s => do
      s.checkDst i d
      let (s, x) ← s.readV a
      let rs := s.regs.onActive w t.bytes (64 / t.bytes) (fun j => ⟨op (lane x t.bytes j), 0⟩)
      .ok (s.vwrite w t.bytes d rs (lane x t.bytes) (fun _ => 0))) s

def execVabs (w : Pre) (t : ElemTy) (d a : VReg) (s : State) : Out :=
  vun (.vabs w t d a) w t d a (fun x =>
    if t.isInt then (toSigned (8 * t.bytes) x).natAbs else (elemFmt t).abs x) s
def execVneg (w : Pre) (t : ElemTy) (d a : VReg) (s : State) : Out :=
  vun (.vneg w t d a) w t d a (fun x =>
    if t.isInt then 2 ^ (8 * t.bytes) - x else (elemFmt t).negate x) s

/-! ### VCMP, VSEL (R133, R134) -/

def vcondInt (c : VCond) (bits a b : Nat) : Bool :=
  match c with
  | .eq => a = b
  | .ne => a ≠ b
  | .lt => toSigned bits a < toSigned bits b
  | .ge => toSigned bits b ≤ toSigned bits a
  | .ltu => a < b
  | .geu => b ≤ a
  | .le => toSigned bits a ≤ toSigned bits b
  | .un => false

def vcondFloat (c : VCond) (o : Option Ordering) : Bool :=
  match c with
  | .eq => o = some .eq
  | .ne => o ≠ some .eq
  | .lt => o = some .lt
  | .ge => o = some .gt || o = some .eq
  | .le => o = some .lt || o = some .eq
  | .un => o = none
  | .ltu | .geu => false

def vcondAll : VCond → Bool
  | .lt | .ge | .le => true
  | _ => false

/-- One element's comparison: bit 0 of `bits` is the outcome. -/
def vcmpElem (t : ElemTy) (c : VCond) (a b : Nat) : Fp :=
  if t.isInt then { bits := if vcondInt c (8 * t.bytes) a b then 1 else 0, flags := 0 }
  else
    let x := (elemFmt t).value a
    let y := (elemFmt t).value b
    { bits := if vcondFloat c (cmpVal x y) then 1 else 0, flags := cmpFlag (vcondAll c) x y }

/-- A word whose bit i is f i. -/
def maskOf (f : Nat → Bool) : Word := BitVec.ofNat 64 ((List.range 64).foldr (fun i x => 2 * x + (if f i then 1 else 0)) 0)

def execVcmp (w : Pre) (t : ElemTy) (c : VCond) (m : MReg) (a : VReg) (b : VSrc) (s : State) : Out :=
  runInstr (.vcmp w t c m a b) w
    { srcs := b.srcs, reads := rv a ++ b.refs, writes := rm m, long := s.regs.streaming a || b.streaming s.regs }
    (fun vs s => do
      let n := t.bytes
      let (s, x) ← s.readV a
      let (s, y) ← s.readB b (v0 vs) n
      let r := s.regs
      let rs := r.onActive w n (64 / n) (fun j => vcmpElem t c (lane x n j) (lane y n j))
      let res := maskOf (fun l =>
        if r.active w n (l / n) then (rs.getD (l / n) ⟨0, 0⟩).bits = 1 else !w.mask.2 && bit (r.getM m) l)
      .ok ((s.updRegs (fun q => q.setM m res)).raiseElems (rs.map (·.flags)) (lane x n) (lane y n))) s

def execVsel (w : Pre) (t : ElemTy) (d a : VReg) (b : VSrc) (s : State) : Out :=
  let i : Instr := .vsel w t d a b
  runInstr i w { srcs := b.srcs, reads := rv a ++ b.refs, writes := rv d, long := s.regs.streaming a || b.streaming s.regs }
    (fun vs s => do
      s.checkDst i d
      let n := t.bytes
      let (s, x) ← s.readV a
      let (s, y) ← s.readB b (v0 vs) n
      let r := s.regs
      .ok (s.setV d (pack n ((List.range (64 / n)).map (fun j => if r.active w n j then lane x n j else lane y n j))))) s

/-! ### VCVT (R135) -/

/-- One element's conversion. -/
def vcvtElem (dst src : ElemTy) (rm x : Nat) : Fp :=
  if dst = src then { bits := x, flags := 0 }
  else match dst.isInt, src.isInt with
  | false, false => convert (elemFmt dst) (elemFmt src) rm x
  | false, true => ofInteger (elemFmt dst) rm (toSigned (8 * src.bytes) x)
  | true, false => toInteger (elemFmt src) rm true (8 * dst.bytes) x
  | true, true => { bits := ofSigned (8 * dst.bytes) (toSigned (8 * src.bytes) x), flags := 0 }

def execVcvt (w : Pre) (dst src : ElemTy) (d a : VReg) (s : State) : Out :=
  let i : Instr := .vcvt w dst src d a
  runInstr i w { reads := rv a, writes := rv d, long := s.regs.streaming a }
    (fun _ s => do
      s.checkDst i d
      let (s, x) ← s.readV a
      let n := 64 / max src.bytes dst.bytes
      let r := s.regs
      let rs := r.onActive w dst.bytes n (fun j => vcvtElem dst src r.rm (lane x src.bytes j))
      let y := mergeElems n dst.bytes (r.active w dst.bytes) w.mask.2 r.v[d] (fun j => (rs.getD j ⟨0, 0⟩).bits)
      .ok ((s.setV d y).raiseElems (rs.map (·.flags)) (lane x src.bytes) (fun _ => 0))) s

/-! ### VRED (R136) -/

/-- One level of the pairwise tree. -/
def pairUp {α : Type} (f : α → α → α) : List α → List α
  | a :: b :: t => f a b :: pairUp f t
  | l => l

/-- The tree over a list, level by level. -/
def tree {α : Type} (f : α → α → α) : Nat → List α → List α
  | 0, l => l
  | n + 1, l => tree f n (pairUp f l)

/-- The operation at a node. -/
def redOp (t : ElemTy) (o : RedOp) (rm a b : Nat) : Fp :=
  match o with
  | .sum => let r := vaddOp t rm a b; { r with bits := r.bits % 2 ^ (8 * t.bytes) }
  | .max => vpickOp true t rm a b
  | .min => vpickOp false t rm a b
  | .and => { bits := a &&& b, flags := 0 }
  | .or => { bits := a ||| b, flags := 0 }

/-- The result for no active element. -/
def redEmpty (t : ElemTy) (o : RedOp) : Nat :=
  let b := 8 * t.bytes
  match o with
  | .sum => 0
  | .or => 0
  | .and => 2 ^ b - 1
  | .max => if t.isInt then 2 ^ (b - 1) else (elemFmt t).inf true
  | .min => if t.isInt then 2 ^ (b - 1) - 1 else (elemFmt t).inf false

/-- vred of R136 over the elements, absent where inactive. -/
def vred (t : ElemTy) (o : RedOp) (rm : Nat) (l : List (Option Nat)) : Fp :=
  let node (x y : Option Nat × Fl) : Option Nat × Fl :=
    match x.1, y.1 with
    | some a, some b => let r := redOp t o rm a b; (some r.bits, x.2 ||| y.2 ||| r.flags)
    | some a, none => (some a, x.2 ||| y.2)
    | none, b => (b, x.2 ||| y.2)
  match tree node 6 (l.map (fun x => (x, (0 : Fl)))) with
  | (some a, fl) :: _ => { bits := a, flags := fl }
  | _ => { bits := redEmpty t o, flags := 0 }

/-- An element in a scalar register: sign-extended in g, in the low bits of f. -/
def elemScalar (t : ElemTy) (x : Nat) : Word :=
  if t.isInt then sext (BitVec.ofNat 64 x) (8 * t.bytes) else BitVec.ofNat 64 x

def execVred (w : Pre) (t : ElemTy) (o : RedOp) (d : Scalar) (a : VReg) (s : State) : Out :=
  runInstr (.vred w t o d a) w { dst := d.gdst, reads := rv a, writes := d.refs, long := true }
    (fun _ s => do
      let (s, x) ← s.readV a
      let n := t.bytes
      let r := vred t o s.regs.rm ((List.range (64 / n)).map (fun j => if s.regs.active w n j then some (lane x n j) else none))
      .ok ((s.writeScalar d (elemScalar t r.bits)).raiseFlags r.flags (x.setWidth 64) 0)) s

/-! ### Moves (R137 to R140) -/

def execVbc (w : Pre) (t : ElemTy) (d : VReg) (a : Scalar) (s : State) : Out :=
  let i : Instr := .vbc w t d a
  runInstr i w { srcs := a.srcs, reads := a.refs, writes := rv d }
    (fun vs s => do
      s.checkDst i d
      let n := t.bytes
      let x := (a.read (v0 vs) s).toNat
      .ok (s.vwrite w n d (List.replicate (64 / n) ⟨x, 0⟩) (fun _ => 0) (fun _ => 0))) s

def execVperm (w : Pre) (t : ElemTy) (d a b : VReg) (s : State) : Out :=
  let i : Instr := .vperm w t d a b
  runInstr i w { reads := rv a ++ rv b, writes := rv d, long := s.regs.streaming a || s.regs.streaming b }
    (fun _ s => do
      s.checkDst i d
      let n := t.bytes
      let (s, x) ← s.readV a
      let (s, y) ← s.readV b
      let rs := s.regs.onActive w n (64 / n) (fun j => ⟨if lane y n j < 64 / n then lane x n (lane y n j) else 0, 0⟩)
      .ok (s.vwrite w n d rs (fun _ => 0) (fun _ => 0))) s

def execVsld (w : Pre) (t : ElemTy) (d a : VReg) (b : GReg) (s : State) : Out :=
  let i : Instr := .vsld w t d a b
  runInstr i w { srcs := [b], reads := rv a ++ b.refs, writes := rv d, long := s.regs.streaming a }
    (fun vs s => do
      s.checkDst i d
      let n := t.bytes
      let (s, x) ← s.readV a
      let rs := s.regs.onActive w n (64 / n) (fun j =>
        let k := (v0 vs).toInt + (j : Int)
        ⟨if 0 ≤ k && k < ((64 / n : Nat) : Int) then lane x n k.toNat else 0, 0⟩)
      .ok (s.vwrite w n d rs (fun _ => 0) (fun _ => 0))) s

def execVins (w : Pre) (t : ElemTy) (d : VReg) (a : Scalar) (b : GReg) (s : State) : Out :=
  let i : Instr := .vins w t d a b
  runInstr i w { srcs := a.srcs ++ [b], reads := a.refs ++ b.refs, writes := rv d }
    (fun vs s => do
      s.checkDst i d
      let n := t.bytes
      let k := (vs.getLastD 0).toNat
      let x := (a.read (v0 vs) s).toNat
      .ok (s.setV d (mergeElems (64 / n) n (fun j => j = k) false s.regs.v[d] (fun _ => x)))) s

def execVext (w : Pre) (t : ElemTy) (d : Scalar) (a : VReg) (b : GReg) (s : State) : Out :=
  runInstr (.vext w t d a b) w
    { srcs := [b], dst := d.gdst, reads := rv a ++ b.refs, writes := d.refs, long := s.regs.streaming a }
    (fun vs s => do
      let n := t.bytes
      let (s, x) ← s.readV a
      let k := (v0 vs).toNat
      .ok (s.writeScalar d (if k < 64 / n then elemScalar t (lane x n k) else 0))) s

/-! ### VTOPK (R145) -/

/-- Whether a candidate ranks before another of a higher index: its value is not less. -/
def ranksBefore (t : ElemTy) (a b : Nat) : Bool :=
  if t.isInt then toSigned (8 * t.bytes) b ≤ toSigned (8 * t.bytes) a
  else match cmpVal ((elemFmt t).value a) ((elemFmt t).value b) with
  | some .lt => false
  | _ => true

/-- Enters a candidate of lower index than those of a ranked list. -/
def rankIn (t : ElemTy) (x : Nat × Nat) : List (Nat × Nat) → List (Nat × Nat)
  | [] => [x]
  | y :: l => if ranksBefore t x.2 y.2 then x :: y :: l else y :: rankIn t x l

/-- The indices of the candidates, greatest value first, lower index first among equals. -/
def ranked (t : ElemTy) (l : List (Nat × Nat)) : List Nat := (l.foldr (rankIn t) []).map (·.1)

def execVtopk (w : Pre) (t : ElemTy) (d a : VReg) (b : GReg) (s : State) : Out :=
  let i : Instr := .vtopk w t d a b
  runInstr i w { srcs := [b], reads := rv a ++ b.refs, writes := rv d, long := true }
    (fun vs s => do
      s.checkDst i d
      let n := t.bytes
      let (s, x) ← s.readV a
      let act := (List.range (64 / n)).filter (fun j => s.regs.active w n j)
      let nan (j : Nat) : Bool := !t.isInt && ((elemFmt t).value (lane x n j)).isNan
      let sig := act.any (fun j => !t.isInt && ((elemFmt t).value (lane x n j)).isSig)
      let top := (ranked t ((act.filter (fun j => !nan j)).map (fun j => (j, lane x n j)))).take (min (v0 vs).toNat 64)
      .ok ((s.setV d (pack 1 ((List.range 64).map (fun j => top.getD j 0xFF)))).raiseFlags (if sig then NV else 0)
        (x.setWidth 64) (v0 vs))) s

/-! ### VENC, VDEC (R146) -/

/-- Code j of a register. -/
def codeAt (w4 : Bool) (x : BitVec 512) (j : Nat) : Nat := if w4 then x.toNat >>> (4 * j) % 16 else lane x 1 j

def execVenc (w : Pre) (t : TableSel) (inf : Bool) (d a : VReg) (s : State) : Out :=
  let i : Instr := .venc w t inf d a
  runInstr i w { reads := rv a, tables := selRefs t, writes := rv d, long := s.regs.streaming a }
    (fun _ s => do
      s.checkDst i d
      let c ← s.validTable t
      let (s, x) ← s.readV a
      let r := s.regs
      let rs := r.onActive w 4 16 (fun j => c.enc inf (lane x 4 j))
      let bits := if c.w4 then 4 else 8
      let code (j : Nat) : Nat :=
        if r.active w 4 j then (rs.getD j ⟨0, 0⟩).bits else if w.mask.2 then 0 else codeAt c.w4 r.v[d] j
      let y := (List.range 16).foldr (fun j n => n * 2 ^ bits + code j % 2 ^ bits) 0
      .ok ((s.setV d (BitVec.ofNat 512 y)).raiseElems (rs.map (·.flags)) (lane x 4) (fun _ => 0))) s

def execVdec (w : Pre) (t : TableSel) (d a : VReg) (s : State) : Out :=
  let i : Instr := .vdec w t d a
  runInstr i w { reads := rv a, tables := selRefs t, writes := rv d, long := s.regs.streaming a }
    (fun _ s => do
      s.checkDst i d
      let c ← s.validTable t
      let (s, x) ← s.readV a
      let rs := s.regs.onActive w 4 16 (fun j => ⟨c.dec (codeAt c.w4 x j), 0⟩)
      .ok (s.vwrite w 4 d rs (fun _ => 0) (fun _ => 0))) s

/-! ### STRM (R148) -/

/-- STRM.ON: the pattern is read, the store buffer drains, and fetching begins. -/
def State.streamOn (s : State) (n : Fin 4) (addr : Word) : Except Stop State := do
  if addr.toNat % 32 ≠ 0 then .error (.trap 0x05 addr) else
  if !ownScratch addr.toNat then .error (.trap 0x06 addr) else
    let l ← s.checkSpace addr.toNat 32 .load
    let (s, bs) ← s.readLoc l 32
    let p := slotsOf bs 4
    let base := p.getD 0 0
    let is : BitVec 32 := (p.getD 2 0).setWidth 32
    let os : BitVec 32 := (p.getD 2 0).extractLsb' 32 32
    if base.toNat % 64 ≠ 0 then .error (.trap 0x05 base)
    else if is.toNat % 64 ≠ 0 then .error (.trap 0x05 (is.signExtend 64))
    else if os.toNat % 64 ≠ 0 then .error (.trap 0x05 (os.signExtend 64))
    else do
      let s ← s.drainMe
      .ok (s.setStream n { on := true, base := base, inner := (p.getD 1 0).setWidth 32, outer := (p.getD 1 0).extractLsb' 32 32, istride := is, ostride := os, popped := 0, ahead := [] })

/-- v28 to v31. -/
def streamReg (d : Fin 4) : VReg := ⟨28 + d.val, by omega⟩

/-- STRM.ON. BASE is checked before ISTRIDE before OSTRIDE; a misaligned stride stands in tval sign-extended (log 102). The hazard
check counts the stream's vector register as written, which the spec does not say (DESIGN CHOICE; log 130). -/
def execStrmOn (w : Pre) (d : Fin 4) (a : GReg) (s : State) : Out :=
  runInstr (.strmOn w d a) w { srcs := [a], reads := a.refs, writes := rv (streamReg d) } (fun vs s => s.streamOn d (v0 vs)) s

/-- Out of stream mode the register reads 0 until written. -/
def execStrmOff (w : Pre) (d : Fin 4) (s : State) : Out :=
  runInstr (.strmOff w d) w { writes := rv (streamReg d) }
    (fun _ s => .ok ((s.setStream d .off).setV (streamReg d) 0)) s

/-! ### VMSK (R150) -/

def maskFn (o : MaskOp) (a b : Word) : Word :=
  match o with
  | .and => a &&& b
  | .or => a ||| b
  | .xor => a ^^^ b
  | .andn => a &&& ~~~b
  | .not => ~~~a
  | .mov => a

def execVmsk (w : Pre) (o : MaskOp) (d a b : MReg) (s : State) : Out :=
  runInstr (.vmsk w o d a b) w { reads := rm a ++ rm b, writes := rm d }
    (fun _ s => .ok (s.updRegs (fun r => r.setM d (maskFn o (r.getM a) (r.getM b))))) s

end Sys2Proof.Machine
end

