-- ==== Sys2Proof/Machine/Dot.lean ====
section
/-!
DEFINITION. The windowed group sum shared by the vector dot products and the matrix engine, and the dot products
(R142 to R144).
-/

namespace Sys2Proof.Machine

/-- A product of a fusion group: its two values and the power of two of its scales, none where a scale is NaN. -/
structure Prod' where
  a : Val
  b : Val
  scale : Option Int

/-- The window width of an ALW code (R130). -/
def window (alw : BitVec 3) : Nat := 24 + 8 * alw.toNat

/-- The power of two of two E8 scales (R102). -/
def scaleOf (sa sb : Nat) : Option Int :=
  if sa = 255 || sb = 255 then none else some ((sa : Int) + (sb : Int) - 254)

/-- The exact product; none where a value or scale is NaN or the product is 0·∞. -/
def Prod'.value (p : Prod') : Option Val :=
  match p.scale with
  | none => none
  | some k =>
    if p.a.isNan || p.b.isNan then none
    else match mulVal p.a p.b with
    | some (.fin n m e) => some (.fin n m (e + k))
    | v => v

/-- The outcome of group_sum (R143): the sum, its flags, and whether a nonzero bit was discarded. -/
structure GroupSum where
  sum : Val
  flags : Fl
  lost : Bool
  deriving DecidableEq, Repr

def canonicalVal : Val := .nan false (2 ^ 22) false

/-- |p|/q truncated, and whether bits were lost, for q = 2^eq. -/
def truncTo (m : Nat) (e eq : Int) : Nat × Bool :=
  if eq ≤ e then (m <<< (e - eq).toNat, false)
  else (m >>> (eq - e).toNat, m % 2 ^ (eq - e).toNat ≠ 0)

/-- Exponents of the leading bits of the nonzero products. -/
def leads (vs : List Val) : List Int :=
  vs.filterMap (fun v => match v with | .fin _ m e => if m = 0 then none else some ((m.log2 : Int) + e) | _ => none)

/-- group_sum of R143 over the active products. -/
def groupSum (w : Nat) (ps : List Prod') : GroupSum :=
  let vs := ps.map (·.value)
  if vs.any Option.isNone then { sum := canonicalVal, flags := NV, lost := false } else
  let vs := vs.filterMap id
  let pos := vs.any (fun v => v = .inf false)
  let neg := vs.any (fun v => v = .inf true)
  if pos && neg then { sum := canonicalVal, flags := NV, lost := false }
  else if pos then { sum := .inf false, flags := 0, lost := false }
  else if neg then { sum := .inf true, flags := 0, lost := false }
  else match leads vs with
  | [] => { sum := .fin false 0 0, flags := 0, lost := false }
  | l :: ls =>
    let eq : Int := ls.foldl max l - (w : Int) + 1
    let ts := vs.map (fun v => match v with
      | .fin n m e => let t := truncTo m e eq; ((if n then -(t.1 : Int) else t.1), t.2)
      | _ => (0, false))
    let s : Int := ts.foldl (fun x t => x + t.1) 0
    { sum := if s = 0 then .fin false 0 0 else .fin (s < 0) s.natAbs eq, flags := 0, lost := ts.any (·.2) }

/-- The accumulator after the groups in order, rounded once per group. -/
def dotGroups (w rm : Nat) (acc : Nat) (groups : List (List Prod')) : Fp × Bool :=
  groups.foldl (fun x g =>
    let s := groupSum w g
    let r := fp32.addVal rm (fp32.value x.1.bits) s.sum
    ({ bits := r.bits, flags := x.1.flags ||| s.flags ||| r.flags }, x.2 || s.lost)) ({ bits := acc, flags := 0 }, false)

/-- Byte j of a word. -/
def byteOf (x : Word) (j : Nat) : Nat := x.toNat / 2 ^ (8 * j) % 256

/-- A dot product into fD: `groups` gives the products of each group. -/
def vdotOp (i : Instr) (w : Pre) (d : FReg) (a b : VReg) (reads tables : List RegRef)
    (groups : State → BitVec 512 → BitVec 512 → Except Stop (List (List Prod'))) (s : State) : Out :=
  runInstr i w { reads := rv a ++ rv b ++ reads, tables := tables, writes := rf d, long := true, own := true }
    (fun _ s => do
      let (s, x) ← s.readV a
      let (s, y) ← s.readV b
      let gs ← groups s x y
      let r := dotGroups (window s.regs.valw) s.regs.rm ((s.regs.f[d]).toNat % 2 ^ 32) gs
      let s := s.updRegs (fun q => q.setF d (BitVec.ofNat 64 r.1.bits))
      let s := s.updMe (fun c => { c with outstanding := c.outstanding ++ [{ lsf := if r.2 then 1#32 <<< d.val else 0 }] })
      .ok (s.raiseFlags r.1.flags (x.setWidth 64) (y.setWidth 64))) s

/-- The valid table of a selector with the code width wanted (R142). -/
def State.dotTable (s : State) (t : TableSel) (w4 : Bool) : Except Stop Codes := do
  let c ← s.validTable t
  if c.w4 = w4 then .ok c else .error (.trap 0x0F (BitVec.ofNat 64 (selNumber t)))

/-- The active products of a group of 32. -/
def groupOf (act : Nat → Bool) (p : Nat → Prod') (g : Nat) : List Prod' :=
  (List.range 32).filterMap (fun j => if act (32 * g + j) then some (p (32 * g + j)) else none)

def execVdotqq (w : Pre) (t : TableSel) (d : FReg) (a b : VReg) (s : State) : Out :=
  let c := srcF w d
  vdotOp (.vdotqq w t d a b) w d a b (rf c ++ rf d) (selRefs t) (fun s x y => do
    let tab ← s.dotTable t false
    let sc := s.regs.f[c]
    let p (k : Nat) : Prod' :=
      { a := wf19.value (tab.entry (lane x 1 k)), b := wf19.value (tab.entry (lane y 1 k))
        scale := scaleOf (byteOf sc (k / 16)) (byteOf sc (4 + k / 16)) }
    .ok ((List.range 2).map (groupOf (fun k => s.regs.active w 1 k) p))) s

def execVdothh (w : Pre) (d : FReg) (a b : VReg) (s : State) : Out :=
  vdotOp (.vdothh w d a b) w d a b (rf d) [] (fun s x y =>
    let p (k : Nat) : Prod' := { a := bf16.value (lane x 2 k), b := bf16.value (lane y 2 k), scale := some 0 }
    .ok [groupOf (fun k => s.regs.active w 2 k) p 0]) s

/-- The second register of a scale pair. -/
def pairReg (c : FReg) : FReg := Fin.ofNat 32 (c.val + 1)

def execVdotnn (w : Pre) (t : TableSel) (d : FReg) (a b : VReg) (s : State) : Out :=
  let c := srcF w d
  vdotOp (.vdotnn w t d a b) w d a b (rf c ++ rf (pairReg c) ++ rf d) (selRefs t) (fun s x y => do
    let tab ← s.dotTable t true
    let sa := s.regs.f[c]
    let sb := s.regs.f[pairReg c]
    let p (k : Nat) : Prod' :=
      { a := wf19.value (tab.entry (codeAt true x k)), b := wf19.value (tab.entry (codeAt true y k))
        scale := scaleOf (byteOf sa (k / 16)) (byteOf sb (k / 16)) }
    .ok ((List.range 4).map (groupOf (fun k => s.regs.active w 1 (k / 2)) p))) s

end Sys2Proof.Machine
end

