-- ==== Sys2Proof/Machine/Matrix.lean ====
section
/-!
DEFINITION. Matrix instructions as they issue (R154 to R172). The engine's own steps are in Engines.
-/

namespace Sys2Proof.Machine

/-- A tile owned by the thread's domain, or access fault (R155). -/
def State.ownTile (s : State) (t : Fin 16) : Except Stop Unit :=
  if (s.troupe (troupeOf s.turn.core)).owners[t] = some s.regs.tag then .ok () else .error (.trap 0x06 (tileAddr t.val))

/-- Accepts a matrix-side entry: the store buffer drains, a full queue makes the instruction wait, the activation is no
longer restorable, and a claimed tile takes the domain's tag (R155, R157). -/
def State.acceptMat (s : State) (work : MatWork) (claim : Option (Fin 16)) : Except Stop (State × BitVec 24) := do
  let s ← s.drainMe
  let t := s.troupe (troupeOf s.turn.core)
  if 32 ≤ t.mat.length then blocked else
  let seq := seq24 t.matSeq
  let e : MatEntry :=
    { owner := s.owner, work := work, seq := seq, order := t.matOrder, accepted := s.clock, phase := .queued, rg := 0, flags := 0, lsnew := false, stall := 0
      left := 0, fault := none }
  let s := s.noRestore.updMyTroupe (fun t => { t with
    mat := t.mat ++ [e]
    matSeq := if work.hasId then t.matSeq + 1 else t.matSeq
    matOrder := t.matOrder + 1
    owners := match claim with | some i => t.owners.set i (some s.regs.tag) | none => t.owners })
  .ok (s, seq)

/-! ### Matrix jobs (R162, R165, R166) -/

/-- Bytes of a row of codes. -/
def rowBytes (k : MatKind) (n : Nat) : Nat :=
  match k with
  | .qq => n
  | .hh => 2 * n
  | .nn => n / 2

/-- A tile descriptor's fields; none where one breaks its limit. -/
def tileDesc (k : MatKind) (p : List Word) : Option TileDesc :=
  let sl (i : Nat) : Word := p.getD i 0
  let m (x n : Nat) : Bool := x % n = 0
  let s5 := sl 5
  let kk := fld s5 0 16
  let ok := m (sl 0).toNat 64 && m (sl 1).toNat 64 && m (sl 2).toNat 8 && m (sl 3).toNat 8 &&
    m (fld (sl 4) 0 32) 64 && m (fld (sl 4) 32 32) 64 && kk ≠ 0 && m kk 32 && kk ≤ 65504 &&
    fld s5 16 8 ≤ 15 && s5 >>> 40 = 0 && m (fld (sl 6) 0 32) 8 && m (fld (sl 6) 32 32) 8 && sl 7 = 0 &&
    (k ≠ .hh || (sl 2 = 0 && sl 3 = 0 && fld s5 24 2 = 0 && sl 6 = 0))
  if ok then
    some { abase := sl 0, bbase := sl 1, ascale := sl 2, bscale := sl 3, astride := fld (sl 4) 0 32, bstride := fld (sl 4) 32 32
           k := kk, tile := ⟨(s5.extractLsb' 16 4).toNat, (s5.extractLsb' 16 4).isLt⟩
           pair := ⟨(s5.extractLsb' 24 2).toNat, (s5.extractLsb' 24 2).isLt⟩
           zfirst := bit s5 26, notify := bit s5 27, chan := s5.extractLsb' 28 6
           handle := if bit s5 34 then some ⟨(s5.extractLsb' 35 5).toNat, (s5.extractLsb' 35 5).isLt⟩ else none
           asstride := fld (sl 6) 0 32, bsstride := fld (sl 6) 32 32 }
  else none

/-- The rows of codes and scales a descriptor names, A before B, each code row before its scale row (log 25). -/
def TileDesc.rows (d : TileDesc) (k : MatKind) : List (Int × Nat) :=
  let side (base scale : Word) (stride ss : Nat) : List (Int × Nat) :=
    ((List.range 64).map (fun r =>
      let codes : Int × Nat := (((base.toNat + r * stride : Nat) : Int), rowBytes k d.k)
      if k = .hh then [codes] else [codes, (((scale.toNat + r * ss : Nat) : Int), d.k / 16)])).flatten
  side d.abase d.ascale d.astride d.asstride ++ side d.bbase d.bscale d.bstride d.bsstride

def mmaOp (i : Instr) (w : Pre) (k : MatKind) (d a : GReg) (s : State) : Out :=
  runInstr i w { srcs := [a], dst := some d, reads := a.refs, writes := d.refs, long := true }
    (fun vs s => do
      let (s, p) ← s.readDesc (v0 vs) 64
      match tileDesc k p with
      | none => .error (.trap 0x01 i.baseWord)
      | some t => do
        s.checkRows .load (t.rows k)
        if !t.zfirst then s.ownTile t.tile
        let r := s.regs
        let (s, seq) ← s.acceptMat (.mma k t r.malw r.gwin r.gbud) (if t.zfirst then some t.tile else none)
        .ok (s.writeG d (jobId s.owner seq false))) s

def execMmaqq (w : Pre) (d a : GReg) (s : State) : Out := mmaOp (.mmaqq w d a) w .qq d a s
def execMmahh (w : Pre) (d a : GReg) (s : State) : Out := mmaOp (.mmahh w d a) w .hh d a s
def execMmann (w : Pre) (d a : GReg) (s : State) : Out := mmaOp (.mmann w d a) w .nn d a s

/-! ### MZERO, MWAIT, MPOLL, MLSF (R169 to R171) -/

/-- A tile number. -/
def tileOf (i : Instr) (x : Word) : Except Stop (Fin 16) :=
  if h : x.toNat < 16 then .ok ⟨x.toNat, h⟩ else .error (.trap 0x01 i.baseWord)

def execMzero (w : Pre) (a : GReg) (s : State) : Out :=
  let i : Instr := .mzero w a
  runInstr i w { srcs := [a], reads := a.refs }
    (fun vs s => do
      let t ← tileOf i (v0 vs)
      let (s, _) ← s.acceptMat (.zero t) (some t)
      .ok s) s

def execMwait (w : Pre) (d a : GReg) (s : State) : Out :=
  jobWait (.mwait w d a) w d a State.viewMat (fun s id v => s.answerMat d id v) s
def execMpoll (w : Pre) (d a : GReg) (s : State) : Out :=
  jobPoll (.mpoll w d a) w d a State.viewMat (fun s id v => s.answerMat d id v) s

/-- The flags of a row group: the result returns after the entries accepted before it that name the tile (R171). -/
def execMlsf (w : Pre) (d : VReg) (a b : GReg) (s : State) : Out :=
  let i : Instr := .mlsf w d a b
  runInstr i w { srcs := [a, b], reads := a.refs ++ b.refs, writes := rv d, long := true, own := true }
    (fun vs s => do
      s.checkDst i d
      let t ← tileOf i (v0 vs)
      if 7 < (v1 vs).toNat then .error (.trap 0x01 i.baseWord) else do
      s.ownTile t
      let n := (s.troupe (troupeOf s.turn.core)).matOrder
      .ok (s.updMe (fun x => { x with
        outstanding := x.outstanding ++ [{ lsf := 0, flags := some { tile := t, rg := (v1 vs).toNat, d := d, order := n } }] }))) s

/-! ### MTBL (R163, R164) -/

/-- A preset table as a slot (R105). -/
def presetTable (n : Nat) : Table :=
  let sel : TableSel := match n with | 0 => .e4m3 | 1 => .e5m2 | 2 => .int8 | _ => .e2m1
  let c := Regs.clear.codes sel
  { entries := Vector.ofFn (fun i : Fin 256 => if c.w4 && 16 ≤ i.val then 0 else BitVec.ofNat 19 (c.entry i.val))
    w4 := c.w4, twos := n = 2, valid := true }

/-- One side of a pair: the checked granules of an image, or a preset. -/
def State.pairSide (s : State) (src : Nat) (img : Word) : Except Stop (List Loc) :=
  if src = 0 then
    if img.toNat % 64 ≠ 0 then .error (.trap 0x05 img) else s.checkGranules img 16
  else .ok []

def State.pairTable (s : State) (src : Nat) (twos : Bool) (ls : List Loc) : Except Stop (State × Table) := do
  if src = 0 then
    let (s, bs) ← s.readLocs 64 ls
    .ok (s, tableOf bs twos)
  else .ok (s, presetTable (src - 1))

/-- MTBL. The header's slots 4 to 7, which no field names, are ignored (log 104). -/
def execMtbl (w : Pre) (pair : Fin 4) (a : GReg) (s : State) : Out :=
  let i : Instr := .mtbl w pair a
  runInstr i w { srcs := [a], reads := a.refs }
    (fun vs s => do
      let (s, p) ← s.readDesc (v0 vs) 64
      let h := p.getD 2 0
      let sa := fld h 0 3
      let sb := fld h 4 3
      if 4 < sa || 4 < sb || h >>> 8 ≠ 0 || p.getD 3 0 ≠ 0 then .error (.trap 0x01 i.baseWord) else do
      let la ← s.pairSide sa (p.getD 0 0)
      let lb ← s.pairSide sb (p.getD 1 0)
      let (s, ta) ← s.pairTable sa (bit h 3) la
      let (s, tb) ← s.pairTable sb (bit h 7) lb
      let (s, _) ← s.acceptMat (.table pair { a := ta, b := tb, tag := s.regs.tag }) none
      .ok s) s

/-! ### MST (R172) -/

/-- Issue clocks of a row group (R165). -/
def groupClocks (k : MatKind) (n : Nat) : Nat :=
  match k with
  | .qq => n / 16
  | .hh => n / 8
  | .nn => n / 32

/-- The rows MST writes; none where a field breaks its limit. -/
def stDesc (x dst : Word) : Option StDesc :=
  let first := fld x 8 6
  let count := fld x 16 6
  if fld x 4 4 = 0 && fld x 14 2 = 0 && fld x 22 2 = 0 && fld x 26 6 = 0 && first + count ≤ 63 && fld x 24 2 ≠ 3 then
    some { tile := ⟨(x.extractLsb' 0 4).toNat, (x.extractLsb' 0 4).isLt⟩, first := first, count := count + 1
           fmt := x.extractLsb' 24 2, dstride := (x.extractLsb' 32 32).toInt, dst := dst }
  else none

/-- Bytes of a destination row. -/
def StDesc.rowBytes (d : StDesc) : Nat := if d.fmt = 0 then 256 else 128
def StDesc.rowAddr (d : StDesc) (r : Nat) : Int := (d.dst.toNat : Int) + (r : Int) * d.dstride

def execMst (w : Pre) (d a b : GReg) (s : State) : Out :=
  let i : Instr := .mst w d a b
  runInstr i w { srcs := [a, b], dst := some d, reads := a.refs ++ b.refs, writes := d.refs, long := true }
    (fun vs s => do
      match stDesc (v0 vs) (v1 vs) with
      | none => .error (.trap 0x01 i.baseWord)
      | some x => do
        if (v1 vs).toNat % 64 ≠ 0 then .error (.trap 0x05 (v1 vs)) else do
        if x.dstride % 64 ≠ 0 then .error (.trap 0x05 (BitVec.ofInt 64 x.dstride)) else do
        s.checkRows .store ((List.range x.count).map (fun r => (x.rowAddr r, x.rowBytes)))
        s.ownTile x.tile
        let (s, seq) ← s.acceptMat (.st x) none
        .ok (s.writeG d (jobId s.owner seq false))) s

end Sys2Proof.Machine
end

