-- ==== Sys2Proof/Machine/Engines.lean ====
section
/-!
DEFINITION. The matrix engine and the copy unit of a troupe as they run their jobs, their page faults, completions and
stream fetches (R149, R160, R163 to R174, R192, R238, R239). A row group, an MST entry and a copy job each take one step
(log 37).
-/

namespace Sys2Proof.Machine

/-! ### Memory as an engine reaches it (R168, R192, R233, R238) -/

/-- Why an engine's access fails: a translation fault, a status error, or a line whose MAC fails; or a walk's read fires an
armed injection, after which the access is made again (R221). -/
inductive EngFault where
  | fault (va : Nat) (write : Bool) (code : BitVec 2)
  | err (n : Nat)
  | integrity (line : Nat) (injected : Bool)
  | fire (pa : Nat)
  deriving DecidableEq, Repr

/-- The leaf of an address for a job: from the troupe TLB where it stands, else by a walk. -/
def State.engLeaf (s : State) (o : JobOwner) (va : Nat) (write : Bool) : Except EngFault Leaf :=
  match tlbFind (s.troupe (troupeOf o.core)).tlb o.tag va with
  | some e => .ok { pa := e.pa, size := e.size, r := e.r, w := e.w, x := e.x, ty := e.ty, prot := e.prot }
  | none =>
    match s.walk o.core o.tag va with
    | .ok l => .ok l
    | .error (.code c) => .error (.fault va write c)
    | .error (.integrity line) => .error (.integrity line false)
    | .error (.poison _) => .error (.err 6)
    | .error (.fire pa) => .error (.fire pa)

/-- The place of bytes of one granule and whether it is protected. -/
def State.engPlace (s : State) (o : JobOwner) (write : Bool) (a : Nat) : Except EngFault (Place × Bool) :=
  let kind : Kind := if write then .store else .load
  if a < 2 ^ 56 then do
    let l ← s.engLeaf o a write
    if !l.permits kind then .error (.fault a write 1) else
    let pa := l.pa + a % l.size
    if 2 ≤ l.ty.toNat || homeOf pa = .none || !(s.core o.core).grants pa false kind o.tag then .error (.err 2)
    else .ok (.phys pa, l.prot)
  else if aliasBase ≤ a then .ok (.scratch o.core (a - aliasBase), false)
  else .ok (.scratch (sibling o.core ⟨(a - clusterBase) / 0x20000 % 64, by omega⟩) ((a - clusterBase) % 0x20000), false)

/-- Reads bytes of a place; soft errors come before the MAC (R300). -/
def State.engFetch (s : State) (o : JobOwner) (p : Place) (prot : Bool) (n : Nat) : State × Except EngFault (List Byte) :=
  let (s, mac) : State × Bool := match p with
    | .phys pa => let (s, _, mac) := s.inject pa n; (s, mac)
    | _ => (s, false)
  if (s.poisonOf p n).isSome then (s, .error (.err 6))
  else match p, prot with
  | .phys pa, true =>
    if mac || !s.macOk pa o.tag then (s, .error (.integrity (pa / 64 * 64) mac)) else (s, .ok (s.readPlace p (some o.tag) n))
  | _, _ => (s, .ok (s.readPlace p none n))

/-- The 64-byte pieces of [a, a + n): address and length. -/
def pieces (a n : Nat) : List (Nat × Nat) := (linesOf a n).map (fun g => (max g a, min (g + 64) (a + n) - max g a))

def State.engRead (s : State) (o : JobOwner) (a n : Nat) : State × Except EngFault (List Byte) :=
  (pieces a n).foldl (fun r x =>
    match r.2 with
    | .error e => (r.1, .error e)
    | .ok bs =>
      match r.1.engPlace o false x.1 with
      | .error e => (r.1, .error e)
      | .ok (p, prot) => let q := r.1.engFetch o p prot x.2; (q.1, q.2.map (fun y => bs ++ y))) (s, .ok [])

/-- A protected place whose die holds no key for the job's domain (R284). -/
def State.keyless (s : State) (o : JobOwner) (p : Place) (prot : Bool) : Option Nat :=
  match p, prot with
  | .phys pa, true => if (s.engineKey pa o.tag).isNone then some (pa / 64 * 64) else none
  | _, _ => none

/-- Writes bytes; a protected line whose engine holds no key fails as its MAC would (R284). -/
def State.engWrite (s : State) (o : JobOwner) (a : Nat) (bs : List Byte) : State × Except EngFault Unit :=
  (pieces a bs.length).foldl (fun r x =>
    match r.2 with
    | .error e => (r.1, .error e)
    | .ok () =>
      match r.1.engPlace o true x.1 with
      | .error e => (r.1, .error e)
      | .ok (p, prot) =>
        match r.1.keyless o p prot with
        | some line => (r.1, .error (.integrity line false))
        | none => (r.1.writePlace (some o.tag) prot p ((bs.drop (x.1 - a)).take x.2), .ok ())) (s, .ok ())

/-! ### Messages of the engines (R160, R238, R239) -/

/-- Sends an engine's message in the name of the issuing core, sealed under its domain's stream key. -/
def State.engSend (s : State) (o : JobOwner) (m : Message) : State :=
  (s.counted o.core o.tag).send (.message none { m with key := s.sealKey o.core o.tag })

/-- The completion of a job. -/
def completion (t : TroupeId) (o : JobOwner) (copy : Bool) (chan : BitVec 6) (id status : Word) : Message :=
  { dest := (BitVec.ofNat 13 o.core.val : BitVec 13) ++ chan, header := mkHeader chan o.core 2 o.tag
    payload := [id, status], region := o.region, origin := .engine t copy }

/-- The page-fault notice of a job. -/
def faultNotice (t : TroupeId) (o : JobOwner) (copy : Bool) (dest : BitVec 19) (id : Word) (f : JobFault) : Message :=
  { dest := dest, header := mkHeader (chanOfAddr dest) o.core 4 o.tag
    payload := [id, BitVec.ofNat 64 f.va, atB f.write 0 ||| atB copy 1 ||| at' f.code.toNat 2,
      (coreAddr o.core.val).setWidth 64 ||| at' o.region.toNat 32]
    region := o.region, origin := .walker t copy }

/-! ### Retiring jobs (R159, R160, R167, R168) -/

/-- Sets a handle at a job's retirement. -/
def Troupe.setHandle (t : Troupe) (h : Option (Fin 32)) (st : HandleState) (tag : Tag) : Troupe :=
  match h with
  | some i => { t with handles := t.handles.set i (if st = .free then .reset else { state := st, held := false, tag := tag }) }
  | none => t

/-- Retires the entry at the head of the matrix queue. -/
def State.retireMat (s : State) (t : TroupeId) (e : MatEntry) (err : Nat) : State :=
  let rg := match e.work with | .st _ => if err = 0 then 8 else 0 | _ => e.rg
  let st := matStatus 3 err rg e.flags e.lsnew
  let s := s.updTroupe t (fun x =>
    let x := match e.work with | .mma _ d .. => x.setHandle d.handle .free 0 | _ => x
    { x with
      mat := x.mat.drop 1
      matDone := if e.work.hasId then
          keepStatus x.matSeq x.matDone { seq := e.seq, owner := e.owner, status := st, stall := e.stall, taken := false }
        else x.matDone }.dropRequest)
  match e.work with
  | .mma _ d .. => if d.notify then s.engSend e.owner (completion t e.owner false d.chan (jobId e.owner e.seq false) st) else s
  | _ => s

/-- Retires the copy job at the head of its queue: its handle is FULL, or FREE after an error. -/
def State.retireCopy (s : State) (t : TroupeId) (e : CopyEntry) (err : Nat) : State :=
  let st := copyStatus 3 err e.rows
  let s := s.updTroupe t (fun x =>
    let x := x.setHandle e.desc.handle (if err = 0 then .full else .free) e.owner.tag
    { x with
      copies := x.copies.drop 1
      copyDone := keepStatus x.copySeq x.copyDone { seq := e.seq, owner := e.owner, status := st, stall := 0, taken := false } })
  if e.desc.notify then s.engSend e.owner (completion t e.owner true e.desc.chan (jobId e.owner e.seq true) st) else s

/-- A line whose MAC fails for a job: retired with ERR 5, then an integrity violation. -/
def State.engIntegrity (s : State) (o : JobOwner) (line : Nat) (injected : Bool) : State :=
  s.integrity (dieOf o.core) (some o.core) o.ctx.val o.tag o.region line 0 injected

/-- Ends a matrix entry on a failure that is no translation fault. -/
def State.failMat (s : State) (t : TroupeId) (e : MatEntry) (f : EngFault) : State :=
  match f with
  | .err n => s.retireMat t e n
  | .integrity line injected => (s.retireMat t e 5).engIntegrity e.owner line injected
  | .fire pa =>
    match s.fireWalk pa with
    | (s, true) => (s.retireMat t e 5).engIntegrity e.owner (pa / 64 * 64) true
    | (s, false) => s
  | .fault .. => s

def State.failCopy (s : State) (t : TroupeId) (e : CopyEntry) (f : EngFault) : State :=
  match f with
  | .err n => s.retireCopy t e n
  | .integrity line injected => (s.retireCopy t e 5).engIntegrity e.owner line injected
  | .fire pa =>
    match s.fireWalk pa with
    | (s, true) => (s.retireCopy t e 5).engIntegrity e.owner (pa / 64 * 64) true
    | (s, false) => s.updTroupe t (fun x => { x with copies := e :: x.copies.drop 1 })
  | .fault .. => s

/-- The running head of each queue. -/
def State.runningMat (s : State) (t : TroupeId) : Option MatEntry :=
  if s.powered then (s.troupe t).mat.head?.filter (fun e => e.phase = .running) else none
def State.runningCopy (s : State) (t : TroupeId) : Option CopyEntry :=
  if s.powered then (s.troupe t).copies.head?.filter (fun e => e.phase = .running) else none

def State.setMatHead (s : State) (t : TroupeId) (e : MatEntry) : State := s.updTroupe t (fun x => { x with mat := e :: x.mat.drop 1 })
def State.setCopyHead (s : State) (t : TroupeId) (e : CopyEntry) : State :=
  s.updTroupe t (fun x => { x with copies := e :: x.copies.drop 1 })

/-! ### Starting a matrix job (R163, R167, R194, R346) -/

/-- The pair serves a job of a kind and domain. -/
def TablePair.serves (p : TablePair) (k : MatKind) (t : Tag) : Bool :=
  k = .hh || (p.a.valid && p.b.valid && p.tag = t && p.a.w4 = (k = .nn : Bool) && p.b.w4 = (k = .nn : Bool))

/-- The next job starts once its handle is FULL under its own tag. An inactive troupe requests admission. -/
def execMatrixJobStart (troupe : TroupeId) (s : State) : Out :=
  .next (
    let q := s.troupe troupe
    match s.powered, q.mat with
    | true, e :: _ =>
      match e.phase, e.work with
      | .queued, .mma k d .. =>
        let ready : Bool := match d.handle with | some h => q.handles[h].state = .full && q.handles[h].tag = e.owner.tag | none => true
        if !ready then s
        else
          let s := s.updTroupe troupe (fun x => match d.handle with
            | some h => { x with handles := x.handles.set h { state := .draining, held := true, tag := e.owner.tag } }
            | none => x)
          if !(q.pairs[d.pair]).serves k e.owner.tag then s.retireMat troupe e 4
          else
            (s.setMatHead troupe { e with phase := .running, left := groupClocks k d.k }).updTroupe troupe (fun x => x.asks s.clock)
      | _, _ => s
    | _, _ => s)

/-! ### Row groups (R142, R143, R162, R167) -/

/-- A row of operand codes: values in order of k, and scales by block of 16. -/
structure OpRow where
  vals : List Val
  scales : List Nat

/-- Values of a row's bytes. -/
def codeVals (k : MatKind) (t : Table) (bs : List Byte) : List Val :=
  match k with
  | .qq => bs.map (fun b => wf19.value (t.codes.entry b.toNat))
  | .hh => (List.range (bs.length / 2)).map (fun i => bf16.value (leNat ((bs.drop (2 * i)).take 2)))
  | .nn => (bs.map (fun b => [wf19.value (t.codes.entry (b.toNat % 16)), wf19.value (t.codes.entry (b.toNat / 16))])).flatten

/-- Reads row r of one side: codes, then scales. -/
def State.opRow (s : State) (o : JobOwner) (k : MatKind) (d : TileDesc) (sideB : Bool) (t : Table) (r : Nat) :
    State × Except EngFault OpRow :=
  let (base, stride, sc, ss) :=
    if sideB then (d.bbase, d.bstride, d.bscale, d.bsstride) else (d.abase, d.astride, d.ascale, d.asstride)
  match s.engRead o (base.toNat + r * stride) (rowBytes k d.k) with
  | (s, .error e) => (s, .error e)
  | (s, .ok bs) =>
    if k = .hh then (s, .ok { vals := codeVals k t bs, scales := [] })
    else match s.engRead o (sc.toNat + r * ss) (d.k / 16) with
    | (s, .error e) => (s, .error e)
    | (s, .ok sb) => (s, .ok { vals := codeVals k t bs, scales := sb.map (·.toNat) })

def State.opRows (s : State) (o : JobOwner) (k : MatKind) (d : TileDesc) (sideB : Bool) (t : Table) (rs : List Nat) :
    State × Except EngFault (List OpRow) :=
  rs.foldl (fun x r =>
    match x.2 with
    | .error e => (x.1, .error e)
    | .ok l => let q := x.1.opRow o k d sideB t r; (q.1, q.2.map (fun y => l ++ [y]))) (s, .ok [])

/-- The fusion groups of an A row and a B row: 32 products each, in ascending k. -/
def fusionGroups (k : MatKind) (n : Nat) (a b : OpRow) : List (List Prod') :=
  (List.range (n / 32)).map (fun q =>
    let av := (a.vals.drop (32 * q)).take 32
    let bv := (b.vals.drop (32 * q)).take 32
    (List.range 32).map (fun j =>
      let blk := (32 * q + j) / 16
      { a := av.getD j (.fin false 0 0), b := bv.getD j (.fin false 0 0)
        scale := if k = .hh then some 0 else scaleOf (a.scales.getD blk 0) (b.scales.getD blk 0) }))

/-- The outcome of a row group: 512 accumulators in row order, whether each discarded a bit, and the flags. -/
structure RowGroup where
  accs : List Nat
  lost : List Bool
  flags : Fl

def rowGroup (k : MatKind) (n w : Nat) (as bs : List OpRow) (acc : Nat → Nat) : RowGroup :=
  let cells := (as.zipIdx.map (fun (a : OpRow × Nat) => bs.zipIdx.map (fun (b : OpRow × Nat) =>
    dotGroups w rne (acc (64 * a.2 + b.2)) (fusionGroups k n a.1 b.1)))).flatten
  { accs := cells.map (fun c => c.1.bits), lost := cells.map (·.2), flags := cells.foldl (fun f c => f ||| c.1.flags) 0 }

def boolBits (l : List Bool) : BitVec 4096 := BitVec.ofNat 4096 (l.foldr (fun b n => (if b then 1 else 0) + 2 * n) 0)

/-- What the next row group of a job comes to. -/
def State.runGroup (s : State) (t : TroupeId) (e : MatEntry) (k : MatKind) (d : TileDesc) (alw : BitVec 3) :
    State × Except EngFault RowGroup :=
  let q := s.troupe t
  let p := q.pairs[d.pair]
  let off := 16384 * d.tile.val + 2048 * e.rg
  if !d.zfirst && (poisonedIn q.accPoison off 2048).isSome then (s, .error (.err 6))
  else match s.opRows e.owner k d false p.a ((List.range 8).map (fun i => 8 * e.rg + i)) with
  | (s, .error f) => (s, .error f)
  | (s, .ok as) =>
    match s.opRows e.owner k d true p.b (List.range 64) with
    | (s, .error f) => (s, .error f)
    | (s, .ok bs) =>
      let old (i : Nat) : Nat := if d.zfirst then 0 else leNat (q.acc.readN (off + 4 * i) 4)
      (s, .ok (rowGroup k d.k (window alw) as bs old))

/-- Commits a row group to the tile and its flag plane; the eighth retires the job. -/
def State.commitGroup (s : State) (t : TroupeId) (e : MatEntry) (k : MatKind) (d : TileDesc) (g : RowGroup) : State :=
  let q := s.troupe t
  let off := 16384 * d.tile.val + 2048 * e.rg
  let sh := 512 * e.rg
  let mask : BitVec 4096 := BitVec.ofNat 4096 ((2 ^ 512 - 1) <<< sh)
  let new : BitVec 4096 := boolBits g.lost <<< sh
  let old := q.flags[d.tile]
  let s := s.writePlace none false (.acc t off) ((g.accs.map (leBytes 4)).flatten)
  let s := s.updTroupe t (fun x => { x with
    flags := x.flags.set d.tile (if d.zfirst then (old &&& ~~~mask) ||| new else old ||| new) })
  let e := { e with rg := e.rg + 1, flags := e.flags ||| g.flags, lsnew := e.lsnew || g.lost.any id, left := groupClocks k d.k }
  if e.rg = 8 then s.retireMat t e 0 else s.setMatHead t e

/-- A RESIDUE record: CLASS 0 where the group is recomputed, 1 at the second mismatch (R168, R307). -/
def State.residue (s : State) (e : MatEntry) (cls : Nat) : State :=
  s.log (dieOf e.owner.core) { kind := 0x06, cls := cls, core := some e.owner.core, ctx := e.owner.ctx.val, tag := e.owner.tag
                               part := some (s.partOf e.owner.tag), region := e.owner.region, detail := e.rg
                               data := jobId e.owner e.seq false }

/-- An MLSF that was to return before a tile changes has not returned (R171). -/
def State.flagsRead (s : State) (t : TroupeId) (e : MatEntry) : Bool :=
  (List.finRange 8).any (fun x => (List.finRange 8).any (fun k =>
    (s.ctx (troupeCore t x) (bank k)).outstanding.any (fun o => o.flags.any (fun q => q.order ≤ e.order && e.work.names q.tile.val))))

/-- The engine commits the next row group of the running job, once its issue clocks have passed; `mismatches` counts its
residue mismatches. A job that ends with ERR 3 reports the flags of committed row groups only (log 105). -/
def execRowGroupCommit (troupe : TroupeId) (mismatches : Nat) (s : State) : Out :=
  .next (match s.runningMat troupe with
    | some e =>
      match e.work, (s.troupe troupe).active with
      | .mma k d alw .., true =>
        if e.left ≠ 0 || s.flagsRead troupe e then s else
        match s.runGroup troupe e k d alw with
        | (_, .error (.fault ..)) => s
        | (s, .error f) => s.failMat troupe e f
        | (s, .ok g) =>
          match mismatches with
          | 0 => s.commitGroup troupe e k d g
          | 1 => (s.residue e 0).commitGroup troupe e k d g
          | _ => ((s.residue e 0).residue e 1).retireMat troupe e 3
      | .mma .., false => s.updTroupe troupe (fun x => x.asks s.clock)
      | _, _ => s
    | none => s)

/-! ### MZERO, MTBL, MST entries (R164, R170, R172) -/

def execMzeroEntryRun (troupe : TroupeId) (s : State) : Out :=
  .next (match s.powered, (s.troupe troupe).mat with
    | true, e :: _ =>
      match e.work with
      | .zero tile =>
        if s.flagsRead troupe e then s else
        (s.updTroupe troupe (fun x => { x with
          acc := x.acc.clear (16384 * tile.val) 16384, flags := x.flags.set tile 0
          accPoison := clearPoison x.accPoison (16384 * tile.val) 16384 })).retireMat troupe e 0
      | _ => s
    | _, _ => s)

def execMtblEntryRun (troupe : TroupeId) (s : State) : Out :=
  .next (match s.powered, (s.troupe troupe).mat with
    | true, e :: _ =>
      match e.work with
      | .table i p => (s.updTroupe troupe (fun x => { x with pairs := x.pairs.set i p })).retireMat troupe e 0
      | _ => s
    | _, _ => s)

/-- The bytes of a tile row in a store format, with the flags of its conversions. -/
def stRow (fmt : BitVec 2) (row : List Byte) : List Byte × Fl :=
  if fmt = 0 then (row, 0)
  else
    let rs := (List.range 64).map (fun i => convert (if fmt = 1 then bf16 else fp16) fp32 rne (leNat ((row.drop (4 * i)).take 4)))
    ((rs.map (fun r => leBytes 2 r.bits)).flatten, rs.foldl (fun f r => f ||| r.flags) 0)

/-- Writes the rows of an MST entry in order: the flags of the rows converted, and how it ended. -/
def State.runSt (s : State) (t : TroupeId) (e : MatEntry) (d : StDesc) : State × Fl × Except EngFault Unit :=
  (List.range d.count).foldl (fun x r =>
    match x.2.2 with
    | .error f => (x.1, x.2.1, .error f)
    | .ok () =>
      let q := x.1.troupe t
      let off := 16384 * d.tile.val + 256 * (d.first + r)
      if (poisonedIn q.accPoison off 256).isSome then (x.1, x.2.1, .error (.err 6))
      else
        let (bs, f) := stRow d.fmt (q.acc.readN off 256)
        let w := x.1.engWrite e.owner (d.rowAddr r).toNat bs
        (w.1, x.2.1 ||| f, w.2)) (s, e.flags, .ok ())

def execMstEntryRun (troupe : TroupeId) (s : State) : Out :=
  .next (match s.powered, (s.troupe troupe).mat with
    | true, e :: _ =>
      match e.work, e.phase with
      | .st _, .suspended => s
      | .st d, _ =>
        match s.runSt troupe e d with
        | (_, _, .error (.fault ..)) => s
        | (s, fl, .error f) => s.failMat troupe { e with flags := fl } f
        | (s, fl, .ok ()) => s.retireMat troupe { e with flags := fl } 0
      | _, _ => s
    | _, _ => s)

/-! ### Copy jobs (R192) -/

/-- The next copy starts once its handle is FREE, and takes it. -/
def execCopyJobStart (troupe : TroupeId) (s : State) : Out :=
  .next (
    let q := s.troupe troupe
    match s.powered, q.copies with
    | true, e :: _ =>
      if e.phase ≠ .queued then s
      else match e.desc.handle with
      | none => s.setCopyHead troupe { e with phase := .running }
      | some h =>
        if q.handles[h].state = .free then
          (s.setCopyHead troupe { e with phase := .running }).updTroupe troupe (fun x =>
            { x with handles := x.handles.set h { state := .filling, held := true, tag := e.owner.tag } })
        else s
    | _, _ => s)

/-- Reads a source row of a copy. Space 0 reaches the global space only; a host address the host cannot translate is a
link error. -/
def State.copyRead (s : State) (o : JobOwner) (space a n : Nat) : State × Except EngFault (List Byte) :=
  match space with
  | 0 => if a + n ≤ 2 ^ 56 then s.engRead o a n else (s, .error (.err 2))
  | 3 => s.engFetch o (.acc (troupeOf o.core) a) false n
  | 4 => match hostPa (BitVec.ofNat 64 a) n with
    | some pa => s.engFetch o (.phys pa) false n
    | none => (s, .error (.err 3))
  | _ => s.engRead o (spaceAddr space a) n

def State.copyWrite (s : State) (o : JobOwner) (space a : Nat) (bs : List Byte) : State × Except EngFault Unit :=
  match space with
  | 0 => if a + bs.length ≤ 2 ^ 56 then s.engWrite o a bs else (s, .error (.err 2))
  | 3 => (s.writePlace none false (.acc (troupeOf o.core) a) bs, .ok ())
  | 4 => match hostPa (BitVec.ofNat 64 a) bs.length with
    | some pa => (s.writePlace none false (.phys pa) bs, .ok ())
    | none => (s, .error (.err 3))
  | _ => s.engWrite o (spaceAddr space a) bs

/-- Copies rows from the first not yet written: the rows done, and how it ended. -/
def State.runCopy (s : State) (o : JobOwner) (d : CopyDesc) (done : Nat) : State × Nat × Except EngFault Unit :=
  (List.range (d.rows - done)).foldl (fun x _ =>
    match x.2.2 with
    | .error f => (x.1, x.2.1, .error f)
    | .ok () =>
      let r := x.2.1
      match x.1.copyRead o d.sspace.val (d.src.toNat + r * d.sstride) d.rowBytes with
      | (s, .error f) => (s, r, .error f)
      | (s, .ok bs) =>
        match s.copyWrite o d.dspace.val (d.dst.toNat + r * d.dstride) bs with
        | (s, .error f) => (s, r, .error f)
        | (s, .ok ()) => (s, r + 1, .ok ())) (s, done, .ok ())

/-- The running copy writes its rows and retires; where the host link aborts, a job with rows left in space 4 retires
with ERR 3. -/
def execCopyJobRetire (troupe : TroupeId) (link : LinkAnswer) (s : State) : Out :=
  .next (match s.runningCopy troupe with
    | some e =>
      let d := e.desc
      if link = .abort && (d.sspace = 4 || d.dspace = 4) then s.retireCopy troupe e 3
      else match s.runCopy e.owner d e.rows with
      | (_, _, .error (.fault ..)) => s
      | (s, n, .error f) => s.failCopy troupe { e with rows := n } f
      | (s, n, .ok ()) => s.retireCopy troupe { e with rows := n } 0
    | none => s)

/-! ### Completions (R160) -/

/-- A completion that came back is sent again, 256 clocks later. -/
def execCompletionRetry (troupe : TroupeId) (s : State) : Out :=
  .next (
    let l := (s.troupe troupe).completions
    let i := l.findIdx (fun m => m.1 ≤ s.clock)
    match l[i]? with
    | some m => (s.updTroupe troupe (fun x => { x with completions := l.eraseIdx i })).send (.message none m.2)
    | none => s)

/-! ### Page faults (R168, R192, R238, R239) -/

/-- The fault of a suspended matrix or copy job. -/
def State.jobFault (s : State) (t : TroupeId) (copy : Bool) : Option (JobOwner × Word × JobFault) :=
  let q := s.troupe t
  if copy then q.copies.head?.bind (fun e => e.fault.map (fun f => (e.owner, jobId e.owner e.seq true, f)))
  else q.mat.head?.bind (fun e => e.fault.map (fun f => (e.owner, jobId e.owner e.seq false, f)))

def State.updFault (s : State) (t : TroupeId) (copy : Bool) (phase : JobPhase) (f : Option JobFault) : State :=
  s.updTroupe t (fun x =>
    if copy then { x with copies := match x.copies with | e :: r => { e with fault := f, phase := phase } :: r | [] => [] }
    else { x with mat := match x.mat with | e :: r => { e with fault := f, phase := phase } :: r | [] => [] }.dropRequest)

/-- Retires a suspended job. -/
def State.retireFaulted (s : State) (t : TroupeId) (copy : Bool) (f : EngFault) : State :=
  match copy, (s.troupe t).copies, (s.troupe t).mat with
  | true, e :: _, _ => s.failCopy t { e with fault := none } f
  | false, _, e :: _ => s.failMat t { e with fault := none } f
  | _, _, _ => s

/-- Sends the notice of a suspended job to its region's fault service; a refused one goes again 256 clocks later. -/
def State.sendFault (s : State) (t : TroupeId) (copy : Bool) : State :=
  match s.jobFault t copy with
  | some (o, id, f) =>
    match f.noticed || s.clock < f.again, s.regionFsvc o.region with
    | false, some a => (s.updFault t copy .suspended (some { f with noticed := true })).engSend o (faultNotice t o copy a id f)
    | _, _ => s
  | none => s

/-- Suspends the head of a queue on a fault; with no fault service it retires with ERR 1 at once. -/
def State.suspend (s : State) (t : TroupeId) (copy : Bool) (region : BitVec 32) (va : Nat) (write : Bool) (code : BitVec 2) : State :=
  let s := s.updFault t copy .suspended (some { va := va, write := write, code := code, since := s.clock, noticed := false, again := 0, walked := s.clock })
  if (s.regionFsvc region).isSome then s.sendFault t copy else s.retireFaulted t copy (.err 1)

/-- An MST entry that meets a translation fault is suspended, with the flags of the rows it has converted. -/
def State.faultSt (s : State) (t : TroupeId) (e : MatEntry) (d : StDesc) : State :=
  match s.runSt t e d with
  | (s, fl, .error (.fault va w c)) => (s.setMatHead t { e with flags := fl }).suspend t false e.owner.region va w c
  | _ => s

/-- A running job meets a translation fault. It waits for another suspended job of the troupe (R238). -/
def execEnginePageFault (troupe : TroupeId) (copySide : Bool) (s : State) : Out :=
  .next (
    if (s.jobFault troupe (!copySide)).isSome then s
    else if copySide then
      match s.runningCopy troupe with
      | some e =>
        match s.runCopy e.owner e.desc e.rows with
        | (s, n, .error (.fault va w c)) => (s.setCopyHead troupe { e with rows := n }).suspend troupe true e.owner.region va w c
        | _ => s
      | none => s
    else
      match s.powered, (s.troupe troupe).mat with
      | true, e :: _ =>
        match e.work, e.phase with
        | .mma k d alw .., .running =>
          match s.runGroup troupe e k d alw with
          | (s, .error (.fault va w c)) => s.suspend troupe false e.owner.region va w c
          | _ => s
        | .st d, .queued => s.faultSt troupe e d
        | .st d, .running => s.faultSt troupe e d
        | _, _ => s
      | _, _ => s)

/-- A suspended job resumes: a matrix job at its row group's start. -/
def State.resumeJob (s : State) (t : TroupeId) (copy : Bool) : State :=
  let s := s.updFault t copy .running none
  match copy, (s.troupe t).mat.head? with
  | false, some e => match e.work with
    | .mma k d .. => s.setMatHead t { e with left := groupClocks k d.k }
    | _ => s
  | _, _ => s

/-! ### The governor (R173, R346, R349) -/

/-- The window length and the effective budget of a job (R161, R173, R349). -/
def MatEntry.governor (e : MatEntry) (thr : Nat) : Nat × Nat :=
  match e.work with
  | .mma _ _ _ w b => (2 ^ (6 + w.toNat), max 1 (b.toNat * thr / 64))
  | _ => (64, 0)

/-- Issue clocks already in the current window of a length (R173). -/
def Troupe.inWindow (t : Troupe) (len clock : Nat) : Nat :=
  ((t.issued.filter (fun e => 64 * e.1 / len = clock / len)).map (·.2)).sum

/-- An issue clock of the running job: its stretch of 64 clocks counts it, and stretches of past windows of 512 go. -/
def Troupe.issueAt (t : Troupe) (clock : Nat) : Troupe :=
  let l := t.issued.filter (fun e => 64 * e.1 / 512 = clock / 512)
  { t with issued := insert l (clock / 64) ((lookup l (clock / 64)).getD 0 + 1), quietFrom := clock + 1 }

/-- A clock of a troupe: its running matrix job, accepted before this clock, issues within its budget where the troupe is active;
a clock in which it could issue and is held back is a stall clock. A troupe quiet for long is inactive from the next clock, and
asks for admission where a job is ready (R173, R346). -/
def Troupe.govern (t : Troupe) (clock thr : Nat) : Troupe :=
  let t : Troupe := match t.mat with
    | e :: rest =>
      if e.phase ≠ .running || e.left = 0 || clock ≤ e.accepted then t
      else
        let (len, budget) := e.governor thr
        if t.active && t.inWindow len clock < budget then
          ({ t with mat := { e with left := e.left - 1 } :: rest } : Troupe).issueAt clock
        else { t with mat := { e with stall := e.stall + 1 } :: rest }
    | [] => t
  (t.rest (clock + 1)).asks (clock + 1)

/-- The walk is repeated every 1,024 clocks; a valid leaf that permits the access resumes the job. -/
def execFaultRewalk (troupe : TroupeId) (copySide : Bool) (s : State) : Out :=
  .next (match s.jobFault troupe copySide with
    | some (o, _, f) =>
      if s.clock < f.walked + 1024 then s
      else
        let s := s.updFault troupe copySide .suspended (some { f with walked := s.clock })
        match s.walk o.core o.tag f.va with
        | .ok l => if l.permits (if f.write then .store else .load) then s.resumeJob troupe copySide else s
        | .error (.code _) => s
        | .error (.integrity line) => s.retireFaulted troupe copySide (.integrity line false)
        | .error (.poison _) => s.retireFaulted troupe copySide (.err 6)
        | .error (.fire pa) =>
          match s.fireWalk pa with
          | (s, true) => s.retireFaulted troupe copySide (.integrity (pa / 64 * 64) true)
          | (s, false) => s
    | none => s)

def execFaultTimeout (troupe : TroupeId) (copySide : Bool) (s : State) : Out :=
  .next (match s.jobFault troupe copySide with
    | some (_, _, f) => if f.since + 1048576 ≤ s.clock then s.retireFaulted troupe copySide (.err 1) else s
    | none => s)

def execFaultNoticeRetry (troupe : TroupeId) (copySide : Bool) (s : State) : Out := .next (s.sendFault troupe copySide)

/-! ### Streams (R149) -/

/-- The copy unit fetches the next strip of a stream, up to four ahead. A strip that fails is met by its pop. -/
def execStreamStripFetch (core : CoreId) (ctx : CtxId) (reg : Fin 4) (s : State) : Out :=
  .next (
    let x := s.ctx core (bank ctx)
    let st := x.regs.streams[reg]
    let n := st.popped + st.ahead.length
    if !s.powered || !st.on || x.state = .dormant || x.state = .saved || 4 ≤ st.ahead.length || st.total ≤ n then s
    else
      let turn := s.turn
      match ({ s with turn := { turn with core := core, ctx := bank ctx } } : State).fetchStrip st n with
      | .ok (s, strip) =>
        { s.updCtx core (bank ctx) (fun x => { x with regs := { x.regs with
            streams := x.regs.streams.set reg { st with ahead := st.ahead ++ [strip] } } }) with turn := turn }
      | .error _ => s)

end Sys2Proof.Machine
end

