-- ==== Sys2Proof/Machine/Fabric.lean ====
section
/-!
DEFINITION. The Gornath fabric: flits and their replay, link-down and training, transfers of peers and their answers
(R313, R315, R316, R332 to R334, R344, R345).
-/

namespace Sys2Proof.Machine

/-! ### The link layer (R332) -/

/-- The flits an ACK acknowledges leave the replay buffer: those up to its SEQ. -/
def dropAcked (ack : BitVec 16) (l : List SentFlit) : List SentFlit :=
  if l.any (fun f => f.seq = ack) then (l.dropWhile (fun f => f.seq ≠ ack)).drop 1 else l

/-- A link and the credits a flit returns to it. -/
def Link.credited (l : Link) (cred : BitVec 16) : Link :=
  { l with spent := #v[l.spent[0] - fld (cred.setWidth 64) 8 8, l.spent[1] - fld (cred.setWidth 64) 0 8] }

/-- The higher of two sequence numbers, which count on past 0xFFFF from 0 (log 127). -/
def laterSeq (a b : BitVec 16) : BitVec 16 := if (b - a).toNat < 0x8000 then b else a

/-- A link takes an intact flit: its SEQ, where none higher has come, its ACK and CRED; the credit of its VC is owed to the peer. -/
def Link.received (l : Link) (seq ack : BitVec 16) (vc : Fin 2) (cred : BitVec 16) (clock : Nat) : Link :=
  { l.credited cred with
    rxSeq := laterSeq l.rxSeq seq, txSeq := ack, replaying := l.replaying.filter (fun e => e.1 ≠ seq), buffer := dropAcked ack l.buffer
    owed := l.owed.set vc (l.owed[vc] + 1), ackClock := clock }

/-- A flit arrives. One that fails its CRC is replayed; eight replays of one flit take the link down. -/
def execFlitReceive (link : Fin 16) (seq ack : BitVec 16) (head : FlitHead) (crcOk : Bool) (s : State) : Out :=
  .next (
    let l := s.host.links[link]
    if !l.up || 5 < head.kind.toNat then s
    else if crcOk then s.updLink link (fun l => l.received seq ack head.vc head.cred s.clock)
    else
      let n := ((l.replaying.find? (fun e => e.1 = seq)).map (·.2)).getD 0 + 1
      let s := s.updLink link (fun l => { l with
        replays := min (l.replays + 1) (2 ^ 32 - 1), replaying := (seq, n) :: l.replaying.filter (fun e => e.1 ≠ seq) })
      if 8 ≤ n then (s.takeLinkDown link false).autoTrain link else s)

/-- The VC whose flit goes next: VC 0 before VC 1, each with a credit left (log 117). -/
def Link.nextVc (l : Link) : Option (Fin 2) :=
  [(0 : Fin 2), 1].find? (fun vc => l.waiting[vc] ≠ [] && l.spent[vc] < Config.fullCredits vc)

/-- The link sends its next flit, which stays in the replay buffer of 64 until it is acknowledged; the credits owed to the peer go
with it. -/
def State.sendFlit (s : State) (k : Fin 16) : State :=
  let l := s.host.links[k]
  if !l.up || 64 ≤ l.buffer.length then s
  else match l.nextVc with
  | none => s
  | some vc => s.updLink k (fun l => { l with
      waiting := l.waiting.set vc (l.waiting[vc].drop 1), spent := l.spent.set vc (l.spent[vc] + 1), nextSeq := l.nextSeq + 1
      buffer := l.buffer ++ [{ kind := l.waiting[vc].headD 0, seq := l.nextSeq, vc := vc, sent := s.clock, replays := 0 }], owed := .replicate 2 0 })

/-- A flit that failed its CRC at the peer goes out again from the replay buffer. -/
def State.replayFlit (s : State) (k : Fin 16) (seq : BitVec 16) : State :=
  let l := s.host.links[k]
  match l.up, l.buffer.find? (fun f => f.seq = seq) with
  | true, some f =>
    let s := s.updLink k (fun l => { l with
      replays := min (l.replays + 1) (2 ^ 32 - 1)
      buffer := l.buffer.map (fun g => if g.seq = seq then { g with replays := g.replays + 1 } else g) })
    if 8 ≤ f.replays + 1 then (s.takeLinkDown k false).autoTrain k else s
  | _, _ => s

/-- 100 microseconds without an ACK, while a flit waits for one, take the link down. -/
def State.linkTimer (s : State) (k : Fin 16) : State :=
  let l := s.host.links[k]
  match l.up, l.buffer with
  | true, f :: _ => if max f.sent l.ackClock + 94000 ≤ s.clock then (s.takeLinkDown k false).autoTrain k else s
  | _, _ => s

/-- The link is lost by what the peer or the cable does. -/
def execLinkDown (link : Fin 16) (s : State) : Out :=
  .next (if s.host.links[link].up then (s.takeLinkDown link false).autoTrain link else s)

/-! ### Training (R344, R345) -/

def execLinkStepGo (link : Fin 16) (s : State) : Out := .next (s.linkGo link)

/-- The step that runs ends, whatever STEP holds by then. At step 5 each end states its identifier and profiles; step 6 always passes and starts flit traffic at SEQ 0 with
full credits. With AUTO = 1 the next step runs. -/
def Link.stepDone (l : Link) (clock : Nat) (pass : Bool) (peer : BitVec 48) (profiles : BitVec 3) : Link :=
  if !l.busy then l
  else if !pass && l.running ≠ 6 then { l with busy := false, fail := true, failedAt := some clock }
  else
    let l := { l with busy := false, fail := false }
    let l := if l.running = 5 then { l with peer := peer, profiles := profiles, stated := some (Config.endpointId, Config.ownProfiles) } else l
    if l.running = 6 then
      { l with up := true, rxSeq := 0, txSeq := 0, replaying := [], waiting := .replicate 2 [], buffer := [], nextSeq := 0
               spent := .replicate 2 0, owed := .replicate 2 0, ackClock := clock }
    else if l.auto then { l with step := l.running + 1, running := l.running + 1, busy := true }
    else l

def execLinkStepDone (link : Fin 16) (pass : Bool) (peer : BitVec 48) (profiles : BitVec 3) (s : State) : Out :=
  .next (s.updLink link (fun l => l.stepDone s.clock pass peer profiles))

/-- A failed step, with AUTO = 1, restarts at step 1 after 10 ms. -/
def execLinkTrainRetry (link : Fin 16) (s : State) : Out :=
  .next (match s.host.links[link].failedAt with
    | some c => if s.host.links[link].fail && c + 9400000 ≤ s.clock then s.autoTrain link else s
    | none => s)

def execLinkDisable (link : Fin 16) (on : Bool) (s : State) : Out := .next (s.linkHold link on)

/-! ### Transfers (R333, R334; log 27) -/

/-- The offset and length a transfer may have: a multiple of 256, at most 255 data flits. -/
def transferOk (off len : Nat) : Bool := off % 256 = 0 && len ≤ transferBytes

/-- A peer's WRITE into the area the device exposes: acknowledged on receipt, with its TAG. -/
def execPeerWrite (link : Fin 16) (tag : Word) (off : Nat) (data : List Byte) (s : State) : Out :=
  .next (if s.host.links[link].up && transferOk off data.length then
      (s.updHost (fun h => { h with area := h.area.writeL off data, acks := h.acks ++ [(link, tag)] })).updLink link (fun l => l.enqueue 1 [1])
    else s)

/-- A peer's READ: the data goes out as READ_DATA under the same TAG. -/
def execPeerRead (link : Fin 16) (tag : Word) (off : Nat) (len : Nat) (s : State) : Out :=
  .next (if s.host.links[link].up && transferOk off len then
      let b := TransferBody.answer off (s.host.area.readN off len)
      (s.updHost (fun h => { h with transfers := h.transfers ++ [{ tag := tag, link := link, body := b, src := Config.endpointId }] })).updLink
        link (fun l => l.enqueue 1 b.kinds)
    else s)

/-- The transfer on a link under a TAG. -/
def HostSide.transferOn (h : HostSide) (link : Fin 16) (tag : Word) (p : TransferBody → Bool) : Option Transfer :=
  if h.links[link].up then h.transfers.find? (fun t => t.link = link && t.tag = tag && p t.body) else none

def State.dropTransfer (s : State) (t : Transfer) : State := s.updHost (fun h => { h with transfers := h.transfers.erase t })

def TransferBody.asks : TransferBody → Bool
  | .read .. | .journal .. => true
  | _ => false

/-- The data that answers a READ of a PEER_COPY or of a journal; a READ_DATA of another length than asked is none, and one that does
not open under the journal key. -/
def execReadData (link : Fin 16) (tag : Word) (data : List Byte) (s : State) : Out :=
  .next (match s.host.transferOn link tag TransferBody.asks with
    | none => s
    | some t =>
      match t.body with
      | .read off len => if data.length = len then (s.dropTransfer t).peerData tag off data else s
      | .journal d slot _ => if s.journalOpens d slot data then (s.dropTransfer t).journalLoaded d slot data else s
      | _ => s)

def TransferBody.acked : TransferBody → Bool
  | .write .. | .answer .. | .image .. => true
  | _ => false

/-- An endpoint acknowledges what a transfer carried; a link's stripe of an image goes on with its next piece. -/
def execDurableAck (link : Fin 16) (tag : Word) (s : State) : Out :=
  .next (match s.host.transferOn link tag TransferBody.acked with
    | none => s
    | some t =>
      let s := s.dropTransfer t
      match t.body, s.host.checkpoint with
      | .write .., _ => s.peerAnswered tag 0 false
      | .image off len stop, some c => if off + len < stop then s.imagePiece link (off + len) stop else s.imageDurable c
      | _, _ => s)

end Sys2Proof.Machine
end

