-- ==== Sys2Proof/Machine/Gang.lean ====
section
/-!
DEFINITION. Gangs: DISB, GANG2, GANG4, GANG8 and REJN (R151 to R153).
-/

namespace Sys2Proof.Machine

/-- DISB disbands the gang of a member; outside a gang it has no effect. -/
def execDisb (w : Pre) (s : State) : Out :=
  runInstr (.disb w) w {}
    (fun _ s => .ok (if s.regs.gstat.inGang then s.disband s.turn.core s.turn.ctx 1 0 else s)) s

/-- The context a follower takes part through: every register of R14 and context CSR of R15 of the leader but instret; its
own outbox, undo log and store buffer; no stream, arrival record or guard fault of the leader's (R151). -/
def followerOf (leader : Context) (old : Context) : Context :=
  { old with
    regs := { leader.regs with instret := 0, guardPending := false, arrOpen := 0, arrPhase := 0, streams := .replicate 4 .off }
    state := .ready, wait := none, pending := [], outstanding := []
    restorable := false, restore := none, rolledBack := false, event := none, queue := [], sentOn := false, launch := none }

/-- An activation start reaches the context in this clock: it takes effect before a gang forms (R151, R266). -/
def State.startDue (s : State) (f : CoreId) (k : BankId) : Bool :=
  match (s.core f).freeCtx, s.choose f with
  | some j, some (_, .theft, _) => bank j = k && s.mayStart f (s.core f).installed && (s.theftPort f).any (fun p =>
      (s.neighbour f p).any (fun v => (s.victimGives (s.core f).installed v).isSome))
  | some j, some _ => bank j = k && s.mayStart f (s.core f).installed
  | _, _ => false

/-- GANGn (R151). The leader's outstanding results return first. A member keeps what `gstat` says of the last disband. In M mode, and with a follower core that a monitor fault
has stopped, it traps like the other failures (log 101). -/
def State.formGang (s : State) (w : Pre) (n : Nat) : Except Stop State :=
  let c := s.turn.core
  let r := s.regs
  let tv := r.gstat.word
  if r.gstat.inGang || r.dom ≠ [] || coreX c % n ≠ 0 || s.mMode then .error (.trap 0x10 tv) else
  let k := s.turn.ctx
  if s.me.flagsOut then blocked else
  let s := s.updMe (fun x => { x.returned with pending := [] })
  let fs := (List.finRange 8).filterMap (fun x =>
    if coreX c < x.val && x.val < coreX c + n then some (troupeCore (troupeOf c) x) else none)
  if fs.any (fun f =>
      let q := s.core f
      q.ctxs[k].state ≠ .dormant || q.retired || q.dead || !q.resident r.tag || s.startDue f k) then .error (.trap 0x10 tv)
  else
    let g : Gstat := { r.gstat with inGang := true, leader := false, detached := false, size := if n = 2 then 1 else if n = 4 then 2 else 3 }
    let s := s.updMe (fun x => { x with regs := { x.regs with pc := s.next w, gstat := { g with leader := true } } })
    let me := s.me
    .ok (fs.foldl (fun s f => s.updCtx f k (fun old =>
      let x := followerOf me old
      { x with regs := { x.regs with gstat := g } })) s)

def gangOp (i : Instr) (w : Pre) (n : Nat) (s : State) : Out :=
  runInstr i w { jumps := true } (fun _ s => s.formGang w n) s

def execGang2 (w : Pre) (s : State) : Out := gangOp (.gang2 w) w 2 s
def execGang4 (w : Pre) (s : State) : Out := gangOp (.gang4 w) w 4 s
def execGang8 (w : Pre) (s : State) : Out := gangOp (.gang8 w) w 8 s

/-- REJN (R153). A detached follower waits at it; the leader takes back the followers that wait at the same address,
which go on with its next forwarded instruction. -/
def State.rejoin (s : State) (w : Pre) : Except Stop State :=
  let g := s.regs.gstat
  let a := s.regs.pc
  if g.inGang && g.detached && !g.leader then
    let next := s.next w
    .error (.halt ((s.updRegs (fun r => { r with pc := next })).block (.rejoin a)))
  else if g.inGang && g.leader then
    let k := s.turn.ctx
    .ok ((s.gang s.turn.core k).foldl (fun s m =>
      let x := s.ctx m k
      if x.wait = some (.rejoin a) then
        s.updCtx m k (fun x => { x with
          state := .ready, wait := none, queue := [],
          regs := { x.regs with gstat := { x.regs.gstat with detached := false } } })
      else s) s)
  else .ok s

def execRejn (w : Pre) (s : State) : Out := runInstr (.rejn w) w {} (fun _ s => s.rejoin w) s

end Sys2Proof.Machine
end

