-- ==== Sys2Proof/Machine/Illegal.lean ====
section
/-!
DEFINITION. What a word that is no instruction and a fetch that fails do: they take their trap in place of the
instruction at pc (R36 to R38, R40, R53, R233).
-/

namespace Sys2Proof.Machine

/-- Cause 0x01 with the base word, or 0x02 for a prefix chain. -/
def execIllegalInstruction (cause : BitVec 8) (value : Word) (s : State) : Out := .next (s.takeTrap cause value)

/-- A fetch that fails faults the whole instruction at its first parcel. -/
def execFetchFault (cause : BitVec 8) (addr : Word) (s : State) : Out := .next (s.takeTrap cause addr)

end Sys2Proof.Machine
end

