-- ==== Sys2Proof/Machine/MemOps.lean ====
section
/-!
DEFINITION. Scalar loads, stores, atomics and fences (R87 to R98).
-/

namespace Sys2Proof.Machine

def ordOf (w : Pre) : MemOrd := (chainOrd w.chain).1

/-! ### Loads (R87, R92) -/

/-- A load of n bytes from opA + off; `rel` adds the release conditions of PFX.O (R89). -/
def State.loadAt (s : State) (addr : Word) (n : Nat) (rel : Bool) : Except Stop (State × Word) := do
  let l ← s.checkAccess addr.toNat n .load
  let s ← if rel then s.releaseMe else .ok s
  let (s, bs) ← s.readLoc l n
  .ok (s, leWord bs)

def loadOp (i : Instr) (w : Pre) (d a : GReg) (off : Word) (n : Nat) (signed : Bool) (s : State) : Out :=
  runInstr i w { srcs := [a], dst := some d, reads := a.refs, writes := d.refs, long := true }
    (fun vs s => do
      let (s, x) ← s.loadAt (v0 vs + off) n (MemOrd.releases (ordOf w))
      .ok (s.writeG d (if signed then sext x (8 * n) else x))) s

def execLdb (w : Pre) (d a : GReg) (imm : BitVec 10) (s : State) : Out :=
  loadOp (.ldb w d a imm) w d a (immS w imm) 1 true s
def execLdbu (w : Pre) (d a : GReg) (imm : BitVec 10) (s : State) : Out :=
  loadOp (.ldbu w d a imm) w d a (immS w imm) 1 false s
def execLdh (w : Pre) (d a : GReg) (imm : BitVec 10) (s : State) : Out :=
  loadOp (.ldh w d a imm) w d a (immS w imm) 2 true s
def execLdhu (w : Pre) (d a : GReg) (imm : BitVec 10) (s : State) : Out :=
  loadOp (.ldhu w d a imm) w d a (immS w imm) 2 false s
def execLdw (w : Pre) (d a : GReg) (imm : BitVec 10) (s : State) : Out :=
  loadOp (.ldw w d a imm) w d a (immS w imm) 4 true s
def execLdwu (w : Pre) (d a : GReg) (imm : BitVec 10) (s : State) : Out :=
  loadOp (.ldwu w d a imm) w d a (immS w imm) 4 false s
def execLdd (w : Pre) (d a : GReg) (imm : BitVec 10) (s : State) : Out :=
  loadOp (.ldd w d a imm) w d a (immS w imm) 8 false s

def sizeBytes : Size → Nat
  | .b => 1
  | .h => 2
  | .w => 4
  | .d => 8

def execLda (w : Pre) (z : Size) (c : Scope) (d a : GReg) (s : State) : Out :=
  loadOp (.lda w z c d a) w d a 0 (sizeBytes z) false s

/-! ### Stores (R88, R93) -/

/-- The place a store of n bytes goes to. -/
def State.storePlace (s : State) (addr : Word) (n : Nat) : Except Stop Loc := s.checkAccess addr.toNat n .store

/-- A store: D is read, popped and checked after A (log 95). -/
def storeOp (i : Instr) (w : Pre) (d a : GReg) (off : Word) (n : Nat) (rel : Bool) (s : State) : Out :=
  runInstr i w { srcs := [a, d], reads := a.refs ++ d.refs }
    (fun vs s => do
      let l ← s.storePlace (v0 vs + off) n
      s.storeLoc l (leBytes n (v1 vs).toNat) (rel || MemOrd.releases (ordOf w)) (MemOrd.acquires (ordOf w))) s

def execStb (w : Pre) (d a : GReg) (imm : BitVec 10) (s : State) : Out :=
  storeOp (.stb w d a imm) w d a (immS w imm) 1 false s
def execSth (w : Pre) (d a : GReg) (imm : BitVec 10) (s : State) : Out :=
  storeOp (.sth w d a imm) w d a (immS w imm) 2 false s
def execStw (w : Pre) (d a : GReg) (imm : BitVec 10) (s : State) : Out :=
  storeOp (.stw w d a imm) w d a (immS w imm) 4 false s
def execStd (w : Pre) (d a : GReg) (imm : BitVec 10) (s : State) : Out :=
  storeOp (.std w d a imm) w d a (immS w imm) 8 false s
def execStl (w : Pre) (z : Size) (c : Scope) (d a : GReg) (s : State) : Out :=
  storeOp (.stl w z c d a) w d a 0 (sizeBytes z) true s

/-! ### Atomics (R94 to R96) -/

/-- The value an AMO stores (R94). -/
def amoCombine (o : AmoOp) (old b : Word) : Word :=
  match o with
  | .add => old + b
  | .swp => b
  | .and => old &&& b
  | .or => old ||| b
  | .xor => old ^^^ b
  | .min => smin old b
  | .max => smax old b
  | .minu => umin old b
  | .maxu => umax old b
  | .addw => zext (old + b) 32

def amoSize (o : AmoOp) : Nat := match o with | .addw => 4 | _ => 8

def execAmo (w : Pre) (o : AmoOp) (d a b : GReg) (s : State) : Out :=
  runInstr (.amo w o d a b) w { srcs := [a, b], dst := some d, reads := a.refs ++ b.refs, writes := d.refs, long := true }
    (fun vs s => do
      let n := amoSize o
      let l ← s.checkAccess (v0 vs).toNat n .atomic
      let (s, old) ← s.atomicLoc l n (MemOrd.releases (ordOf w))
        (fun old => some (amoCombine o (BitVec.ofNat 64 old) (v1 vs)).toNat)
      .ok (s.writeG d (sext (BitVec.ofNat 64 old) (8 * n)))) s

/-- The g-file operand of PFX.R, D without one (R51). -/
def srcOr (w : Pre) (d : GReg) : GReg := match chainSrc w.chain with | some c => (greg? c).getD d | none => d

def execCas (w : Pre) (dbl : Bool) (d a b : GReg) (s : State) : Out :=
  let c := srcOr w d
  runInstr (.cas w dbl d a b) w
    { srcs := [a, b, c], dst := some d, reads := a.refs ++ b.refs ++ c.refs, writes := d.refs, long := true }
    (fun vs s => do
      let n := if dbl then 8 else 4
      let l ← s.checkAccess (v0 vs).toNat n .atomic
      let (s, old) ← s.atomicLoc l n (MemOrd.releases (ordOf w))
        (fun old => if old = (v2 vs).toNat % 2 ^ (8 * n) then some ((v1 vs).toNat % 2 ^ (8 * n)) else none)
      .ok (s.writeG d (sext (BitVec.ofNat 64 old) (8 * n)))) s

/-! ### Fences (R97, R98) -/

/-- FENCE: REL and FULL wait as a release does; every kind flushes merged WC stores; at CLUSTER scope and wider a
pending guard fault is reported. -/
def State.fence (s : State) (k : FenceKind) (c : Scope) : Except Stop State := do
  let s ← match k with
    | .acq => s.flushWc
    | .rel | .full => s.releaseMe
  if c ≠ .core && s.regs.guardPending then .error (.guardFault s.regs.gfa) else .ok s

def execFence (w : Pre) (k : FenceKind) (c : Scope) (s : State) : Out :=
  runInstr (.fence w k c) w {} (fun _ s => s.fence k c) s

end Sys2Proof.Machine
end

