-- ==== Sys2Proof/Machine/PowerUnit.lean ====
section
/-!
DEFINITION. Troupe staging, the throttle and power gating (R346, R347, R349, R351).
-/

namespace Sys2Proof.Machine

/-! ### Admission (R346, R347) -/

/-- The interval of 940 clocks that a clock lies in. -/
def interval (clock : Nat) : Nat := clock / 940

/-- Troupes of a die with a job ready that requested by the start of an interval, with the interval their request began in. -/
def State.requesting (s : State) (d : DieId) (i : Nat) : List (Nat × Nat) :=
  s.listedTroupes.filterMap (fun u =>
    match (s.troupe u).request with
    | some c => if u.val / 256 = d.val && !(s.troupe u).active && (s.troupe u).jobReady && c ≤ 940 * i then some (u.val, interval c) else none
    | none => none)

/-- The first `n` of them: by the interval in which the request began, then by troupe number; a request at the clock of
the interval's own start is one of its own interval. -/
def earliest (l : List (Nat × Nat)) : Nat → List Nat
  | 0 => []
  | n + 1 =>
    match l with
    | [] => []
    | e :: rest =>
      let best := rest.foldl (fun (a : Nat × Nat) b => if b.2 < a.2 || (b.2 = a.2 && b.1 < a.1) then b else a) e
      best.1 :: earliest (l.filter (fun x => x.1 ≠ best.1)) n

def State.admitTroupe (s : State) (t : Nat) : State :=
  if h : t < 1024 then
    s.updTroupe ⟨t, h⟩ (fun x => { x with active := true, quietFrom := s.clock, request := none })
  else s

/-- At the start of an interval a die admits up to WAKEN requesting troupes, once. -/
def State.admitDie (s : State) (die : DieId) : State :=
  let i := interval s.clock
  if i < s.dies[die].admitted then s
  else
    let l := earliest (s.requesting die i) s.host.power.waken
    (l.foldl (fun s t => s.admitTroupe t) s).updDie die (fun x => { x with admitted := i + 1 })

def execTroupeAdmission (die : DieId) (s : State) : Out := .next (s.admitDie die)

/-- A troupe that has issued nothing for 4,096 clocks is inactive. -/
def execTroupeIdle (troupe : TroupeId) (s : State) : Out :=
  .next (
    let x := s.troupe troupe
    if x.active && x.quietFrom + 4096 ≤ s.clock then s.updTroupe troupe (fun x => { x with active := false }) else s)

/-! ### The throttle (R349) -/

/-- THR from AVGW at the end of a millisecond. -/
def throttle (thr avgw capw : Nat) : Nat :=
  if capw < avgw then max 8 (thr - 8)
  else if 100 * avgw < 95 * capw then min 64 (thr + 4)
  else thr

/-- A millisecond, 940,000 clocks, ends at this clock, and its update has not been done. -/
def State.throttleDue (s : State) : Bool := s.clock % 940000 = 0 && s.host.power.updated < s.clock / 940000

/-- The update at the end of a millisecond whose average power is `avgw`. -/
def State.throttleTo (s : State) (avgw : BitVec 12) : State :=
  if s.throttleDue then
    s.updPower (fun p => { p with avgw := avgw.toNat, thr := throttle p.thr avgw.toNat p.capw, updated := s.clock / 940000 })
  else s

def execThrottleUpdate (avgw : BitVec 12) (s : State) : Out := .next (s.throttleTo avgw)

/-! ### Power gating (R351) -/

def execClusterGateWrite (die : DieId) (w : BitVec 32) (s : State) : Out := .next (s.gateWrite die w)
def execClusterWake (cluster : ClusterId) (s : State) : Out := .next (s.wakeCluster cluster)
def execClusterSupplySettled (cluster : ClusterId) (s : State) : Out :=
  .next (s.settled cluster)

end Sys2Proof.Machine
end

