-- ==== Sys2Proof/Machine/Summary.lean ====
section
/-!
DEFINITION. SUMMARY (R327). The spec names what each entry holds; its byte layout is the model's (log 51).
-/

namespace Sys2Proof.Machine

/-- Which parts of the device a function sees. -/
def State.sees (fn : FuncId) (p : PartId) : Bool := !foreign fn p

/-- A section: its clock, then its entries. -/
structure Section where
  count : Nat
  bytes : List Byte

def sectionOf (entries : List (List Byte)) : Section := { count := entries.length, bytes := entries.flatten }

/-- A queue's register block as R319 lays it out. -/
def State.queueWord (s : State) (q : QueueId) (off : Nat) : Word :=
  let x := s.host.cmdq[q]
  match off with
  | 0x00 => x.base
  | 0x08 => at' x.log2n.toNat 0 ||| at' x.vec.toNat 8 ||| atB x.run 14 ||| atB x.stopped 15 ||| at' x.reason.toNat 16
  | 0x10 => x.tail.setWidth 64
  | 0x18 => (s.queueHead q).setWidth 64
  | _ => 0

def State.queueBytes (s : State) (q : QueueId) : List Byte :=
  bytesOfSlots ([0x00, 0x08, 0x10, 0x18].map (s.queueWord q)) ++
    ((List.finRange 4).map (fun d => leBytes 8 (s.thread d q).count.toNat)).flatten

/-- A partition: state, PHASE, replay mode, ALWs, count of domain tags; DONE; cluster masks; the tags. -/
def State.partEntry (s : State) (p : PartId) : List Byte :=
  let x := s.partitions[p]
  let tags := s.domainsOf p
  leBytes 8 (x.state.code + 256 * x.phase.toNat + 2 ^ 16 * (if x.replay then 1 else 0) + 2 ^ 24 * x.valw.toNat +
      2 ^ 32 * x.malw.toNat + 2 ^ 48 * tags.length) ++
    leBytes 8 x.done ++ leBytes 16 x.clusters.toNat ++ (tags.map (fun t => leBytes 2 t.toNat)).flatten

def StreamState.code : StreamState → Nat
  | .active => 0
  | .lost => 1
  | .ended => 2
  | .replay => 3

/-- A stream: the fields of R308, an absent ordinal as all ones. -/
def streamEntry (d : DieId) (slot : Nat) (q : CueStream) : List Byte :=
  let ord (o : Option Nat) : Nat := match o with | some n => n | none => 2 ^ 64 - 1
  leBytes 8 (q.seqid.toNat + 2 ^ 32 * q.part.val + 2 ^ 40 * q.outq.val + 2 ^ 48 * q.state.code) ++
    leBytes 8 (slot + 4096 * d.val) ++ leBytes 8 q.ustudy.toNat ++ leBytes 8 q.nextOrd ++ leBytes 8 q.ackOrd ++
    leBytes 8 (ord q.truncOrd) ++ leBytes 8 q.ckref.toNat ++ leBytes 8 (ord q.ckord) ++ leBytes 8 q.retainBase ++ leBytes 8 q.retainSize

/-- A link's status as R334 lays it out. -/
def Link.status (l : Link) : List Word :=
  [atB l.up 0 ||| atB l.disable 1 ||| (if l.up then at' 4 2 ||| at' l.profiles.toNat 5 ||| at' l.peer.toNat 16 else 0),
    at' l.replays 0 ||| at' l.downs 32]

/-- The records from READ to COUNT that a function sees: those of its own partition. -/
def State.recordEntries (s : State) (fn : FuncId) (d : DieId) : List (List Byte) :=
  let l := s.dies[d].log
  (List.range (l.count - l.read)).filterMap (fun i =>
    match lookup l.records ((l.read + i) % 4096) with
    | some r =>
      let mine := match partOfFunc fn with
        | none => true
        | some p => bit r.slots[2] 53 && fld r.slots[2] 48 5 = p.val
      if r.slots[0] = BitVec.ofNat 64 (l.read + i) && mine then some (bytesOfSlots r.slots.toList) else none
    | none => none)

/-- The six sections. -/
def State.sections (s : State) (fn : FuncId) : List Section :=
  let host := (partOfFunc fn).isNone
  [ sectionOf (((List.finRange 32).filter (fun q => host || s.fnOf q = fn)).map s.queueBytes),
    sectionOf ((s.regions.filter (fun e => State.sees fn (s.regionPart (BitVec.ofNat 32 e.1)) && fld (s.slot e.2 0) 36 2 ≠ 0)).map
      (fun e => bytesOfSlots ((List.range 16).map (s.slot e.2)))),
    sectionOf (((List.finRange 32).filter (State.sees fn)).map s.partEntry),
    sectionOf (((List.finRange 4).map (s.recordEntries fn)).flatten),
    sectionOf (((List.finRange 4).map (fun (d : DieId) =>
      (s.dies[d].streams.filter (fun e => State.sees fn e.2.part)).map (fun e => streamEntry d e.1 e.2))).flatten),
    sectionOf (if host then s.host.links.toList.map (fun l => bytesOfSlots l.status) else []) ]

/-- The whole record: the header, then the sections, each behind its clock. -/
def State.summaryBytes (s : State) (fn : FuncId) : List Byte :=
  let l := s.sections fn
  let put (r : List Byte × List Byte × Nat) (x : Section) : List Byte × List Byte × Nat :=
    (r.1 ++ leBytes 4 r.2.2 ++ leBytes 4 x.count, r.2.1 ++ leBytes 8 s.clock ++ x.bytes, r.2.2 + 8 + x.bytes.length)
  let r := l.foldl put ([], [], 64)
  leBytes 4 0x4D555353 ++ leBytes 4 6 ++ leBytes 8 s.clock ++ r.1 ++ r.2.1

def State.summary (s : State) (fn : FuncId) (p : Packet) : State × Option (CmdStatus × Nat) :=
  let bs := s.summaryBytes fn
  if (p.sl 4).toNat < bs.length then (s, some (.refused, bs.length))
  else match s.extWrite fn (p.sl 3) bs with
  | some s => (s, some (.ok, bs.length))
  | none => (s, some (.fault, 0))

def execSummary (die : DieId) (q : QueueId) (s : State) : Out :=
  .next (s.perform1 die q 0x10 (fun s p => s.summary (s.fnOf q) p))

end Sys2Proof.Machine
end

