-- ==== Sys2Proof/Machine/Registers.lean ====
section
/-!
DEFINITION. What the host does to the device: register writes through the functions' BAR0 and device register space,
interrupt vectors, accesses over CXL.mem; and writes of the monitor's own registers as events (R6, R221, R281, R318,
R319, R328, R329, R334, R339).
-/

namespace Sys2Proof.Machine

/-! ### Interrupt vectors (R329) -/

/-- COUNT reached, or HOLDOFF microseconds of 940 clocks passed since the oldest event. -/
def IrqVector.due (x : IrqVector) (clock : Nat) : Bool :=
  !x.masked && 0 < x.pending &&
    (x.count ≤ x.pending || (match x.since with | some c => c + 940 * x.holdoff ≤ clock | none => false))

/-- A due vector sends its message; PENDING becomes 0. -/
def State.fire (s : State) (fn : FuncId) (v : Fin 64) : State :=
  let x := s.vector fn v
  if x.due s.clock then
    (s.setVector fn v { x with pending := 0, since := none }).updHost (fun h => { h with msix := h.msix ++ [(fn, v)] })
  else s

def execVectorFire (fn : FuncId) (v : Fin 64) (s : State) : Out := .next (s.fire fn v)

def execVectorUnmask (fn : FuncId) (v : Fin 64) (s : State) : Out :=
  .next ((s.setVector fn v { s.vector fn v with masked := false }).fire fn v)

/-! ### Completion queues (R328) -/

/-- HEAD advances: posts that the dies hold for the queue leave while it has room. -/
def State.headWrite (s : State) (q : QueueId) (head : BitVec 32) : State :=
  let s := s.updCpl q (fun x => { x with head := head })
  s.postHeld q ((s.dies.map (fun d => d.posts.length)).toList.sum)

def execCompletionHeadWrite (q : QueueId) (head : BitVec 32) (s : State) : Out := .next (s.headWrite q head)

/-! ### CXL.mem (R317, R318) -/

/-- What a host read completes with: the bytes, or free values where no window grants them or a word is uncorrectable, both
with the poison indication (R301, R318; log 2). -/
def State.hostRead (s : State) (fn : FuncId) (pa len : Nat) (ok : Bool) : State :=
  let s := if ok then (s.inject pa len).1 else s
  let bad := !ok || (poisonedIn s.poison pa len).isSome
  let bs := if bad then (List.range len).map (fun i => (Config.freeWord (s.fresh + i)).setWidth 8) else s.readPlace (.phys pa) none len
  ({ s with fresh := if bad then s.fresh + len else s.fresh } : State).updHost (fun h => { h with
    reads := h.reads ++ [{ fn := fn, pa := pa, data := bs, poison := bad }] })

/-- A host access to device DRAM. A write that no window grants is discarded (R318). -/
def State.hostAccess (s : State) (fn : FuncId) (pa : Nat) (write : Option (List Byte)) (len : Nat) : State :=
  let n := match write with | some bs => bs.length | none => len
  let inside := homeOf pa = .dram && (n = 0 || homeOf (pa + n - 1) = .dram)
  let ok := match partOfFunc fn with
    | none => true
    | some p => s.partGrants p pa n (if write.isSome then .store else .load)
  if !inside then s
  else match write with
  | some bs => if ok then s.writePhys pa bs none else s
  | none => s.hostRead fn pa len ok

/-- The host writes its own memory, or does an atomic on it; its accesses fall into the order of each location (R251). -/
def State.hostOwn (s : State) (pa : Nat) (a : HostAccess) : State :=
  let inside (n : Nat) : Bool := homeOf pa = .host && homeOf (pa + n - 1) = .host
  let old := leWord (s.readPlace (.phys pa) none 8)
  match a with
  | .write bs => if inside bs.length then s.writePhys pa bs none else s
  | .add x => if inside 8 && pa % 8 = 0 then s.writePhys pa (leBytes 8 (old + x).toNat) none else s
  | .exchange x => if inside 8 && pa % 8 = 0 then s.writePhys pa (leBytes 8 x.toNat) none else s

def execHostMemAccess (fn : FuncId) (pa : Nat) (write : Option (List Byte)) (len : Nat) (s : State) : Out :=
  .next (s.hostAccess fn pa write len)

/-! ### BAR0 (R319, R328, R329, R334, R339) -/

/-- A ring size a queue may have. -/
def ringOk (x : Word) : Bool := 4 ≤ fld x 0 5 && fld x 0 5 ≤ 16

def func6 (x : Word) : Option FuncId := if h : fld x 0 6 < 33 then some ⟨fld x 0 6, h⟩ else none

/-- The map entry of a command queue: ignored while the queue is enabled, or where it names no function. -/
def State.mapCmd (s : State) (q : QueueId) (w : Word) : State :=
  match func6 w with
  | some f => if s.host.cmdq[q].run then s else s.updCmd q (fun x => { x with func := f })
  | none => s
def State.mapCpl (s : State) (q : QueueId) (w : Word) : State :=
  match func6 w with
  | some f => if s.host.cplq[q].en then s else s.updCpl q (fun x => { x with func := f })
  | none => s

/-- A write of a command queue's block. A LOG2N out of range leaves LOG2N as it was (log 52). -/
def State.cmdWrite (s : State) (q : QueueId) (off : Nat) (w : Word) : State :=
  match off with
  | 0x00 => s.updCmd q (fun x => { x with base := w &&& ~~~127#64 })
  | 0x08 =>
    let s := s.updCmd q (fun x => { x with log2n := if ringOk w then w.setWidth 5 else x.log2n, vec := w.extractLsb' 8 6 })
    if bit w 14 then s.updCmd q (fun x => { x with run := true, stopped := false, reason := 0 }) else s
  | 0x10 => s.updCmd q (fun x => { x with tail := w.setWidth 32 })
  | _ => s

/-- A write of a completion queue's block. -/
def State.cplWrite (s : State) (q : QueueId) (off : Nat) (w : Word) : State :=
  match off with
  | 0x00 => s.updCpl q (fun x => { x with base := w &&& ~~~31#64 })
  | 0x08 =>
    let s := s.updCpl q (fun x => { x with
      log2n := if ringOk w then w.setWidth 5 else x.log2n, vec := w.extractLsb' 8 6, en := bit w 14 })
    s.headWrite q s.host.cplq[q].head
  | 0x10 => s.headWrite q (w.setWidth 32)
  | 0x20 => s.updCpl q (fun x => { x with shadow := w })
  | _ => s

/-- A write of a coalescing register. -/
def State.vectorWrite (s : State) (fn : FuncId) (v : Fin 64) (w : Word) : State :=
  let x := s.vector fn v
  let hold := fld w 0 10
  let count := fld w 10 8
  s.setVector fn v { x with holdoff := if 1 ≤ hold && hold ≤ 1000 then hold else x.holdoff, count := if 1 ≤ count then count else x.count }

/-- A write of a function's BAR0. A queue's block stands in the BAR0 of the function it is mapped to. -/
def State.barWrite (s : State) (fn : FuncId) (off : Nat) (w : Word) : State :=
  if off = 0x0108 then (if fn = 0 then s.updBoot (fun b => { b with addr := w }) else s)
  else if off = 0x0110 then (if fn = 0 then s.updBoot (fun b => { b with len := w }) else s)
  else if h : 0x0800 ≤ off ∧ off < 0x0900 then
    if fn = 0 && off % 8 = 0 then s.mapCmd ⟨(off - 0x0800) / 8, by omega⟩ w else s
  else if h : 0x0900 ≤ off ∧ off < 0x0A00 then
    if fn = 0 && off % 8 = 0 then s.mapCpl ⟨(off - 0x0900) / 8, by omega⟩ w else s
  else if h : 0x1000 ≤ off ∧ off < 0x1800 then
    let q : QueueId := ⟨(off - 0x1000) / 64, by omega⟩
    if s.host.cmdq[q].func = fn then s.cmdWrite q (off % 64) w else s
  else if h : 0x3000 ≤ off ∧ off < 0x3800 then
    let q : QueueId := ⟨(off - 0x3000) / 64, by omega⟩
    if s.host.cplq[q].func = fn then s.cplWrite q (off % 64) w else s
  else if h : 0x5000 ≤ off ∧ off < 0x5200 then
    if off % 8 = 0 then s.vectorWrite fn ⟨(off - 0x5000) / 8, by omega⟩ w else s
  else s

/-- BOOTST (R339). -/
def Boot.word (b : Boot) : Word :=
  at' b.stage.toNat 0 ||| at' b.err.toNat 4 ||| at' b.stack.toNat 8 ||| atB b.slot 12 ||| atB b.owner 13 ||| atB b.recovery 14

/-- What a function reads at an offset of its BAR0. -/
def State.barRead (s : State) (fn : FuncId) (off : Nat) : Word :=
  if off = 0x0100 then (if fn = 0 then s.host.boot.word else 0)
  else if off = 0x0108 then (if fn = 0 then s.host.boot.addr else 0)
  else if off = 0x0110 then (if fn = 0 then s.host.boot.len else 0)
  else if h : 0x0800 ≤ off ∧ off < 0x0900 then
    if fn = 0 then BitVec.ofNat 64 (s.fnOf ⟨(off - 0x0800) / 8, by omega⟩).val else 0
  else if h : 0x0900 ≤ off ∧ off < 0x0A00 then
    if fn = 0 then BitVec.ofNat 64 (s.host.cplq[(off - 0x0900) / 8]'(by omega)).func.val else 0
  else if h : 0x1000 ≤ off ∧ off < 0x1800 then
    let q : QueueId := ⟨(off - 0x1000) / 64, by omega⟩
    if s.fnOf q = fn then s.queueWord q (off % 64) else 0
  else if h : 0x3000 ≤ off ∧ off < 0x3800 then
    let x := s.host.cplq[(off - 0x3000) / 64]'(by omega)
    if x.func ≠ fn then 0
    else match off % 64 with
    | 0x00 => x.base
    | 0x08 => at' x.log2n.toNat 0 ||| at' x.vec.toNat 8 ||| atB x.en 14
    | 0x10 => x.head.setWidth 64
    | 0x18 => x.tail.setWidth 64
    | 0x20 => x.shadow
    | _ => 0
  else if h : 0x5000 ≤ off ∧ off < 0x5200 then
    let x := s.vector fn ⟨(off - 0x5000) / 8, by omega⟩
    at' x.holdoff 0 ||| at' x.count 10 ||| at' x.pending 18
  else if h : 0x6000 ≤ off ∧ off < 0x6100 then
    if fn = 0 then ((s.host.links[(off - 0x6000) / 16]'(by omega)).status)[off / 8 % 2]?.getD 0 else 0
  else 0

/-- A write of device register space by a function's driver; the training blocks are written by the firmware of the security
controller alone (R341). -/
def State.regWrite (s : State) (fn : Option FuncId) (pa : Nat) (w : Word) : State :=
  match fn with
  | some f => s.regStore f pa w
  | none =>
    if h : 0x20300000000 ≤ pa ∧ pa < 0x203000C0000 then
      let k : Fin 12 := ⟨(pa - 0x20300000000) / 0x10000, by omega⟩
      if bit w 4 && pa % 0x10000 = 0 && s.host.boot.err = 3 then s.updHbm k (fun x => x.write 0 (w &&& ~~~0x10#64))
      else s.updHbm k (fun x => x.write (pa % 0x10000) w)
    else s

/-- A write of a vector's control word in the MSI-X table: bit 0 masks it (log 116). A vector that fires at its unmasking does so
where its condition holds (R329). -/
def State.maskWrite (s : State) (fn : FuncId) (v : Fin 64) (w : Word) : State :=
  (s.setVector fn v { s.vector fn v with masked := bit w 0 }).fire fn v

/-- A write to a register without behaviour of its own, by a function's driver, the operator or the firmware. -/
def execRegisterWrite (r : RegAddr) (w : Word) (s : State) : Out :=
  .next (match r with
    | .bar fn off => s.barWrite fn off w
    | .dev fn pa => s.regWrite fn pa w
    | .msix fn v => s.maskWrite fn v w)

/-! ### The monitor's registers of a core (R221, R281) -/

def execWindowEnableWrite (core : CoreId) (k : Fin 16) (w : Word) (s : State) : Out :=
  .next (s.updCore core (fun q => q.writeAttr k w))

def execWindowBoundWrite (core : CoreId) (k : Fin 16) (limit : Bool) (w : Word) (s : State) : Out :=
  .next (s.updCore core (fun q => q.writeBound k limit w))

/-- A write of einjc by the monitor; an illegal one is a trap in M mode, which stops the core (R213). -/
def execErrorInjectArm (core : CoreId) (w : Word) (s : State) : Out :=
  .next (match (s.core core).writeEinjc w with
    | some q => s.setCore core q
    | none => s.monitorFault core)

end Sys2Proof.Machine
end

