-- ==== Sys2Proof/Machine/Sfu.lean ====
section
/-!
DEFINITION. The special functions of VSFU: exact values at FP32 arguments, bounded in fixed point and rounded once
(R147; log 21).
-/

namespace Sys2Proof.Machine

/-! ### Fixed point with 512 fraction bits -/

def sfuBits : Nat := 512

/-- π/2, ln 2 and 2/√π, truncated. -/
def halfPi : Nat :=
  0x1921FB54442D18469898CC51701B839A252049C1114CF98E804177D4C76273644A29410F31C6809BBDF2A33679A748636605614DBE4BE286E9FC26ADADAA3848B
def lnTwo : Nat :=
  0xB17217F7D1CF79ABC9E3B39803F2F6AF40F343267298B62D8A0D175B8BAAFA2BE7B876206DEBAC98559552FB4AFA1B10ED2EAE35C138214427573B291169B825
def twoOverRootPi : Nat :=
  0x120DD750429B6D11AE3A914FED7FD8688281341D7587CEA2E7342B06199CC416180EB39F0B24E1E2281806C12D98F35D77A3E9DDC91C394F0E9EEDF0EFFFD84A2

def fixMul (a b : Nat) : Nat := (a * b) >>> sfuBits

/-- Σ yⁿ/n! from a term on. -/
def expLoop (y : Nat) : Nat → Nat → Nat → Nat → Nat
  | 0, _, _, sum => sum
  | fuel + 1, n, term, sum =>
    let t := fixMul term y / n
    expLoop y fuel (n + 1) t (sum + t)

/-- e^y for 0 ≤ y < 1. -/
def expFix (y : Nat) : Nat := expLoop y 110 1 (2 ^ sfuBits) (2 ^ sfuBits)

/-- Alternating Σ (−1)ⁿ termₙ with termₙ₊₁ = termₙ·z/((k+1)(k+2)): the series of sine (k = 1) and cosine (k = 0). -/
def trigLoop (z : Nat) : Nat → Nat → Nat → Int → Int → Int
  | 0, _, _, _, sum => sum
  | fuel + 1, k, term, sign, sum =>
    let t := fixMul term z / ((k + 1) * (k + 2))
    trigLoop z fuel (k + 2) t (-sign) (sum - sign * (t : Int))

def sinFix (r : Nat) : Int := trigLoop (fixMul r r) 60 1 r 1 r
def cosFix (r : Nat) : Int := trigLoop (fixMul r r) 60 0 (2 ^ sfuBits) 1 (2 ^ sfuBits : Nat)

/-- Σ t^(2n+1)/(2n+1): the series of the inverse hyperbolic tangent. -/
def atanhLoop (z : Nat) : Nat → Nat → Nat → Nat → Nat
  | 0, _, _, sum => sum
  | fuel + 1, k, pow, sum =>
    let p := fixMul pow z
    atanhLoop z fuel (k + 2) p (sum + p / (k + 2))

/-- ln z for 1 ≤ z < 2. -/
def lnFix (z : Nat) : Nat :=
  let one := 2 ^ sfuBits
  let t := (z - one) * one / (z + one)
  2 * atanhLoop (fixMul t t) 165 1 t t

/-- Σ (−1)ⁿ x^(2n+1)/(n!(2n+1)): the series of erf, without 2/√π. -/
def erfLoop (z : Nat) : Nat → Nat → Nat → Int → Int → Int
  | 0, _, _, _, sum => sum
  | fuel + 1, n, pow, sign, sum =>
    let p := fixMul pow z / (n + 1)
    erfLoop z fuel (n + 1) p (-sign) (sum - sign * ((p / (2 * n + 3) : Nat) : Int))

def erfFix (x : Nat) : Nat := fixMul (erfLoop (fixMul x x) 260 0 x 1 x).toNat twoOverRootPi

/-! ### Rounding between bounds -/

/-- The rounding of a value strictly between v − err and v + err, times 2^e; none where the bounds round apart. -/
def between (neg : Bool) (v err : Nat) (e : Int) : Option Fp :=
  if v ≤ err then none else
  let lo := fp32.round rne neg (2 * (v - err) + 1) (e - 1)
  let hi := fp32.round rne neg (2 * (v + err) - 1) (e - 1)
  if lo = hi then some { lo with flags := lo.flags ||| NX } else none

/-- The error of a series in units of the last place, and of a trigonometric reduction. -/
def seriesErr : Nat := 2 ^ 20
def trigErr : Nat := 2 ^ 132

/-- x·2^512 for a finite FP32 value; exact. -/
def fixAbs (m : Nat) (e : Int) : Nat := m <<< (e + (sfuBits : Int)).toNat

/-- A result just below 1. -/
def almostOne (neg : Bool) : Option Fp :=
  between neg (2 ^ sfuBits - 2 ^ (sfuBits - 31)) (2 ^ (sfuBits - 31)) (-(sfuBits : Int))

/-- e^(−y) for y ≥ 0. -/
def expNeg (y : Nat) : Nat :=
  let n := y / lnTwo + 1
  expFix (n * lnTwo - y) >>> n

/-! ### The functions at finite, nonzero arguments ±m·2^e -/

def sfuExp2 (neg : Bool) (m : Nat) (e : Int) : Option Fp :=
  let x := scaled neg m e (-(sfuBits : Int))
  let one : Int := ((2 ^ sfuBits : Nat) : Int)
  let n := x / one
  let f := x % one
  if 1024 ≤ n then some (fp32.round rne false 1 1024)
  else if n < -1024 then some (fp32.round rne false 1 (-1024))
  else if f = 0 then some (fp32.round rne false 1 n)
  else between false (expFix (fixMul f.toNat lnTwo)) seriesErr (n - (sfuBits : Int))

def sfuLog2 (m : Nat) (e : Int) : Option Fp :=
  let l := m.log2
  let n : Int := e + (l : Int)
  if m = 2 ^ l then some (ofInteger fp32 rne n)
  else
    let z := m <<< (sfuBits - l)
    let v : Int := n * ((2 ^ sfuBits : Nat) : Int) + ((lnFix z * 2 ^ sfuBits / lnTwo : Nat) : Int)
    between (v < 0) v.natAbs seriesErr (-(sfuBits : Int))

def sfuRcp (neg : Bool) (m : Nat) (e : Int) : Fp := fp32.divFin rne neg 1 0 m e

def sfuRsq (m : Nat) (e : Int) : Fp :=
  let m' := if e % 2 = 0 then m else 2 * m
  let e' := if e % 2 = 0 then e else e - 1
  let q := 2 ^ 128 / m'
  let r := isqrt q 65 0
  fp32.round rne false (2 * r + (if r * r * m' = 2 ^ 128 then 0 else 1)) (-65 - e' / 2)

/-- Sine (`quarter` 0) or cosine (`quarter` 1) by reduction to |r| ≤ π/4. -/
def sfuTrig (neg : Bool) (m : Nat) (e : Int) (quarter : Int) : Option Fp :=
  let x := scaled neg m e (-(sfuBits : Int))
  let h : Int := ((halfPi : Nat) : Int)
  let k := (2 * x + h) / (2 * h)
  let r := x - k * h
  let q := (k + quarter) % 4
  let v := if q % 2 = 0 then (if r < 0 then -(sinFix r.natAbs) else sinFix r.natAbs) else cosFix r.natAbs
  let v := if 2 ≤ q then -v else v
  between (v < 0) v.natAbs trigErr (-(sfuBits : Int))

def sfuTanh (neg : Bool) (m : Nat) (e : Int) : Option Fp :=
  let x := fixAbs m e
  let one := 2 ^ sfuBits
  if 32 * one ≤ x then almostOne neg
  else
    let t := expNeg (2 * x)
    between neg ((one - t) * one / (one + t)) seriesErr (-(sfuBits : Int))

def sfuErf (neg : Bool) (m : Nat) (e : Int) : Option Fp :=
  let x := fixAbs m e
  if 5 * 2 ^ sfuBits ≤ x then almostOne neg else between neg (erfFix x) (2 ^ 60) (-(sfuBits : Int))

/-! ### VSFU -/

def sfuNumber : SfuFn → Nat
  | .exp2 => 0
  | .log2 => 1
  | .rcp => 2
  | .rsq => 3
  | .sin => 4
  | .cos => 5
  | .tanh => 6
  | .erf => 7

def one32 (neg : Bool) : Nat := fp32.zero neg + 0x3F800000

/-- The result at an infinity. -/
def sfuInf (fn : SfuFn) (neg : Bool) : Fp :=
  match fn with
  | .exp2 => { bits := if neg then 0 else fp32.inf false, flags := 0 }
  | .log2 => if neg then fp32.invalid else { bits := fp32.inf false, flags := 0 }
  | .rcp => { bits := fp32.zero neg, flags := 0 }
  | .rsq => if neg then fp32.invalid else { bits := 0, flags := 0 }
  | .sin | .cos => fp32.invalid
  | .tanh | .erf => { bits := one32 neg, flags := 0 }

/-- The result at a zero. -/
def sfuZero (fn : SfuFn) (neg : Bool) : Fp :=
  match fn with
  | .exp2 | .cos => { bits := one32 false, flags := 0 }
  | .log2 => { bits := fp32.inf true, flags := DZ }
  | .rcp | .rsq => { bits := fp32.inf neg, flags := DZ }
  | .sin | .tanh | .erf => { bits := fp32.zero neg, flags := 0 }

/-- A special function at an FP32 pattern. -/
def sfu (fn : SfuFn) (x : Nat) : Fp :=
  match fp32.value x with
  | .nan n f s => { bits := fp32.quiet n f fp32.mb, flags := if s then NV else 0 }
  | .inf n => sfuInf fn n
  | .fin neg m e =>
    if m = 0 then sfuZero fn neg
    else
      let r : Option Fp := match fn with
        | .exp2 => sfuExp2 neg m e
        | .log2 => if neg then some fp32.invalid else sfuLog2 m e
        | .rcp => some (sfuRcp neg m e)
        | .rsq => if neg then some fp32.invalid else some (sfuRsq m e)
        | .sin => sfuTrig neg m e 0
        | .cos => sfuTrig neg m e 1
        | .tanh => sfuTanh neg m e
        | .erf => sfuErf neg m e
      match r with
      | some v => v
      | none =>
        let v := Config.sfuValue (sfuNumber fn) (BitVec.ofNat 32 x)
        { bits := v.1.toNat, flags := v.2 }

def execVsfu (w : Pre) (fn : SfuFn) (d a : VReg) (s : State) : Out :=
  let i : Instr := .vsfu w fn d a
  runInstr i w { reads := rv a, writes := rv d, long := true }
    (fun _ s => do
      s.checkDst i d
      let (s, x) ← s.readV a
      let rs := s.regs.onActive w 4 16 (fun j => sfu fn (lane x 4 j))
      .ok (s.vwrite w 4 d rs (lane x 4) (fun _ => 0))) s

end Sys2Proof.Machine
end

