-- ==== Sys2Proof/Machine/VectorMem.lean ====
section
/-!
DEFINITION. Vector loads and stores (R141).
-/

namespace Sys2Proof.Machine

/-- Checks the active elements in index order, each as an access of w bytes. -/
def State.checkElems (s : State) (w : Nat) (kind : Kind) (addr : Nat → Word) : List Nat → Except Stop (List (Nat × Loc))
  | [] => .ok []
  | i :: t => do
    let l ← s.checkAccess (addr i).toNat w kind
    let rest ← s.checkElems w kind addr t
    .ok ((i, l) :: rest)

/-- Lines of protected pages among checked elements. -/
def protLines (w : Nat) (ls : List (Nat × Loc)) : List Nat :=
  (ls.map (fun e => match e.2.place, e.2.prot with | .phys a, true => linesOf a w | _, _ => [])).flatten.eraseDups

/-- Verifications of one instruction's lines, each line once. -/
def dedupVerifs (old new : List Verif) : List Verif := old ++ (new.drop old.length).eraseDups

/-- A vector load resolves its oldest pending verifications as it goes, so that at most `keep` are left: 32 as a thread may hold, none
before an access to an SO page, which every earlier one goes before (R241, R250; log 24). -/
def State.trimVerifs (s : State) (old : List Verif) (keep : Nat) : Except Stop State :=
  let vs := dedupVerifs old s.me.verifs
  let beyond := vs.take (vs.length - keep)
  match beyond.find? (fun v => !v.ok) with
  | some v => .error (.halt (s.ctxIntegrity s.turn.core s.myCtx v.line v.injected))
  | none => .ok (s.updMe (fun x => { x with verifs := vs.drop beyond.length }))

/-- Reads the elements in order: index and value of each. -/
def State.readElems (s : State) (w : Nat) (old : List Verif) : List (Nat × Loc) → Except Stop (State × List (Nat × Nat))
  | [] => .ok (s, [])
  | (i, l) :: t => do
    let s ← if l.ty = 3 then s.trimVerifs old 0 else .ok s
    let (s, bs) ← s.readLocBy false l w
    let s ← s.trimVerifs old 32
    let (s, rest) ← s.readElems w old t
    .ok (s, (i, leNat bs) :: rest)

/-- The active elements' indices. -/
def Regs.actives (r : Regs) (w : Pre) (width : Nat) : List Nat :=
  (List.range (64 / width)).filter (fun i => r.active w width i)

/-- A vector load: every active element is checked before anything is read, and what a release waits for is waited for first where
an element lies on an SO page (R141, R250). -/
def State.vload (s : State) (w : Pre) (width : Nat) (d : VReg) (addr : Nat → Word) : Except Stop State := do
  let ls ← s.checkElems width .load addr (s.regs.actives w width)
  let s ← if ls.any (fun e => e.2.ty = 3) then s.releaseMe else .ok s
  let old := s.me.verifs
  if old ≠ [] && 32 < old.length + (protLines width ls).length then blocked else
  let (s, vs) ← s.readElems width old ls
  let r := s.regs
  .ok (s.setV d (mergeElems (64 / width) width (r.active w width) w.mask.2 r.v[d] (fun i => (lookup vs i).getD 0)))

/-- Stores the elements in index order, one plain store each; `log` records the undo units of each. -/
def State.storeElems (s : State) (w : Nat) (log : Bool) (val : Nat → Nat) : List (Nat × Loc) → Except Stop State
  | [] => .ok s
  | (i, l) :: t => do
    s.keyHeld l
    let s ← (if s.guarded l 0 then .ok (s.guardTouch l 0 true)
      else
        let s := if log then s.logWrite l (unitsOf l.place.off w) else s
        .ok (s.buffer l (leBytes w (val i)) false false))
    s.storeElems w log val t

/-- A vector store. -/
def State.vstore (s : State) (w : Pre) (width : Nat) (x : BitVec 512) (addr : Nat → Word) (whole : Bool) :
    Except Stop State := do
  let ls ← s.checkElems width .store addr (s.regs.actives w width)
  if s.me.fenced then blocked else
  -- VST: one undo entry for each unit that holds an active byte
  let units := (ls.map (fun e => if s.guarded e.2 0 then [] else unitsOf e.2.place.off width)).flatten.eraseDups
  let s := match ls.head?, whole with
    | some e, true => if units.isEmpty then s else s.logWrite e.2 units
    | _, _ => s
  s.storeElems width (!whole) (lane x width) ls

/-- The alignment of opA of VLD and VST. -/
def lineAligned (a : Word) : Except Stop Unit := if a.toNat % 64 ≠ 0 then .error (.trap 0x05 a) else .ok ()

def unitAddr (a : Word) (width i : Nat) : Word := a + BitVec.ofNat 64 (width * i)
def strideAddr (a b : Word) (i : Nat) : Word := a + b * BitVec.ofNat 64 i
/-- opA + w·(element i of B, signed). -/
def indexAddr (a : Word) (b : BitVec 512) (width i : Nat) : Word :=
  a + BitVec.ofInt 64 ((width : Int) * toSigned (8 * width) (lane b width i))

def execVld (w : Pre) (t : ElemTy) (d : VReg) (a : GReg) (s : State) : Out :=
  let i : Instr := .vld w t d a
  runInstr i w { srcs := [a], reads := a.refs, writes := rv d, long := true }
    (fun vs s => do
      s.checkDst i d
      lineAligned (v0 vs)
      s.vload w t.bytes d (unitAddr (v0 vs) t.bytes)) s

def execVst (w : Pre) (t : ElemTy) (d : VReg) (a : GReg) (s : State) : Out :=
  runInstr (.vst w t d a) w { srcs := [a], reads := a.refs ++ rv d }
    (fun vs s => do
      lineAligned (v0 vs)
      let (s, x) ← s.readV d
      s.vstore w t.bytes x (unitAddr (v0 vs) t.bytes) true) s

def execVlds (w : Pre) (t : ElemTy) (d : VReg) (a b : GReg) (s : State) : Out :=
  let i : Instr := .vlds w t d a b
  runInstr i w { srcs := [a, b], reads := a.refs ++ b.refs, writes := rv d, long := true }
    (fun vs s => do
      s.checkDst i d
      s.vload w t.bytes d (strideAddr (v0 vs) (v1 vs))) s

def execVsts (w : Pre) (t : ElemTy) (d : VReg) (a b : GReg) (s : State) : Out :=
  runInstr (.vsts w t d a b) w { srcs := [a, b], reads := a.refs ++ b.refs ++ rv d }
    (fun vs s => do
      let (s, x) ← s.readV d
      s.vstore w t.bytes x (strideAddr (v0 vs) (v1 vs)) false) s

def execVgth (w : Pre) (t : ElemTy) (d : VReg) (a : GReg) (b : VReg) (s : State) : Out :=
  let i : Instr := .vgth w t d a b
  runInstr i w { srcs := [a], reads := a.refs ++ rv b, writes := rv d, long := true }
    (fun vs s => do
      s.checkDst i d
      let (s, y) ← s.readV b
      s.vload w t.bytes d (indexAddr (v0 vs) y t.bytes)) s

def execVsct (w : Pre) (t : ElemTy) (d : VReg) (a : GReg) (b : VReg) (s : State) : Out :=
  runInstr (.vsct w t d a b) w { srcs := [a], reads := a.refs ++ rv b ++ rv d }
    (fun vs s => do
      let (s, y) ← s.readV b
      let (s, x) ← s.readV d
      s.vstore w t.bytes x (indexAddr (v0 vs) y t.bytes) false) s

end Sys2Proof.Machine
end

