-- ==== Sys2Proof/Machine/Walk.lean ====
section
/-!
DEFINITION. Walks that fill the translation caches, and shootdowns through a cluster's translation block (R232 to R237).
-/

namespace Sys2Proof.Machine

def Leaf.entry (l : Leaf) (tag : Tag) (va : Nat) : TlbEntry :=
  { tag := tag, va := va / l.size * l.size, size := l.size, pa := l.pa, r := l.r, w := l.w, x := l.x, ty := l.ty, prot := l.prot }

/-- Enters an element into a cache of n, newest first; an element with the same key goes. -/
def cacheIn {α : Type} (n : Nat) (same : α → Bool) (x : α) (l : List α) : List α := (x :: l.filter (fun y => !same y)).take n

/-- The first n elements that a test picks, and all others. -/
def keepWays {α : Type} (p : α → Bool) : Nat → List α → List α
  | _, [] => []
  | n, x :: t =>
    if p x then (match n with | 0 => keepWays p 0 t | m + 1 => x :: keepWays p m t) else x :: keepWays p n t

/-- A leaf enters the troupe TLB: 512 entries, eight for each page size and page number modulo 64 (R234; log 10). -/
def troupeCacheIn (e : TlbEntry) (l : List TlbEntry) : List TlbEntry :=
  let set (y : TlbEntry) : Bool := y.size = e.size && y.va / y.size % 64 = e.va / e.size % 64
  (e :: keepWays set 7 (l.filter (fun y => !(y.tag = e.tag && y.va = e.va && y.size = e.size)))).take 512

def TlbEntry.like (e y : TlbEntry) : Bool := y.tag = e.tag && y.va = e.va && y.size = e.size
def WalkEntry.like (e y : WalkEntry) : Bool := y.level = e.level && y.tag = e.tag && y.va = e.va

/-- A walk for an address of a domain: a valid leaf enters the micro-TLB and the troupe TLB, and the pointer entries
passed enter the walk cache. A fault is never cached (R234). -/
def execPageWalk (core : CoreId) (tag : Tag) (va : Nat) (s : State) : Out :=
  .next (
    if 2 ^ 56 ≤ va then s
    else match s.walkAll core tag va with
    | .error _ => s
    | .ok (l, es) =>
      let e := l.entry tag va
      let s := s.updCore core (fun q => { q with tlb := cacheIn 32 e.like e q.tlb })
      let s := s.updTroupe (troupeOf core) (fun t => { t with tlb := troupeCacheIn e t.tlb })
      s.updCluster (clusterOf core) (fun x => { x with walk := es.foldl (fun l w => cacheIn 64 w.like w l) x.walk }))

/-- A write of the GO register of a cluster's block. -/
def execShootdownGo (cluster : ClusterId) (writer : BlockWriter) (w : Word) (s : State) : Out :=
  .next (match writer with
    | .host fn => s.blockStore fn cluster 0x010 w
    | _ => s.updCluster cluster (fun x => x.blockWrite (s.blockAgent writer) 0x010 w))

/-- The running shootdown completes once every access that used the old translations has performed; a GO held meanwhile
starts (R235, R237). -/
def execShootdownComplete (cluster : ClusterId) (s : State) : Out :=
  .next (match (s.cluster cluster).running with
    | some q =>
      if s.clusterLeaves cluster (some q.tag) then
        (s.shootdown cluster (if q.all then none else some q.va) (some q.tag)).updCluster cluster (fun x =>
          { x with running := x.waiting.head?, waiting := x.waiting.drop 1 })
      else s
    | none => s)

end Sys2Proof.Machine
end

