-- ==== Sys2Proof/Machine/Dispatch.lean ====
section
/-!
DEFINITION. What each instruction and event does: one arm per constructor, each one call of its meaning.
-/

namespace Sys2Proof.Machine

def exec (i : Instr) (s : State) : Host.Outcome State Fault Refusal :=
  match i with
  | .add w d a b => Sys2Proof.Machine.execAdd w d a b s
  | .sub w d a b => Sys2Proof.Machine.execSub w d a b s
  | .and w d a b => Sys2Proof.Machine.execAnd w d a b s
  | .or w d a b => Sys2Proof.Machine.execOr w d a b s
  | .xor w d a b => Sys2Proof.Machine.execXor w d a b s
  | .andn w d a b => Sys2Proof.Machine.execAndn w d a b s
  | .shl w d a b => Sys2Proof.Machine.execShl w d a b s
  | .shr w d a b => Sys2Proof.Machine.execShr w d a b s
  | .sar w d a b => Sys2Proof.Machine.execSar w d a b s
  | .rol w d a b => Sys2Proof.Machine.execRol w d a b s
  | .min w d a b => Sys2Proof.Machine.execMin w d a b s
  | .max w d a b => Sys2Proof.Machine.execMax w d a b s
  | .minu w d a b => Sys2Proof.Machine.execMinu w d a b s
  | .maxu w d a b => Sys2Proof.Machine.execMaxu w d a b s
  | .addw w d a b => Sys2Proof.Machine.execAddw w d a b s
  | .subw w d a b => Sys2Proof.Machine.execSubw w d a b s
  | .addi w d a imm => Sys2Proof.Machine.execAddi w d a imm s
  | .andi w d a imm => Sys2Proof.Machine.execAndi w d a imm s
  | .ori w d a imm => Sys2Proof.Machine.execOri w d a imm s
  | .xori w d a imm => Sys2Proof.Machine.execXori w d a imm s
  | .shli w d a amt => Sys2Proof.Machine.execShli w d a amt s
  | .shri w d a amt => Sys2Proof.Machine.execShri w d a amt s
  | .sari w d a amt => Sys2Proof.Machine.execSari w d a amt s
  | .mul w d a b => Sys2Proof.Machine.execMul w d a b s
  | .mulh w d a b => Sys2Proof.Machine.execMulh w d a b s
  | .mulhu w d a b => Sys2Proof.Machine.execMulhu w d a b s
  | .mulw w d a b => Sys2Proof.Machine.execMulw w d a b s
  | .div w d a b => Sys2Proof.Machine.execDiv w d a b s
  | .divu w d a b => Sys2Proof.Machine.execDivu w d a b s
  | .rem w d a b => Sys2Proof.Machine.execRem w d a b s
  | .remu w d a b => Sys2Proof.Machine.execRemu w d a b s
  | .clz w d a => Sys2Proof.Machine.execClz w d a s
  | .ctz w d a => Sys2Proof.Machine.execCtz w d a s
  | .popc w d a => Sys2Proof.Machine.execPopc w d a s
  | .brev w d a => Sys2Proof.Machine.execBrev w d a s
  | .bswap w d a => Sys2Proof.Machine.execBswap w d a s
  | .sextb w d a => Sys2Proof.Machine.execSextb w d a s
  | .sexth w d a => Sys2Proof.Machine.execSexth w d a s
  | .sextw w d a => Sys2Proof.Machine.execSextw w d a s
  | .zextb w d a => Sys2Proof.Machine.execZextb w d a s
  | .zexth w d a => Sys2Proof.Machine.execZexth w d a s
  | .zextw w d a => Sys2Proof.Machine.execZextw w d a s
  | .movi w d imm => Sys2Proof.Machine.execMovi w d imm s
  | .lea w d a b sh => Sys2Proof.Machine.execLea w d a b sh s
  | .cmp w c p a b => Sys2Proof.Machine.execCmp w c p a b s
  | .cmpi w c p a imm => Sys2Proof.Machine.execCmpi w c p a imm s
  | .sel w d p a b => Sys2Proof.Machine.execSel w d p a b s
  | .pand w d a b => Sys2Proof.Machine.execPand w d a b s
  | .por w d a b => Sys2Proof.Machine.execPor w d a b s
  | .pxor w d a b => Sys2Proof.Machine.execPxor w d a b s
  | .pandn w d a b => Sys2Proof.Machine.execPandn w d a b s
  | .pnot w d a => Sys2Proof.Machine.execPnot w d a s
  | .pmov w d a => Sys2Proof.Machine.execPmov w d a s
  | .ldb w d a imm => Sys2Proof.Machine.execLdb w d a imm s
  | .ldbu w d a imm => Sys2Proof.Machine.execLdbu w d a imm s
  | .ldh w d a imm => Sys2Proof.Machine.execLdh w d a imm s
  | .ldhu w d a imm => Sys2Proof.Machine.execLdhu w d a imm s
  | .ldw w d a imm => Sys2Proof.Machine.execLdw w d a imm s
  | .ldwu w d a imm => Sys2Proof.Machine.execLdwu w d a imm s
  | .ldd w d a imm => Sys2Proof.Machine.execLdd w d a imm s
  | .stb w d a imm => Sys2Proof.Machine.execStb w d a imm s
  | .sth w d a imm => Sys2Proof.Machine.execSth w d a imm s
  | .stw w d a imm => Sys2Proof.Machine.execStw w d a imm s
  | .std w d a imm => Sys2Proof.Machine.execStd w d a imm s
  | .lda w z c d a => Sys2Proof.Machine.execLda w z c d a s
  | .stl w z c d a => Sys2Proof.Machine.execStl w z c d a s
  | .amo w o d a b => Sys2Proof.Machine.execAmo w o d a b s
  | .cas w dbl d a b => Sys2Proof.Machine.execCas w dbl d a b s
  | .fence w k c => Sys2Proof.Machine.execFence w k c s
  | .send w a b n => Sys2Proof.Machine.execSend w a b n s
  | .hdef w a b => Sys2Proof.Machine.execHdef w a b s
  | .hen w a => Sys2Proof.Machine.execHen w a s
  | .hdis w a => Sys2Proof.Machine.execHdis w a s
  | .hsetp w a => Sys2Proof.Machine.execHsetp w a s
  | .hclrp w a => Sys2Proof.Machine.execHclrp w a s
  | .spawn w a => Sys2Proof.Machine.execSpawn w a s
  | .tdec w a => Sys2Proof.Machine.execTdec w a s
  | .wfm w d a => Sys2Proof.Machine.execWfm w d a s
  | .bar w a => Sys2Proof.Machine.execBar w a s
  | .bara w a => Sys2Proof.Machine.execBara w a s
  | .barw w a => Sys2Proof.Machine.execBarw w a s
  | .jmpr w a => Sys2Proof.Machine.execJmpr w a s
  | .jmprCall w a => Sys2Proof.Machine.execJmprCall w a s
  | .tgt w imm => Sys2Proof.Machine.execTgt w imm s
  | .lps w a => Sys2Proof.Machine.execLps w a s
  | .lpsi w imm => Sys2Proof.Machine.execLpsi w imm s
  | .disb w => Sys2Proof.Machine.execDisb w s
  | .gang2 w => Sys2Proof.Machine.execGang2 w s
  | .gang4 w => Sys2Proof.Machine.execGang4 w s
  | .gang8 w => Sys2Proof.Machine.execGang8 w s
  | .rejn w => Sys2Proof.Machine.execRejn w s
  | .movrGf w d a => Sys2Proof.Machine.execMovrGf w d a s
  | .movrFg w d a => Sys2Proof.Machine.execMovrFg w d a s
  | .movrGp w a => Sys2Proof.Machine.execMovrGp w a s
  | .movrPg w d => Sys2Proof.Machine.execMovrPg w d s
  | .srd w d csr => Sys2Proof.Machine.execSrd w d csr s
  | .swr w d csr => Sys2Proof.Machine.execSwr w d csr s
  | .ssb w d csr => Sys2Proof.Machine.execSsb w d csr s
  | .scb w d csr => Sys2Proof.Machine.execScb w d csr s
  | .cmit w => Sys2Proof.Machine.execCmit w s
  | .mver w => Sys2Proof.Machine.execMver w s
  | .gpub w => Sys2Proof.Machine.execGpub w s
  | .grev w => Sys2Proof.Machine.execGrev w s
  | .spgd w => Sys2Proof.Machine.execSpgd w s
  | .brk w code => Sys2Proof.Machine.execBrk w code s
  | .fadd w dbl d a b => Sys2Proof.Machine.execFadd w dbl d a b s
  | .fsub w dbl d a b => Sys2Proof.Machine.execFsub w dbl d a b s
  | .fmul w dbl d a b => Sys2Proof.Machine.execFmul w dbl d a b s
  | .fdiv w dbl d a b => Sys2Proof.Machine.execFdiv w dbl d a b s
  | .fmin w dbl d a b => Sys2Proof.Machine.execFmin w dbl d a b s
  | .fmax w dbl d a b => Sys2Proof.Machine.execFmax w dbl d a b s
  | .fsqrt w dbl d a => Sys2Proof.Machine.execFsqrt w dbl d a s
  | .fma w dbl d a b => Sys2Proof.Machine.execFma w dbl d a b s
  | .fms w dbl d a b => Sys2Proof.Machine.execFms w dbl d a b s
  | .fnma w dbl d a b => Sys2Proof.Machine.execFnma w dbl d a b s
  | .fnms w dbl d a b => Sys2Proof.Machine.execFnms w dbl d a b s
  | .fcmp w dbl c p a b => Sys2Proof.Machine.execFcmp w dbl c p a b s
  | .fcvt w k d a => Sys2Proof.Machine.execFcvt w k d a s
  | .fcls w dbl d a => Sys2Proof.Machine.execFcls w dbl d a s
  | .fmv w dbl d a => Sys2Proof.Machine.execFmv w dbl d a s
  | .fneg w dbl d a => Sys2Proof.Machine.execFneg w dbl d a s
  | .fabs w dbl d a => Sys2Proof.Machine.execFabs w dbl d a s
  | .fcpys w dbl d a b => Sys2Proof.Machine.execFcpys w dbl d a b s
  | .tbld w slotB twos a => Sys2Proof.Machine.execTbld w slotB twos a s
  | .enc w t inf d a => Sys2Proof.Machine.execEnc w t inf d a s
  | .dec w t d a => Sys2Proof.Machine.execDec w t d a s
  | .scal w d a => Sys2Proof.Machine.execScal w d a s
  | .vadd w t d a b => Sys2Proof.Machine.execVadd w t d a b s
  | .vsub w t d a b => Sys2Proof.Machine.execVsub w t d a b s
  | .vmul w t d a b => Sys2Proof.Machine.execVmul w t d a b s
  | .vfma w t d a b => Sys2Proof.Machine.execVfma w t d a b s
  | .vmin w t d a b => Sys2Proof.Machine.execVmin w t d a b s
  | .vmax w t d a b => Sys2Proof.Machine.execVmax w t d a b s
  | .vand w t d a b => Sys2Proof.Machine.execVand w t d a b s
  | .vor w t d a b => Sys2Proof.Machine.execVor w t d a b s
  | .vxor w t d a b => Sys2Proof.Machine.execVxor w t d a b s
  | .vshl w t d a b => Sys2Proof.Machine.execVshl w t d a b s
  | .vshr w t d a b => Sys2Proof.Machine.execVshr w t d a b s
  | .vsar w t d a b => Sys2Proof.Machine.execVsar w t d a b s
  | .vcmp w t c m a b => Sys2Proof.Machine.execVcmp w t c m a b s
  | .vsel w t d a b => Sys2Proof.Machine.execVsel w t d a b s
  | .vcvt w dst src d a => Sys2Proof.Machine.execVcvt w dst src d a s
  | .vabs w t d a => Sys2Proof.Machine.execVabs w t d a s
  | .vneg w t d a => Sys2Proof.Machine.execVneg w t d a s
  | .vred w t o d a => Sys2Proof.Machine.execVred w t o d a s
  | .vbc w t d a => Sys2Proof.Machine.execVbc w t d a s
  | .vperm w t d a b => Sys2Proof.Machine.execVperm w t d a b s
  | .vsld w t d a b => Sys2Proof.Machine.execVsld w t d a b s
  | .vins w t d a b => Sys2Proof.Machine.execVins w t d a b s
  | .vext w t d a b => Sys2Proof.Machine.execVext w t d a b s
  | .vld w t d a => Sys2Proof.Machine.execVld w t d a s
  | .vst w t d a => Sys2Proof.Machine.execVst w t d a s
  | .vlds w t d a b => Sys2Proof.Machine.execVlds w t d a b s
  | .vsts w t d a b => Sys2Proof.Machine.execVsts w t d a b s
  | .vgth w t d a b => Sys2Proof.Machine.execVgth w t d a b s
  | .vsct w t d a b => Sys2Proof.Machine.execVsct w t d a b s
  | .vdotqq w t d a b => Sys2Proof.Machine.execVdotqq w t d a b s
  | .vdothh w d a b => Sys2Proof.Machine.execVdothh w d a b s
  | .vdotnn w t d a b => Sys2Proof.Machine.execVdotnn w t d a b s
  | .vtopk w t d a b => Sys2Proof.Machine.execVtopk w t d a b s
  | .venc w t inf d a => Sys2Proof.Machine.execVenc w t inf d a s
  | .vdec w t d a => Sys2Proof.Machine.execVdec w t d a s
  | .vsfu w fn d a => Sys2Proof.Machine.execVsfu w fn d a s
  | .strmOn w d a => Sys2Proof.Machine.execStrmOn w d a s
  | .strmOff w d => Sys2Proof.Machine.execStrmOff w d s
  | .vmsk w o d a b => Sys2Proof.Machine.execVmsk w o d a b s
  | .mmaqq w d a => Sys2Proof.Machine.execMmaqq w d a s
  | .mmahh w d a => Sys2Proof.Machine.execMmahh w d a s
  | .mmann w d a => Sys2Proof.Machine.execMmann w d a s
  | .mzero w a => Sys2Proof.Machine.execMzero w a s
  | .mwait w d a => Sys2Proof.Machine.execMwait w d a s
  | .mpoll w d a => Sys2Proof.Machine.execMpoll w d a s
  | .mtbl w pair a => Sys2Proof.Machine.execMtbl w pair a s
  | .mlsf w d a b => Sys2Proof.Machine.execMlsf w d a b s
  | .mst w d a b => Sys2Proof.Machine.execMst w d a b s
  | .copy w d a => Sys2Proof.Machine.execCopy w d a s
  | .cwait w d a => Sys2Proof.Machine.execCwait w d a s
  | .cpoll w d a => Sys2Proof.Machine.execCpoll w d a s
  | .bwait w st a => Sys2Proof.Machine.execBwait w st a s
  | .bset w st a => Sys2Proof.Machine.execBset w st a s
  | .bstat w d a => Sys2Proof.Machine.execBstat w d a s
  | .gcall w d a b => Sys2Proof.Machine.execGcall w d a b s
  | .gret w => Sys2Proof.Machine.execGret w s
  | .dsr w d a f => Sys2Proof.Machine.execDsr w d a f s
  | .cue w d a => Sys2Proof.Machine.execCue w d a s
  | .emit w a b => Sys2Proof.Machine.execEmit w a b s
  | .rng w d a b => Sys2Proof.Machine.execRng w d a b s
  | .hpost w a b => Sys2Proof.Machine.execHpost w a b s
  | .mret w => Sys2Proof.Machine.execMret w s
  | .invpg w a b => Sys2Proof.Machine.execInvpg w a b s
  | .keyld w a b => Sys2Proof.Machine.execKeyld w a b s
  | .keyz w a => Sys2Proof.Machine.execKeyz w a s
  | .ctxsv w a b => Sys2Proof.Machine.execCtxsv w a b s
  | .ctxld w a b => Sys2Proof.Machine.execCtxld w a b s
  | .halt w => Sys2Proof.Machine.execHalt w s
  | .hrel w a => Sys2Proof.Machine.execHrel w a s
  | .waitpQ rd => Sys2Proof.Machine.execWaitpQ rd s
  | .waitpGeu rd rs1 rs2 => Sys2Proof.Machine.execWaitpGeu rd rs1 rs2 s
  | .waitpNe rd rs1 rs2 => Sys2Proof.Machine.execWaitpNe rd rs1 rs2 s
  | .messageArrival n => Sys2Proof.Machine.execMessageArrival n s
  | .refusalArrival n => Sys2Proof.Machine.execRefusalArrival n s
  | .refusalRetry core => Sys2Proof.Machine.execRefusalRetry core s
  | .activationStart core => Sys2Proof.Machine.execActivationStart core s
  | .theftAttempt core => Sys2Proof.Machine.execTheftAttempt core s
  | .activationEnd core ctx => Sys2Proof.Machine.execActivationEnd core ctx s
  | .longResultReturn core ctx => Sys2Proof.Machine.execLongResultReturn core ctx s
  | .storeBufferDrain core ctx n => Sys2Proof.Machine.execStoreBufferDrain core ctx n s
  | .verificationResolve core ctx => Sys2Proof.Machine.execVerificationResolve core ctx s
  | .outboxSend core ctx => Sys2Proof.Machine.execOutboxSend core ctx s
  | .streamHalt core slot => Sys2Proof.Machine.execStreamHalt core slot s
  | .tdecHome n => Sys2Proof.Machine.execTdecHome n s
  | .fpEvent core ctx => Sys2Proof.Machine.execFpEvent core ctx s
  | .fpNoticeRetry core ctx => Sys2Proof.Machine.execFpNoticeRetry core ctx s
  | .fpResume core => Sys2Proof.Machine.execFpResume core s
  | .fpKill core => Sys2Proof.Machine.execFpKill core s
  | .mmodeEntry core => Sys2Proof.Machine.execMmodeEntry core s
  | .preemptionNotice core mask => Sys2Proof.Machine.execPreemptionNotice core mask s
  | .pmreqStop core mask => Sys2Proof.Machine.execPmreqStop core mask s
  | .safePointStop core ctx => Sys2Proof.Machine.execSafePointStop core ctx s
  | .forcedStop core => Sys2Proof.Machine.execForcedStop core s
  | .pmreqFree core mask => Sys2Proof.Machine.execPmreqFree core mask s
  | .budgetExhausted core => Sys2Proof.Machine.execBudgetExhausted core s
  | .budgetWindowStart region => Sys2Proof.Machine.execBudgetWindowStart region s
  | .chargeFold region => Sys2Proof.Machine.execChargeFold region s
  | .ceilingExpiry core ctx => Sys2Proof.Machine.execCeilingExpiry core ctx s
  | .rollback core ctx persist => Sys2Proof.Machine.execRollback core ctx persist s
  | .patrolScrub pa o => Sys2Proof.Machine.execPatrolScrub pa o s
  | .matrixJobStart troupe => Sys2Proof.Machine.execMatrixJobStart troupe s
  | .rowGroupCommit troupe mismatches => Sys2Proof.Machine.execRowGroupCommit troupe mismatches s
  | .mzeroEntryRun troupe => Sys2Proof.Machine.execMzeroEntryRun troupe s
  | .mtblEntryRun troupe => Sys2Proof.Machine.execMtblEntryRun troupe s
  | .mstEntryRun troupe => Sys2Proof.Machine.execMstEntryRun troupe s
  | .completionRetry troupe => Sys2Proof.Machine.execCompletionRetry troupe s
  | .enginePageFault troupe copySide => Sys2Proof.Machine.execEnginePageFault troupe copySide s
  | .faultRewalk troupe copySide => Sys2Proof.Machine.execFaultRewalk troupe copySide s
  | .faultTimeout troupe copySide => Sys2Proof.Machine.execFaultTimeout troupe copySide s
  | .faultNoticeRetry troupe copySide => Sys2Proof.Machine.execFaultNoticeRetry troupe copySide s
  | .copyJobStart troupe => Sys2Proof.Machine.execCopyJobStart troupe s
  | .copyJobRetire troupe link => Sys2Proof.Machine.execCopyJobRetire troupe link s
  | .streamStripFetch core ctx reg => Sys2Proof.Machine.execStreamStripFetch core ctx reg s
  | .pageWalk core tag va => Sys2Proof.Machine.execPageWalk core tag va s
  | .shootdownGo cluster writer w => Sys2Proof.Machine.execShootdownGo cluster writer w s
  | .shootdownComplete cluster => Sys2Proof.Machine.execShootdownComplete cluster s
  | .cueFlitSend die slot => Sys2Proof.Machine.execCueFlitSend die slot s
  | .cueAck die slot endpoint m => Sys2Proof.Machine.execCueAck die slot endpoint m s
  | .cueFlitResend die slot => Sys2Proof.Machine.execCueFlitResend die slot s
  | .queueDoorbell q tail => Sys2Proof.Machine.execQueueDoorbell q tail s
  | .queueRun q => Sys2Proof.Machine.execQueueRun q s
  | .packetFetch die q => Sys2Proof.Machine.execPacketFetch die q s
  | .launch die q => Sys2Proof.Machine.execLaunch die q s
  | .launchRetry die => Sys2Proof.Machine.execLaunchRetry die s
  | .launchShareComplete die n => Sys2Proof.Machine.execLaunchShareComplete die n s
  | .cond die q => Sys2Proof.Machine.execCond die q s
  | .wait die q => Sys2Proof.Machine.execWait die q s
  | .waitConditionMet die q => Sys2Proof.Machine.execWaitConditionMet die q s
  | .signal die q => Sys2Proof.Machine.execSignal die q s
  | .queueFence die q => Sys2Proof.Machine.execQueueFence die q s
  | .queueFenceComplete die q => Sys2Proof.Machine.execQueueFenceComplete die q s
  | .copyHost die q links => Sys2Proof.Machine.execCopyHost die q links s
  | .regionCreate die q => Sys2Proof.Machine.execRegionCreate die q s
  | .regionKill die q => Sys2Proof.Machine.execRegionKill die q s
  | .domainCreate die q tag => Sys2Proof.Machine.execDomainCreate die q tag s
  | .measure die q => Sys2Proof.Machine.execMeasure die q s
  | .lock die q => Sys2Proof.Machine.execLock die q s
  | .start die q => Sys2Proof.Machine.execStart die q s
  | .attest die q => Sys2Proof.Machine.execAttest die q s
  | .teardown die q => Sys2Proof.Machine.execTeardown die q s
  | .scrubPhaseDone part => Sys2Proof.Machine.execScrubPhaseDone part s
  | .register die q => Sys2Proof.Machine.execRegister die q s
  | .reassign die q => Sys2Proof.Machine.execReassign die q s
  | .trunc die q => Sys2Proof.Machine.execTrunc die q s
  | .checkpoint die q => Sys2Proof.Machine.execCheckpoint die q s
  | .checkpointQueueTimeout => Sys2Proof.Machine.execCheckpointQueueTimeout s
  | .checkpointManifestAck accepted => Sys2Proof.Machine.execCheckpointManifestAck accepted s
  | .summary die q => Sys2Proof.Machine.execSummary die q s
  | .peerCopy die q => Sys2Proof.Machine.execPeerCopy die q s
  | .assign die q => Sys2Proof.Machine.execAssign die q s
  | .setReplay die q => Sys2Proof.Machine.execSetReplay die q s
  | .clearReplay die q => Sys2Proof.Machine.execClearReplay die q s
  | .completionHeadWrite q head => Sys2Proof.Machine.execCompletionHeadWrite q head s
  | .vectorFire fn v => Sys2Proof.Machine.execVectorFire fn v s
  | .hostMemAccess fn pa write len => Sys2Proof.Machine.execHostMemAccess fn pa write len s
  | .flitReceive link seq ack head crcOk => Sys2Proof.Machine.execFlitReceive link seq ack head crcOk s
  | .linkDown link => Sys2Proof.Machine.execLinkDown link s
  | .peerWrite link tag off data => Sys2Proof.Machine.execPeerWrite link tag off data s
  | .peerRead link tag off len => Sys2Proof.Machine.execPeerRead link tag off len s
  | .readData link tag data => Sys2Proof.Machine.execReadData link tag data s
  | .durableAck link tag => Sys2Proof.Machine.execDurableAck link tag s
  | .linkStepGo link => Sys2Proof.Machine.execLinkStepGo link s
  | .linkStepDone link pass peer profiles => Sys2Proof.Machine.execLinkStepDone link pass peer profiles s
  | .linkTrainRetry link => Sys2Proof.Machine.execLinkTrainRetry link s
  | .linkDisable link on => Sys2Proof.Machine.execLinkDisable link on s
  | .coldStart => Sys2Proof.Machine.execColdStart s
  | .warmPackageReset => Sys2Proof.Machine.execWarmPackageReset s
  | .functionLevelReset part => Sys2Proof.Machine.execFunctionLevelReset part s
  | .railFault => Sys2Proof.Machine.execRailFault s
  | .bootRecoveryGo signed => Sys2Proof.Machine.execBootRecoveryGo signed s
  | .hbmStepGo stack step => Sys2Proof.Machine.execHbmStepGo stack step s
  | .hbmStepDone stack pass data => Sys2Proof.Machine.execHbmStepDone stack pass data s
  | .hbmRetrain stack channel => Sys2Proof.Machine.execHbmRetrain stack channel s
  | .troupeAdmission die => Sys2Proof.Machine.execTroupeAdmission die s
  | .troupeIdle troupe => Sys2Proof.Machine.execTroupeIdle troupe s
  | .throttleUpdate avgw => Sys2Proof.Machine.execThrottleUpdate avgw s
  | .clusterGateWrite die w => Sys2Proof.Machine.execClusterGateWrite die w s
  | .clusterWake cluster => Sys2Proof.Machine.execClusterWake cluster s
  | .windowEnableWrite core k w => Sys2Proof.Machine.execWindowEnableWrite core k w s
  | .windowBoundWrite core k limit w => Sys2Proof.Machine.execWindowBoundWrite core k limit w s
  | .errorInjectArm core w => Sys2Proof.Machine.execErrorInjectArm core w s
  | .registerWrite r w => Sys2Proof.Machine.execRegisterWrite r w s
  | .illegalInstruction cause tval => Sys2Proof.Machine.execIllegalInstruction cause tval s
  | .fetchFault cause addr => Sys2Proof.Machine.execFetchFault cause addr s
  | .mcall w n => Sys2Proof.Machine.execMcall w n s
  | .vectorUnmask fn v => Sys2Proof.Machine.execVectorUnmask fn v s
  | .clusterSupplySettled cluster => Sys2Proof.Machine.execClusterSupplySettled cluster s
  | .memoryClearComplete => Sys2Proof.Machine.execMemoryClearComplete s

end Sys2Proof.Machine
end

