-- ==== Sys2Proof/Machine/Riscv.lean ====
section
/-!
DEFINITION. The RV64IMAC, Zicsr and Zifencei words of a stage-manager hart, in M mode only (R330). The spec names the
architecture and does not give it: all of this file follows the RISC-V manuals (log 119).
-/

namespace Sys2Proof.Machine

/-! ### Fields of a word -/

def rvFld (w : BitVec 32) (p n : Nat) : Nat := (w.extractLsb' p n).toNat
def rvReg (w : BitVec 32) (p : Nat) : Fin 32 := ⟨(w.extractLsb' p 5).toNat, (w.extractLsb' p 5).isLt⟩

def rvImmI (w : BitVec 32) : Word := (w.extractLsb' 20 12).signExtend 64
def rvImmS (w : BitVec 32) : Word := (w.extractLsb' 25 7 ++ w.extractLsb' 7 5).signExtend 64
def rvImmB (w : BitVec 32) : Word :=
  (w.extractLsb' 31 1 ++ w.extractLsb' 7 1 ++ w.extractLsb' 25 6 ++ w.extractLsb' 8 4 ++ (0 : BitVec 1)).signExtend 64
def rvImmU (w : BitVec 32) : Word := (w.extractLsb' 12 20 ++ (0 : BitVec 12)).signExtend 64
def rvImmJ (w : BitVec 32) : Word :=
  (w.extractLsb' 31 1 ++ w.extractLsb' 12 8 ++ w.extractLsb' 20 1 ++ w.extractLsb' 21 10 ++ (0 : BitVec 1)).signExtend 64

/-! ### Arithmetic -/

/-- OP and OP-IMM; `alt` is SUB or SRA. -/
def rvAlu (f3 : Nat) (alt : Bool) (a b : Word) : Word :=
  match f3 with
  | 0 => if alt then a - b else a + b
  | 1 => a <<< (b.toNat % 64)
  | 2 => if a.toInt < b.toInt then 1 else 0
  | 3 => if a.toNat < b.toNat then 1 else 0
  | 4 => a ^^^ b
  | 5 => if alt then a.sshiftRight (b.toNat % 64) else a >>> (b.toNat % 64)
  | 6 => a ||| b
  | _ => a &&& b

/-- OP-32 and OP-IMM-32; none where there is no such operation. -/
def rvAluW (f3 : Nat) (alt : Bool) (a b : Word) : Option Word :=
  let (x, y) : BitVec 32 × BitVec 32 := (a.setWidth 32, b.setWidth 32)
  let r : Option (BitVec 32) := match f3 with
    | 0 => some (if alt then x - y else x + y)
    | 1 => some (x <<< (y.toNat % 32))
    | 5 => some (if alt then x.sshiftRight (y.toNat % 32) else x >>> (y.toNat % 32))
    | _ => none
  r.map (·.signExtend 64)

/-- The quotient or remainder of a width: by zero all ones or the dividend; the overflow wraps. -/
def rvDiv {n : Nat} (f3 : Nat) (a b : BitVec n) : BitVec n :=
  match f3 with
  | 4 => if b = 0 then BitVec.allOnes n else BitVec.ofInt n (a.toInt.tdiv b.toInt)
  | 5 => if b = 0 then BitVec.allOnes n else a / b
  | 6 => if b = 0 then a else BitVec.ofInt n (a.toInt.tmod b.toInt)
  | _ => if b = 0 then a else a % b

/-- The M extension on double words. -/
def rvMul (f3 : Nat) (a b : Word) : Word :=
  match f3 with
  | 0 => a * b
  | 1 => BitVec.ofInt 64 (a.toInt * b.toInt / 2 ^ 64)
  | 2 => BitVec.ofInt 64 (a.toInt * (b.toNat : Int) / 2 ^ 64)
  | 3 => BitVec.ofNat 64 (a.toNat * b.toNat / 2 ^ 64)
  | n => rvDiv n a b

/-- The M extension on words. -/
def rvMulW (f3 : Nat) (a b : Word) : Option Word :=
  let (x, y) : BitVec 32 × BitVec 32 := (a.setWidth 32, b.setWidth 32)
  if f3 = 0 then some ((x * y).signExtend 64)
  else if 4 ≤ f3 then some ((rvDiv f3 x y).signExtend 64)
  else none

def rvBranch (f3 : Nat) (a b : Word) : Option Bool :=
  match f3 with
  | 0 => some (a = b)
  | 1 => some (a ≠ b)
  | 4 => some (a.toInt < b.toInt)
  | 5 => some (b.toInt ≤ a.toInt)
  | 6 => some (a.toNat < b.toNat)
  | 7 => some (b.toNat ≤ a.toNat)
  | _ => none

/-- What an atomic stores, by its function code. -/
def rvAmo {n : Nat} (f5 : Nat) (old x : BitVec n) : Option (BitVec n) :=
  match f5 with
  | 0x00 => some (old + x)
  | 0x01 => some x
  | 0x04 => some (old ^^^ x)
  | 0x08 => some (old ||| x)
  | 0x0C => some (old &&& x)
  | 0x10 => some (if old.toInt < x.toInt then old else x)
  | 0x14 => some (if old.toInt < x.toInt then x else old)
  | 0x18 => some (if old.toNat < x.toNat then old else x)
  | 0x1C => some (if old.toNat < x.toNat then x else old)
  | _ => none

/-! ### The hart's steps -/

/-- The trap of a word that is none: mtval is free (log 55). -/
def State.hartIllegal (s : State) : State := { s.hartTrap 2 (Config.freeWord s.fresh) with fresh := s.fresh + 1 }

/-- Writes rd and goes on at an address. -/
def State.hartGo (s : State) (rd : Fin 32) (v pc : Word) : State :=
  s.updHart (fun t => { t with x := if rd = 0 then t.x else t.x.set rd v, pc := pc, instret := t.instret + 1 })

/-- A store of a hart; none where nothing answers. A register is written by a whole double word. -/
def State.hartWrite (s : State) (a : Nat) (bs : List Byte) : Option State :=
  if a + bs.length ≤ sramSize then
    some (s.updDie s.turn.hartDie (fun d => { d with sram := d.sram.writeL a bs }))
  else if hartPhys ≤ a then
    let pa := a - hartPhys
    match homeOf pa with
    | .none => none
    | .dev =>
      if bs.length ≠ 8 then some s
      else match blockOf pa with
      | some c => some (s.updCluster c (fun x => x.blockWrite (s.blockAgent .monitor) (pa % 0x1000) (leWord bs)))
      | none => some (s.devWrite pa (leWord bs))
    | _ => some (s.writePhys pa bs none)
  else none

/-- A CSR of a hart. -/
def State.hartCsr (s : State) (n : Nat) : Option Word :=
  let t := s.hart
  match n with
  | 0x300 => some (0x1800 ||| atB t.mie 3 ||| atB t.mpie 7)
  | 0x301 => some 0x8000000000001105
  | 0x304 => some 0
  | 0x305 => some t.mtvec
  | 0x306 => some 0
  | 0x310 => some 0
  | 0x320 => some 0
  | 0x340 => some t.mscratch
  | 0x341 => some t.mepc
  | 0x342 => some t.mcause
  | 0x343 => some t.mtval
  | 0x344 => some 0
  | 0xB00 => some (BitVec.ofNat 64 s.clock + t.cycles)
  | 0xB02 => some t.instret
  | 0xC00 => some (BitVec.ofNat 64 s.clock + t.cycles)
  | 0xC01 => some (BitVec.ofNat 64 s.clock)
  | 0xC02 => some t.instret
  | 0xF11 => some 0
  | 0xF12 => some 0
  | 0xF13 => some 0
  | 0xF14 => some (BitVec.ofNat 64 (32 * s.turn.hartDie.val + s.turn.hart.val))
  | 0xF15 => some 0
  | _ => none

/-- A write of a CSR of a hart; the fields that are fixed keep their values. -/
def State.hartCsrWrite (s : State) (n : Nat) (w : Word) : State :=
  s.updHart (fun t =>
    match n with
    | 0x300 => { t with mie := bit w 3, mpie := bit w 7 }
    | 0x305 => { t with mtvec := w &&& ~~~2#64 }
    | 0x340 => { t with mscratch := w }
    | 0x341 => { t with mepc := w &&& ~~~1#64 }
    | 0x342 => { t with mcause := w }
    | 0x343 => { t with mtval := w }
    | 0xB00 => { t with cycles := w - BitVec.ofNat 64 s.clock }
    | 0xB02 => { t with instret := w }
    | _ => t)

/-- A Zicsr instruction: the source is rs1 or its number; a set or clear of nothing does not write. -/
def State.hartZicsr (s : State) (w : BitVec 32) (next : Word) : State :=
  let f3 := rvFld w 12 3
  let n := rvFld w 20 12
  let rd := rvReg w 7
  let r1 := rvReg w 15
  let x : Word := if 4 ≤ f3 then BitVec.ofNat 64 r1.val else s.x r1
  let writes := f3 % 4 = 1 || r1 ≠ 0
  match s.hartCsr n with
  | none => s.hartIllegal
  | some old =>
    if writes && n / 1024 = 3 then s.hartIllegal
    else
      let t := s.hartGo rd old next
      if !writes then t
      else t.hartCsrWrite n (match f3 % 4 with | 1 => x | 2 => old ||| x | _ => old &&& ~~~x)

/-- A load: sign- or zero-extended; misaligned and failing ones trap. -/
def State.hartLoad (s : State) (w : BitVec 32) (next : Word) : State :=
  let f3 := rvFld w 12 3
  let n := 2 ^ (f3 % 4)
  let a := s.x (rvReg w 15) + rvImmI w
  if f3 = 7 then s.hartIllegal
  else if a.toNat % n ≠ 0 then s.hartTrap 4 a
  else match s.hartRead a.toNat n with
  | none => s.hartTrap 5 a
  | some bs => s.hartGo (rvReg w 7) (if 4 ≤ f3 then leWord bs else sext (leWord bs) (8 * n)) next

def State.hartStore (s : State) (w : BitVec 32) (next : Word) : State :=
  let f3 := rvFld w 12 3
  let n := 2 ^ (f3 % 4)
  let a := s.x (rvReg w 15) + rvImmS w
  if 4 ≤ f3 then s.hartIllegal
  else if a.toNat % n ≠ 0 then s.hartTrap 6 a
  else match s.hartWrite a.toNat (leBytes n (s.x (rvReg w 20)).toNat) with
  | none => s.hartTrap 7 a
  | some t => t.hartGo 0 0 next

/-- LR, SC and the atomics of n bytes. SC stores where the location still holds what its LR read (log 119). -/
def State.hartAtomic (s : State) (w : BitVec 32) (next : Word) : State :=
  let f3 := rvFld w 12 3
  let f5 := rvFld w 27 5
  let n := 2 ^ f3
  let a := s.x (rvReg w 15)
  let x := s.x (rvReg w 20)
  let rd := rvReg w 7
  if f3 ≠ 2 && f3 ≠ 3 then s.hartIllegal
  else if f5 = 2 && rvReg w 20 ≠ 0 then s.hartIllegal
  else if a.toNat % n ≠ 0 then s.hartTrap (if f5 = 2 then 4 else 6) a
  else match s.hartRead a.toNat n with
  | none => s.hartTrap (if f5 = 2 then 5 else 7) a
  | some bs =>
    let old := sext (leWord bs) (8 * n)
    match f5 with
    | 2 => (s.updHart (fun t => { t with reserved := some (a.toNat, bs) })).hartGo rd old next
    | 3 =>
      let t := s.updHart (fun t => { t with reserved := none })
      if s.hart.reserved = some (a.toNat, bs) then
        match t.hartWrite a.toNat (leBytes n x.toNat) with
        | some t => t.hartGo rd 0 next
        | none => s.hartTrap 7 a
      else t.hartGo rd 1 next
    | _ =>
      let new : Option Word := if n = 4 then (rvAmo f5 (old.setWidth 32) (x.setWidth 32)).map (·.setWidth 64) else rvAmo f5 old x
      match new with
      | none => s.hartIllegal
      | some v =>
        match s.hartWrite a.toNat (leBytes n v.toNat) with
        | some t => t.hartGo rd old next
        | none => s.hartTrap 7 a

/-- ECALL, EBREAK, MRET and WFI; a hart takes no interrupt, and its WFI does nothing. -/
def State.hartSystem (s : State) (w : BitVec 32) (next : Word) : State :=
  if rvFld w 12 3 ≠ 0 then (if rvFld w 12 3 = 4 then s.hartIllegal else s.hartZicsr w next)
  else if rvFld w 7 13 ≠ 0 then s.hartIllegal
  else match rvFld w 20 12 with
  | 0x000 => s.hartTrap 11 0
  | 0x001 => s.hartTrap 3 s.hart.pc
  | 0x302 => s.updHart (fun t => { t with pc := t.mepc, mie := t.mpie, mpie := true, instret := t.instret + 1 })
  | 0x105 => s.hartGo 0 0 next
  | _ => s.hartIllegal

/-- A 32-bit word of the hart, or what a compressed one stands for; `next` is the address behind it. -/
def State.hartWord (s : State) (w : BitVec 32) (next : Word) : State :=
  let pc := s.hart.pc
  let rd := rvReg w 7
  let a := s.x (rvReg w 15)
  let b := s.x (rvReg w 20)
  let f3 := rvFld w 12 3
  let f7 := rvFld w 25 7
  let put (v : Option Word) : State := match v with | some v => s.hartGo rd v next | none => s.hartIllegal
  match rvFld w 0 7 with
  | 0x37 => s.hartGo rd (rvImmU w) next
  | 0x17 => s.hartGo rd (pc + rvImmU w) next
  | 0x6F => s.hartGo rd next (pc + rvImmJ w)
  | 0x67 => if f3 = 0 then s.hartGo rd next ((a + rvImmI w) &&& ~~~1#64) else s.hartIllegal
  | 0x63 =>
    match rvBranch f3 a b with
    | some t => s.hartGo 0 0 (if t then pc + rvImmB w else next)
    | none => s.hartIllegal
  | 0x03 => s.hartLoad w next
  | 0x23 => s.hartStore w next
  | 0x13 =>
    if f3 = 1 && rvFld w 26 6 ≠ 0 || f3 = 5 && rvFld w 26 6 ≠ 0 && rvFld w 26 6 ≠ 16 then s.hartIllegal
    else put (some (rvAlu f3 (f3 = 5 && bit (w.setWidth 64) 30) a (rvImmI w)))
  | 0x1B =>
    if f3 = 1 && f7 ≠ 0 || f3 = 5 && f7 ≠ 0 && f7 ≠ 0x20 then s.hartIllegal
    else put (rvAluW f3 (f3 = 5 && f7 = 0x20) a (rvImmI w))
  | 0x33 =>
    if f7 = 1 then put (some (rvMul f3 a b))
    else if f7 = 0 || (f7 = 0x20 && (f3 = 0 || f3 = 5)) then put (some (rvAlu f3 (f7 = 0x20) a b))
    else s.hartIllegal
  | 0x3B =>
    if f7 = 1 then put (rvMulW f3 a b)
    else if f7 = 0 || (f7 = 0x20 && (f3 = 0 || f3 = 5)) then put (rvAluW f3 (f7 = 0x20) a b)
    else s.hartIllegal
  | 0x2F => s.hartAtomic w next
  | 0x0F => if f3 ≤ 1 then s.hartGo 0 0 next else s.hartIllegal
  | 0x73 => s.hartSystem w next
  | _ => s.hartIllegal

/-! ### Compressed words -/

def rvI (op f3 rd rs1 imm : Nat) : BitVec 32 :=
  BitVec.ofNat 32 (op + 2 ^ 7 * rd + 2 ^ 12 * f3 + 2 ^ 15 * rs1 + 2 ^ 20 * (imm % 4096))
def rvR (op f3 f7 rd rs1 rs2 : Nat) : BitVec 32 :=
  BitVec.ofNat 32 (op + 2 ^ 7 * rd + 2 ^ 12 * f3 + 2 ^ 15 * rs1 + 2 ^ 20 * rs2 + 2 ^ 25 * f7)
def rvS (f3 rs1 rs2 imm : Nat) : BitVec 32 :=
  BitVec.ofNat 32 (0x23 + 2 ^ 7 * (imm % 32) + 2 ^ 12 * f3 + 2 ^ 15 * rs1 + 2 ^ 20 * rs2 + 2 ^ 25 * (imm / 32 % 128))
def rvB (f3 rs1 imm : Nat) : BitVec 32 :=
  BitVec.ofNat 32 (0x63 + 2 ^ 7 * (imm / 2048 % 2) + 2 ^ 8 * (imm / 2 % 16) + 2 ^ 12 * f3 + 2 ^ 15 * rs1 +
    2 ^ 25 * (imm / 32 % 64) + 2 ^ 31 * (imm / 4096 % 2))
def rvJ (rd imm : Nat) : BitVec 32 :=
  BitVec.ofNat 32 (0x6F + 2 ^ 7 * rd + 2 ^ 12 * (imm / 4096 % 256) + 2 ^ 20 * (imm / 2048 % 2) + 2 ^ 21 * (imm / 2 % 1024) +
    2 ^ 31 * (imm / 2 ^ 20 % 2))

/-- The two's complement of an n-bit value at a wider width. -/
def rvWiden (n x w : Nat) : Nat := if x < 2 ^ (n - 1) then x else x + 2 ^ w - 2 ^ n

/-- The bits of a parcel: `l` names a bit of it and the bit of the value it gives. -/
def rvBits (c : BitVec 16) (l : List (Nat × Nat)) : Nat := (l.map (fun e => if c.getLsbD e.1 then 2 ^ e.2 else 0)).sum

/-- The word that a compressed parcel of quadrant 0 stands for. -/
def rvExpand0 (c : BitVec 16) : Option (BitVec 32) :=
  let rd := 8 + (c.extractLsb' 2 3).toNat
  let rs := 8 + (c.extractLsb' 7 3).toNat
  let w := rvBits c [(10, 3), (11, 4), (12, 5), (6, 2), (5, 6)]
  let d := rvBits c [(10, 3), (11, 4), (12, 5), (5, 6), (6, 7)]
  match (c.extractLsb' 13 3).toNat with
  | 0 =>
    let n := rvBits c [(11, 4), (12, 5), (7, 6), (8, 7), (9, 8), (10, 9), (6, 2), (5, 3)]
    if n = 0 then none else some (rvI 0x13 0 rd 2 n)
  | 2 => some (rvI 0x03 2 rd rs w)
  | 3 => some (rvI 0x03 3 rd rs d)
  | 6 => some (rvS 2 rs rd w)
  | 7 => some (rvS 3 rs rd d)
  | _ => none

/-- Quadrant 1. -/
def rvExpand1 (c : BitVec 16) : Option (BitVec 32) :=
  let rd := (c.extractLsb' 7 5).toNat
  let q := 8 + (c.extractLsb' 7 3).toNat
  let r2 := 8 + (c.extractLsb' 2 3).toNat
  let imm6 := rvBits c [(2, 0), (3, 1), (4, 2), (5, 3), (6, 4), (12, 5)]
  let imm := rvWiden 6 imm6 12
  let jump := rvWiden 12 (rvBits c [(3, 1), (4, 2), (5, 3), (11, 4), (2, 5), (7, 6), (6, 7), (9, 8), (10, 9), (8, 10), (12, 11)]) 21
  let br := rvWiden 9 (rvBits c [(3, 1), (4, 2), (10, 3), (11, 4), (2, 5), (5, 6), (6, 7), (12, 8)]) 13
  match (c.extractLsb' 13 3).toNat with
  | 0 => some (rvI 0x13 0 rd rd imm)
  | 1 => if rd = 0 then none else some (rvI 0x1B 0 rd rd imm)
  | 2 => some (rvI 0x13 0 rd 0 imm)
  | 3 =>
    if rd = 2 then
      let n := rvBits c [(6, 4), (2, 5), (5, 6), (3, 7), (4, 8), (12, 9)]
      if n = 0 then none else some (rvI 0x13 0 2 2 (rvWiden 10 n 12))
    else if imm6 = 0 then none
    else some (BitVec.ofNat 32 (0x37 + 2 ^ 7 * rd + 2 ^ 12 * (rvWiden 6 imm6 20)))
  | 4 =>
    match (c.extractLsb' 10 2).toNat with
    | 0 => some (rvI 0x13 5 q q imm6)
    | 1 => some (rvI 0x13 5 q q (imm6 + 0x400))
    | 2 => some (rvI 0x13 7 q q imm)
    | _ =>
      match c.getLsbD 12, (c.extractLsb' 5 2).toNat with
      | false, 0 => some (rvR 0x33 0 0x20 q q r2)
      | false, 1 => some (rvR 0x33 4 0 q q r2)
      | false, 2 => some (rvR 0x33 6 0 q q r2)
      | false, _ => some (rvR 0x33 7 0 q q r2)
      | true, 0 => some (rvR 0x3B 0 0x20 q q r2)
      | true, 1 => some (rvR 0x3B 0 0 q q r2)
      | true, _ => none
  | 5 => some (rvJ 0 jump)
  | 6 => some (rvB 0 q br)
  | _ => some (rvB 1 q br)

/-- Quadrant 2. -/
def rvExpand2 (c : BitVec 16) : Option (BitVec 32) :=
  let rd := (c.extractLsb' 7 5).toNat
  let r2 := (c.extractLsb' 2 5).toNat
  let sh := rvBits c [(2, 0), (3, 1), (4, 2), (5, 3), (6, 4), (12, 5)]
  match (c.extractLsb' 13 3).toNat with
  | 0 => some (rvI 0x13 1 rd rd sh)
  | 2 => if rd = 0 then none else some (rvI 0x03 2 rd 2 (rvBits c [(4, 2), (5, 3), (6, 4), (12, 5), (2, 6), (3, 7)]))
  | 3 => if rd = 0 then none else some (rvI 0x03 3 rd 2 (rvBits c [(5, 3), (6, 4), (12, 5), (2, 6), (3, 7), (4, 8)]))
  | 4 =>
    match c.getLsbD 12 with
    | false => if r2 ≠ 0 then some (rvR 0x33 0 0 rd 0 r2) else if rd = 0 then none else some (rvI 0x67 0 0 rd 0)
    | true => if r2 ≠ 0 then some (rvR 0x33 0 0 rd rd r2) else if rd = 0 then some 0x00100073 else some (rvI 0x67 0 1 rd 0)
  | 6 => some (rvS 2 2 r2 (rvBits c [(9, 2), (10, 3), (11, 4), (12, 5), (7, 6), (8, 7)]))
  | 7 => some (rvS 3 2 r2 (rvBits c [(10, 3), (11, 4), (12, 5), (7, 6), (8, 7), (9, 8)]))
  | _ => none

/-- The word a compressed parcel stands for; none where it is reserved, or of an extension the hart does not have. -/
def rvExpand (c : BitVec 16) : Option (BitVec 32) :=
  match (c.extractLsb' 0 2).toNat with
  | 0 => rvExpand0 c
  | 1 => rvExpand1 c
  | _ => rvExpand2 c

/-- The hart executes a parcel pair that is no WAITP. -/
def State.hartStep (s : State) (v : BitVec 32) : State :=
  let pc := s.hart.pc
  if v.extractLsb' 0 2 = (3 : BitVec 2) then s.hartWord v (pc + 4)
  else match rvExpand (v.setWidth 16) with
  | some w => s.hartWord w (pc + 2)
  | none => s.hartIllegal

end Sys2Proof.Machine
end

