-- ==== Sys2Proof/Machine/Switch.lean ====
section
/-!
DEFINITION. The domain switch of a core, the monitor's work on a core entry (R13, R275, R280).
-/

namespace Sys2Proof.Machine

/-- Where the monitor keeps the frame of a context of a domain that is not installed: memory of its own (log 110). -/
def frameList (c : CoreId) (t : Tag) (k : CtxId) : Nat := 2 ^ 52 + 147456 * (8 * (65536 * c.val + t.toNat) + k.val)

/-- The frames of a save moved to another address. -/
def State.moveFrames (s : State) (old new : Nat) : State :=
  let moved := s.frames.filter (fun e => e.2.base = old)
  let rest := s.frames.filter (fun e => e.2.base ≠ old)
  { s with frames := moved.foldl (fun l e => insert l (new + (e.1 - old)) { e.2 with base := new }) rest }

/-- The address of the frames that hold a SAVED context. -/
def State.savedAt (s : State) (c : CoreId) (k : CtxId) : Option Nat :=
  (s.frames.find? (fun e => e.2.core = c && e.2.ctx = k && e.2.live && !e.2.freed && e.2.level = 0)).map (·.2.base)

/-- A context can be saved as CTXSV saves it, or needs no save (R220). -/
def State.saveable (s : State) (c : CoreId) (k : CtxId) : Bool :=
  let x := s.ctx c (bank k)
  x.state = .dormant || x.state = .saved ||
    (!x.isDying && (x.halted || x.state = .held) && x.verifs = [] && !x.flagsOut && x.storeBuf.all (s.leaves x))

/-- A context of the domain that leaves: its frame goes into the domain's list. -/
def State.switchOut (s : State) (c : CoreId) (out : Tag) (k : CtxId) : State :=
  match (s.ctx c (bank k)).state with
  | .dormant => s
  | .saved => match s.savedAt c k with | some a => s.moveFrames a (frameList c out k) | none => s
  | _ => s.saveCtx c k (frameList c out k)

/-- A frame of the domain that comes: restored and released. R275 releases every context it restores, and a release of a HELD one
resumes it (R217), where R114 restores it as HELD: it is READY and its event is gone (DESIGN CHOICE; log 110). -/
def State.switchIn (s : State) (c : CoreId) (t : Tag) (k : CtxId) : State :=
  match lookup s.frames (frameList c t k) with
  | some f => if f.live then (s.loadCtx c k f.base).releaseCtx c k false else s
  | none => s

/-- A window of a plan is written into the first window not in force, as the monitor's writes of its three CSRs do (R281). -/
def Core.installWindow (q : Core) (w : Window) : Core :=
  match (List.finRange 16).find? (fun k => !q.windows[k].v) with
  | some k => ({ q with windows := q.windows.set k { Window.reset with base := w.base, limit := w.limit } } : Core).writeAttr k w.attr
  | none => q

/-- A core with the windows of a domain's plan, beside those it holds of other domains. -/
def Core.installPlan (q : Core) (t : Tag) (plan : List Window) : Core :=
  plan.foldl Core.installWindow { q with windows := q.windows.map (fun w => if w.dtag = t then .reset else w) }

/-- The entry of a stop request that names all eight contexts (R275). -/
def MEntry.stopsAll (e : MEntry) : Bool := e.core && e.cause = 0x15 && fld e.val 0 8 = 0xFF

/-- The switch of a core to a resident domain, on the entry of a request that names all eight contexts. The domain that leaves
keeps its per-domain state, and its acceptance shadow is written where it stays resident; no context stays halted, and the entry
then ends (R275, R280). -/
def State.switchDomain (s : State) (c : CoreId) (t : Tag) : State :=
  let q := s.core c
  let out := q.installed
  match q.mmode, s.domain? t with
  | some e, some d =>
    if !e.stopsAll || d.killed || t = out || !q.resident t || !(List.finRange 8).all (s.saveable c) then s
    else
      let s := (List.finRange 8).foldl (fun s k => s.switchOut c out k) s
      let s := (List.finRange 8).foldl (fun s k => s.updCtx c (bank k) (fun x => { x with halted := false, stopped := false }))
        (s.freeCtxs c (BitVec.allOnes 8))
      let s := if q.resident out then s.updDom c out (fun x => { x with shadow := true }) else s
      let s := (s.updDom c t (fun x => { x with shadow := false })).updCore c (fun q =>
        { q.installPlan t d.plan with installed := t, keysel := (q.slotOf t).getD q.keysel })
      let s := (List.finRange 8).foldl (fun s k => s.switchIn c t k) s
      s.updCore c Core.leave
  | _, _ => s

end Sys2Proof.Machine
end

