-- ==== Sys2Proof/Machine/Schedule.lean ====
section
/-!
DEFINITION. Who acts: a core's choice among its contexts, what a move does, the model's own order of moves where none is
given, and the placing of one instruction (R17, R152, R173, R263, R273, R330, R337, R370; log 1).
-/

namespace Sys2Proof.Machine

/-! ### Issuing -/

/-- The instruction a kept wait finishes (R370). -/
def Wait.instr? : Wait → Option Instr
  | .message i .. => some i
  | .phase i .. => some i
  | .job i _ => some i
  | .handle i .. => some i
  | .cue i .. => some i
  | _ => none

/-- The executing bank's instruction: the rest of a kept wait, the one forwarded to a follower, or the one fetched at pc, which a
gang leader forwards (R152). -/
def State.runBank (s : State) : Out :=
  let x := s.me
  match x.wait.bind Wait.instr? with
  | some i => exec i s
  | none =>
    match x.attached, x.queue with
    | true, f :: _ => exec f.instr (s.updRegs (fun r => { r with pc := f.addr }))
    | true, [] => .next s
    | false, _ =>
      match s.fetch with
      | .ok i => exec i (s.forwardFetched i)
      | .error e => settle s (.error e)

/-! ### Waits (R17, R370) -/

/-- Waits that another event ends. -/
def Context.waitsForEvent (x : Context) : Bool :=
  match x.wait with
  | some .ending => true
  | some .dying => true
  | some (.rejoin _) => true
  | _ => false

/-- A wait before the effect. -/
def Wait.again : Wait → Bool
  | .reissue _ => true
  | _ => false

/-- A bank whose condition is tested: it waits for something the machine can test again. -/
def Context.testable (x : Context) : Bool :=
  (x.state = .blocked && !x.waitsForEvent) || (x.state = .parked && (x.wait.map Wait.again).getD false)

/-- A WFM that waits takes the oldest waiting message of its channel, where no older WFM waits for it (R182). -/
def State.takeWaiting (s : State) (c : CoreId) (k : CtxId) : State :=
  match (s.ctx c (bank k)).wait with
  | some (.message i ch since none) =>
    let t := (s.ctx c (bank k)).regs.tag
    let mine (x : Item) : Bool := x.msg.chan = ch && x.msg.tag = t
    match (s.core c).inbox.find? mine, (s.wfms c t ch).any (fun w => w.1 < since) with
    | some x, false =>
      ((s.updCore c (fun q => { q with inbox := dropFirst mine q.inbox })).unpend c x.msg).updCtx c (bank k)
        (fun y => { y with wait := some (.message i ch since (some x.msg)) })
    | _, _ => s
  | _ => s

/-- The wait a bank is still in where its instruction is tried now: none where it goes on. -/
def State.stillWaits (s : State) (c : CoreId) (b : BankId) : Option Wait :=
  let x := s.ctx c b
  match ((s.updCtx c b (fun y => { y with state := .ready })).onBank c b).runBank with
  | .next t =>
    let y := t.ctx c b
    match x.wait, y.wait with
    | some w, some w' => if y.state = x.state && ((w.again && w'.again) || w = w') then some w' else none
    | _, _ => none
  | _ => none

/-- The condition a context waits for is tested: READY where it holds, with a kept wait until the instruction is done; else the
context stays as it is, in the wait that it is in now. -/
def State.wake (s : State) (c : CoreId) (k : CtxId) : State :=
  let x := s.ctx c (bank k)
  if !x.testable || x.halted || x.stopped || s.requested c k then s
  else
    let s := s.takeWaiting c k
    match s.stillWaits c (bank k) with
    | some w => s.updCtx c (bank k) (fun x => { x with wait := some w })
    | none => s.updCtx c (bank k) (fun x => { x with state := .ready })

/-! ### A core's choice (R17) -/

/-- An attached follower has a forwarded instruction it has not executed; a leader's followers have room for its next (R152). -/
def State.gangReady (s : State) (c : CoreId) (b : BankId) : Bool :=
  let x := s.ctx c b
  if x.attached then x.queue.head?.any (fun f => f.mine.isNone) else (s.onBank c b).queuesOpen

/-- A context that may issue: READY, neither halted nor stopped nor being halted, no enabled event and no entry to M mode pending,
not the one M mode serves, within its ceilings, and not asked to stop beyond the limit or at its start. -/
def State.ctxIssues (s : State) (c : CoreId) (k : CtxId) : Bool :=
  let x := s.ctx c (bank k)
  let q := s.core c
  x.state = .ready && !x.halted && !x.stopped && !q.halting && x.event.isNone && !q.entryFor k && q.served ≠ some k &&
    x.regs.expired.isNone && !(s.requested c k && (s.stopExpired c || s.newStart c k)) && s.gangReady c (bank k)

/-- The place of the M bank in the round-robin: that of the context it serves. A core entry serves none: the place is that of
`mstatus`.MCTX, or else of the first context, that may not issue; where all eight may, the M bank waits (R17, R35, R213, R273;
DESIGN CHOICE; log 125). -/
def State.mPlace (s : State) (c : CoreId) : Option CtxId :=
  (s.core c).mmode.bind (fun e =>
    if e.core then ((s.core c).mctx :: List.finRange 8).find? (fun k => !s.ctxIssues c k) else some (s.core c).mctx)

/-- The bank that stands at a context's place. -/
def State.bankAt (s : State) (c : CoreId) (k : CtxId) : BankId := if s.mPlace c = some k then mBank else bank k

/-- The bank issues; the M bank also where the condition of a wait of its own holds. -/
def State.bankIssues (s : State) (c : CoreId) (b : BankId) : Bool :=
  if h : b.val < 8 then s.ctxIssues c ⟨b.val, h⟩
  else (s.core c).mmode.isSome &&
    ((s.ctx c mBank).state = .ready || ((s.ctx c mBank).state = .blocked && (s.stillWaits c mBank).isNone))

/-- A core issues at all: stage 5, powered, not retired, not stopped by a monitor fault, its cluster not gated. -/
def State.coreIssues (s : State) (c : CoreId) : Bool :=
  s.up && !(s.core c).dead && !(s.core c).retired && !(s.cluster (clusterOf c)).gated && !(s.cluster (clusterOf c)).waking

/-- Round-robin by context number after the last to issue. -/
def State.nextPlace (s : State) (c : CoreId) : Option CtxId :=
  ((List.range 8).map (fun i => Fin.ofNat 8 ((s.core c).lastIssue.val + 1 + i))).find? (fun k => s.bankIssues c (s.bankAt c k))

/-- A requested context at a safe point stops there instead of issuing, or waits for its results (R273). -/
def State.stopsHere (s : State) (c : CoreId) (b : BankId) : Bool :=
  if h : b.val < 8 then s.requested c ⟨b.val, h⟩ && (s.atSafe c ⟨b.val, h⟩).isSome else false

/-- The bank issues, or stops at its safe point. -/
def State.issueBank (s : State) (c : CoreId) (b : BankId) : Out :=
  let s := s.onBank c b
  if (s.me.wait.bind Wait.instr?).isNone && s.stopsHere c b then .next (if h : b.val < 8 then s.safeStop c ⟨b.val, h⟩ else s)
  else s.runBank

def State.issue (s : State) (c : CoreId) : Out :=
  if !s.coreIssues c then .next s
  else match s.nextPlace c with
  | some k => (s.updCore c (fun q => { q with lastIssue := k })).issueBank c (s.bankAt c k)
  | none => .next s

/-! ### Clocks (R173, R203, R263) -/

/-- Adds clocks to a region's charges. -/
def charge (l : List (Nat × Nat)) (r : BitVec 32) (n : Nat) : List (Nat × Nat) := insert l r.toNat ((lookup l r.toNat).getD 0 + n)

/-- LEFT of every limited call counts down. -/
def Regs.countDown (r : Regs) (n : Nat) : Regs :=
  { r with dom := r.dom.map (fun (e : DomEntry) => if e.limited then { e with left := BitVec.ofNat 63 (e.left.toNat - n) } else e) }

def CtxState.charged : CtxState → Bool
  | .ready | .parked => true
  | _ => false

/-- The regions charged in a clock, once for each READY or PARKED context and running engine job. -/
def State.chargedRegions (s : State) : List (BitVec 32) :=
  (s.contextsIf (fun _ _ x => x.state.charged)).map (fun e => (s.ctx e.1 (bank e.2)).regs.region) ++
    (s.troupes.map (fun e =>
      (e.2.mat.filter (fun j => j.phase = .running)).map (fun j => j.owner.region) ++
        (e.2.copies.filter (fun j => j.phase = .running)).map (fun j => j.owner.region))).flatten

/-- What is due at a clock's start: an interval's admissions, and the update at a millisecond's end, with the power measured
where no move has given it (R347, R349; log 128). -/
def State.clockStarts (s : State) : State :=
  ((List.finRange 4).foldl (fun s d => s.admitDie d) s).throttleTo (Config.packagePower (s.clock / 940000))

/-- The clock has come to the end of pools' windows: their next windows begin (R263). -/
def State.openWindows (s : State) : State := s.regions.foldl (fun s e => s.openWindow (BitVec.ofNat 32 e.1)) s

/-- A clock passes: what is due at its start is done; READY and PARKED contexts and running engine jobs are charged, limited calls
run down, matrix jobs issue under the governor; every 4,096 clocks all charges are folded; then pools' windows that end there
give way to the next. -/
def State.clockOnce (s : State) : State :=
  let s := s.clockStarts
  let ctxs := s.contextsIf (fun _ _ x => x.state.counts)
  let thr := s.host.power.thr
  let s := { s with
    clock := s.clock + 1, unfolded := s.chargedRegions.foldl (fun l r => charge l r 1) s.unfolded
    troupes := if s.powered then s.troupes.map (fun (e : Nat × Troupe) => (e.1, e.2.govern s.clock thr)) else s.troupes }
  let s : State := ctxs.foldl (fun s e => s.updCtx e.1 (bank e.2) (fun x => { x with regs := x.regs.countDown 1 })) s
  (if s.clock % 4096 = 0 then s.foldAll else s).openWindows

/-- Clocks pass. -/
def State.tick (s : State) : Nat → State
  | 0 => s
  | n + 1 => s.clockOnce.tick n

/-! ### Stage-manager harts (R330, R331) -/

/-- The parcels at a hart's pc, the second one 0 where it is not there and not needed. -/
def State.hartFetch (s : State) : Option (BitVec 32) :=
  let a := s.hart.pc.toNat
  match s.hartRead a 4, s.hartRead a 2 with
  | some bs, _ => some (BitVec.ofNat 32 (leNat bs))
  | none, some bs => if leNat bs % 4 = 3 then none else some (BitVec.ofNat 32 (leNat bs))
  | none, none => none

/-- A hart executes what stands at its pc: WAITP, or a word of RV64IMAC. A word of the custom-0 opcode that is no form of WAITP is
illegal. -/
def State.runHart (s : State) (d : DieId) (q : QueueId) : Out :=
  let s := { s with turn := { s.turn with hartDie := d, hart := q } }
  if !s.up then .next s
  else match s.hartFetch with
  | none => .next (s.hartTrap 1 s.hart.pc)
  | some v =>
    match decodeWaitp v with
    | some i => exec i s
    | none => .next (s.hartStep v)

/-! ### Moves -/

def State.act (s : State) (m : Move) : Out :=
  match m with
  | .issue c => s.issue c
  | .wake c k => .next (s.wake c k)
  | .serve c => .next (s.serveCall c)
  | .tick n => .next (s.tick n)
  | .event e => exec e s
  | .hart d q => s.runHart d q
  | .switch c t => .next (s.switchDomain c t)
  | .retry c k => .next (s.checkRetry c k)
  | .soft site o => .next (s.softError site o)
  | .hostMem pa a => .next (s.hostOwn pa a)
  | .epoch d => .next (s.updDie d (fun x => x.learn s.host.epochs))
  | .copyService n => .next (s.serveCopy n)
  | .scrub p n => .next (s.scrubMore p n)
  | .boot => .next s.bootStep
  | .sendFlit k => .next (s.sendFlit k)
  | .replayFlit k n => .next (s.replayFlit k n)
  | .linkTimer k => .next (s.linkTimer k)
  | .journalKey p k => .next (s.updPart p (fun x => { x with journalKey := k }))
  | .loadImage r img m => .next (s.loadImage r img m)

/-- What the model's own schedule does in a step. -/
abbrev Act := State → Out

/-- Every move of one core that its hardware makes by itself. -/
def coreActs (c : CoreId) : List Act :=
  [fun s => .next (s.serveCall c), execFpResume c, execFpKill c, fun s => s.issue c, execMmodeEntry c, execActivationStart c,
    execTheftAttempt c, execRefusalRetry c, execForcedStop c, execBudgetExhausted c] ++
  ((List.finRange 9).map (fun b => ([execLongResultReturn c b, execStoreBufferDrain c b 0] : List Act))).flatten ++
  ((List.finRange 8).map (fun k => ([execVerificationResolve c k, execOutboxSend c k, execFpEvent c k, execActivationEnd c k,
    execSafePointStop c k, execCeilingExpiry c k, execFpNoticeRetry c k, fun s => .next (s.wake c k)] : List Act))).flatten

def troupeActs (t : TroupeId) : List Act :=
  [execMatrixJobStart t, execRowGroupCommit t 0, execMzeroEntryRun t, execMtblEntryRun t, execMstEntryRun t,
    execEnginePageFault t false, execEnginePageFault t true, execFaultNoticeRetry t false, execFaultNoticeRetry t true,
    execFaultRewalk t false, execFaultRewalk t true, execFaultTimeout t false, execFaultTimeout t true,
    execCopyJobStart t, execCopyJobRetire t .ok, execCompletionRetry t, execTroupeIdle t]

/-- The lowest tag the security controller may give. -/
def State.freeTag (s : State) : Tag :=
  (((List.range (s.domains.length + 1)).map (fun n => (BitVec.ofNat 16 (n + 1) : Tag))).find? s.tagFree).getD 0

/-- A die's thread on a queue: the packet it reads, then whichever command it is; a new domain takes the lowest free tag
(DESIGN CHOICE; log 1). -/
def queueActs (d : DieId) (q : QueueId) : List Act :=
  [execPacketFetch d q, execLaunch d q, execCond d q, execWait d q, execWaitConditionMet d q, execSignal d q, execQueueFence d q,
    execQueueFenceComplete d q, execCopyHost d q [], execRegionCreate d q, execRegionKill d q, fun s => execDomainCreate d q s.freeTag s,
    execMeasure d q, execLock d q,
    execStart d q, execAttest d q, execTeardown d q, execRegister d q, execReassign d q, execTrunc d q, execCheckpoint d q,
    execSummary d q, execPeerCopy d q, execAssign d q, execSetReplay d q, execClearReplay d q]

/-- A die's threads on the queues that run, its shares and its streams. -/
def State.dieActs (s : State) (d : DieId) : List Act :=
  [execTroupeAdmission d, execLaunchRetry d, fun s => .next (s.updDie d (fun x => x.learn s.host.epochs))] ++
    (((List.finRange 32).filter (fun q => s.host.cmdq[q].run || (s.thread d q).state ≠ .idle)).map (queueActs d)).flatten ++
    s.dies[d].shares.map (fun e => execLaunchShareComplete d e.1) ++
    (s.dies[d].streams.map (fun e => ([execCueFlitSend d e.1, execCueFlitResend d e.1] : List Act))).flatten

/-- Key slots whose stream has come to its limit (R286). -/
def State.haltActs (s : State) : List Act :=
  (s.listedCores.map (fun c =>
    ((List.finRange 64).filter (fun n => 2 ^ 32 ≤ (s.core c).keys[n].used)).map (fun n => execStreamHalt c n))).flatten

/-- What the links do, those that are up and those that train (R332, R345). -/
def State.linkActs (s : State) : List Act :=
  ((List.finRange 16).map (fun k =>
    if s.host.links[k].up then ([fun s => .next (s.sendFlit k), fun s => .next (s.linkTimer k)] : List Act)
    else [execLinkTrainRetry k])).flatten

/-- What the clusters do: shootdowns complete, supplies settle, and a gated cluster for which a write is held wakes (R237, R351). -/
def State.clusterActs (s : State) : List Act :=
  (s.clusters.filterMap (fun e => if h : e.1 < 128 then
      let c : ClusterId := ⟨e.1, h⟩
      some ([execShootdownComplete c] ++ (if e.2.waking then [execClusterSupplySettled c] else []) ++
        (if e.2.gated && e.2.held ≠ [] then [execClusterWake c] else []))
    else none)).flatten

/-- A round of the model's own schedule in stage 5. -/
def State.roundActs (s : State) : List Act :=
  (s.listedCores.map coreActs).flatten ++ s.haltActs ++ [execMessageArrival 0, execRefusalArrival 0, execTdecHome 0] ++
    (s.listedTroupes.map troupeActs).flatten ++ ((List.finRange 4).map s.dieActs).flatten ++
    s.regions.map (fun e => execBudgetWindowStart (BitVec.ofNat 32 e.1)) ++
    s.clusterActs ++
    s.vectors.filterMap (fun e => if h : e.1 / 64 < 33 then some (execVectorFire ⟨e.1 / 64, h⟩ ⟨e.1 % 64, by omega⟩) else none) ++
    s.host.copies.map (fun j => fun s => .next (s.serveCopy j.num)) ++
    ((List.finRange 32).filter (fun p => s.partitions[p].scrubbing)).map execScrubPhaseDone ++
    s.linkActs ++ [execCheckpointQueueTimeout]

def clockAct : Act := fun s => .next (s.tick 1)

/-- The next training step of the first stack that is not trained. -/
def State.trainAct (s : State) : Act :=
  match (List.finRange 12).find? (fun k => s.host.hbm[k].passed ≠ 6) with
  | some k =>
    if s.host.hbm[k].busy then
      execHbmStepDone k (BitVec.allOnes 32) ((List.range 256).map (fun i => Config.trainedByte k.val i))
    else execHbmStepGo k (BitVec.ofNat 4 (s.host.hbm[k].passed + 1))
  | none => clockAct

/-- What is done where the agenda is empty: bring-up goes on; then the round, whose end is a clock. -/
def State.ownAct (s : State) : Act × Nat :=
  match s.host.boot.stage.toNat with
  | 0 => (if s.host.boot.recovery || s.host.railFault then clockAct else execColdStart, 0)
  | 1 => (if s.host.boot.recovery || s.host.railFault then clockAct else fun s => .next s.bootStep, 0)
  | 2 => (if s.host.boot.err = 3 then clockAct else s.trainAct, 0)
  | 3 => (execMemoryClearComplete, 0)
  | 4 => (if s.host.railFault then clockAct else fun s => .next s.bootStep, 0)
  | 5 =>
    match s.roundActs[s.turn.sweep]? with
    | some m => (m, s.turn.sweep + 1)
    | none => (clockAct, 0)
  | _ => (clockAct, 0)

/-- One step: the first move of the agenda, else the model's own. -/
def State.advance (s : State) : Out :=
  match s.agenda with
  | m :: rest => { s with agenda := rest }.act m
  | [] =>
    let (m, n) := s.ownAct
    m { s with turn := { s.turn with sweep := n } }

/-! ### Placing one instruction -/

/-- Where placed words stand: code in the lowest GiB, the directory and three tables above it. -/
def placeDir : Nat := 0x40000000

/-- Bytes written to physical memory as plain, whole words. -/
def State.putPlain (s : State) (pa : Nat) (bs : List Byte) : State :=
  let hit (a : Nat) : Bool := pa / 64 ≤ a / 64 && a / 64 ≤ (pa + bs.length - 1) / 64
  { s with mem := s.mem.writeL pa bs, poison := s.poison.filter (fun a => !hit a), lines := s.lines.filter (fun e => !hit e.1)
           frames := s.frames.filter (fun e => e.1 + 16384 ≤ pa || pa + bs.length ≤ e.1) }

def State.putWord (s : State) (pa : Nat) (w : Nat) : State := s.putPlain pa (leBytes 8 w)

/-- Tables that map the lowest GiB of a tag's addresses to the lowest GiB of memory, to fetch from. -/
def State.placeTables (s : State) (t : Tag) : State :=
  let a := placeDir + 0x80000
  let s := (s.putWord (placeDir + 8 * t.toNat) (a + 1)).putWord a (a + 0x1000 + 1)
  let s := (s.putWord (a + 0x1000) (a + 0x2000 + 1)).putWord (a + 0x2000) 0x49
  s.updCluster 0 (fun x => { x with drbase := BitVec.ofNat 33 (placeDir / 2 ^ 19), walk := [], gated := false, waking := false })

/-- A window that lets the tag's walks load the tables and its fetches reach the code. -/
def placeWindow (t : Tag) : Window :=
  { base := 0, limit := BitVec.ofNat 46 ((placeDir + 0x90000) / 64 - 1), dtag := t, rd := true, wr := false, ex := true
    space := false, v := true, clash := false }

/-- Context 0 of core 0 is READY at an address under a tag, the first to issue. -/
def State.placeCtx (s : State) (t : Tag) (pc : Word) : State :=
  let s := s.updCore 0 (fun q => { q with
    windows := q.windows.set 0 (placeWindow t), tlb := [], mmode := none, dead := false, retired := false, lastIssue := 7
    halting := false, mqueue := q.mqueue.filter (fun e => e.core || e.ctx ≠ 0), pmreq := { q.pmreq with stop := 0 } })
  let s := s.updCtx 0 0 (fun x => { x with
    state := .ready, wait := none, halted := false, stopped := false, event := none
    regs := { x.regs with pc := pc, tag := t, dom := [], gstat := .none } })
  s.updTroupe 0 (fun x => { x with tlb := [] })

/-- The parcels of a base word, the high one first; what follows is 0. -/
def placeBytes (w : Nat) : List Byte :=
  leBytes 2 (w / 2 ^ 16 % 2 ^ 16) ++ leBytes 2 (w % 2 ^ 16) ++ List.replicate 8 0

/-- The word stands where core 0's context 0 fetches next, and where hart 0 of die 0 does; the one whose instruction it
is moves next. -/
def State.placed (s : State) (w : Nat) : State :=
  let t : Tag := if (s.ctx 0 0).regs.tag = 0 then 1 else (s.ctx 0 0).regs.tag
  let pc := (s.ctx 0 0).regs.pc &&& 0x3FFFFFF0#64
  let v := BitVec.ofNat 32 w
  let waitp := (decodeWaitp v).isSome && (match decodeParcels [v.extractLsb' 16 16, v.extractLsb' 0 16] with
    | some (.illegalInstruction ..) => true
    | _ => false)
  let s := ((s.placeTables t).putPlain pc.toNat (placeBytes w)).placeCtx t pc
  let s := s.updDie 0 (fun d => { d with sram := d.sram.writeL 0 (leBytes 4 w), threads := d.threads.set 0 { d.threads[0] with pc := 0 } })
  let s := (s.updBoot (fun b => { b with stage := 5 })).updHost (fun h => { h with railFault := false })
  { s with agenda := [if waitp then .hart 0 0 else .issue 0] }

end Sys2Proof.Machine
end

