-- ==== Sys2Proof/Machine/Step.lean ====
section
/-!
DEFINITION. One step of the machine, and the machine with one instruction placed where its next step fetches it.
-/

namespace Sys2Proof.Machine

/-- The first move of the agenda, or the model's own (log 1). -/
def step (s : State) : Out := s.advance

/-- The instruction of a table word placed before the next step. Every instruction has 32 bits in the table, so what
`nbits` would leave out is 0 already. -/
def State.withFetchWord (s : State) (nbits w : Nat) : State := s.placed (w % 2 ^ nbits)

end Sys2Proof.Machine
end

