-- ==== Sys2Proof/Laws/Encoding.lean ====
section
/-!
SUPPORT. Codes, fields and parcels read back as they were written.
-/

namespace Sys2Proof

/-! ### Codes -/

@[simp] theorem greg_code (r : GReg) : greg? r.code = some r := by
  cases r with
  | g n => revert n; decide
  | port p => cases p <;> rfl

@[simp] theorem reg_regCode (r : Fin 32) : reg? (regCode r) = some r := by revert r; decide
@[simp] theorem small_regCode (r : Fin 8) : small? (regCode r) = some r := by revert r; decide
@[simp] theorem zero_zero {n : Nat} : zero? (0#n) = some () := by simp [zero?]
@[simp] theorem zero_regCode {n : Nat} : zero? (regCode (0 : Fin (n + 1))) = some () := rfl

theorem scalar_code {isG : Bool} {x : Scalar} (h : (match x with | .gx _ => isG | .fx _ => !isG) = true) :
    scalar? isG x.code = some x := by
  cases x <;> cases isG <;> simp_all [scalar?, Scalar.code]

theorem scalar_fits {t : ElemTy} {x : Scalar} (h : x.fits t = true) : scalar? t.isInt x.code = some x := by
  apply scalar_code
  cases x <;> simpa [Scalar.fits] using h

@[simp] theorem memOrd_code (x : MemOrd) : MemOrd.ofCode x.code = x := by cases x <;> rfl
@[simp] theorem scope_code (x : Scope) : Scope.ofCode x.code = x := by cases x <;> rfl
@[simp] theorem nx_code (x : Nx) : Nx.ofCode x.code = x := by cases x <;> rfl
@[simp] theorem cond_code (x : Cond) : Cond.ofCode x.code = some x := by cases x <;> rfl
@[simp] theorem fcond_code (x : FCond) : FCond.ofCode x.code = some x := by cases x <;> rfl
@[simp] theorem vcond_code (x : VCond) : VCond.ofCode x.code = some x := by cases x <;> rfl
@[simp] theorem size_code (x : Size) : Size.ofCode x.code = x := by cases x <;> rfl
@[simp] theorem amo_code (x : AmoOp) : AmoOp.ofCode x.code = some x := by cases x <;> rfl
@[simp] theorem cvt_code (x : Cvt) : Cvt.ofCode x.code = some x := by cases x <;> rfl
@[simp] theorem elemTy_code (x : ElemTy) : ElemTy.ofCode x.code = x := by cases x <;> rfl
@[simp] theorem tableSel_code (x : TableSel) : TableSel.ofCode x.code = some x := by cases x <;> rfl
@[simp] theorem sfu_code (x : SfuFn) : SfuFn.ofCode x.code = x := by cases x <;> rfl
@[simp] theorem handleState_code (x : HandleState) : HandleState.ofCode x.code = x := by cases x <;> rfl

/-! ### Fields of parcels -/

/-- Bits below the seam of two joined fields. -/
theorem low_field {v w n k : Nat} {x : BitVec v} {y : BitVec w} (h : n + k ≤ w) :
    (x ++ y).extractLsb' n k = y.extractLsb' n k := BitVec.extractLsb'_append_eq_of_add_le h

/-- Bits above it. -/
theorem high_field {v w n k : Nat} {x : BitVec v} {y : BitVec w} (h : w ≤ n) :
    (x ++ y).extractLsb' n k = x.extractLsb' (n - w) k := BitVec.extractLsb'_append_eq_of_le h

@[simp] theorem whole_field {w : Nat} {x : BitVec w} : x.extractLsb' 0 w = x := BitVec.extractLsb'_eq_self

theorem low_bit {v w n : Nat} {x : BitVec v} {y : BitVec w} (h : n < w) : (x ++ y).getLsbD n = y.getLsbD n := by
  rw [BitVec.getLsbD_append, if_pos h]

theorem high_bit {v w n : Nat} {x : BitVec v} {y : BitVec w} (h : w ≤ n) : (x ++ y).getLsbD n = x.getLsbD (n - w) := by
  rw [BitVec.getLsbD_append, if_neg (by omega)]

@[simp] theorem ofBool_bit (b : Bool) : (BitVec.ofBool b).getLsbD 0 = b := by cases b <;> rfl

theorem nx_not_prefix (x : Nx) : x.code ≠ 7 := by cases x <;> decide

theorem hi_s (x : Base) : x.hi.getLsbD 15 = x.s := by
  show BitVec.getLsbD (w := 1 + 3 + 6 + 6) (BitVec.ofBool x.s ++ x.nx ++ x.op ++ x.d) 15 = _
  rw [high_bit (by omega), high_bit (by omega), high_bit (by omega)]
  exact ofBool_bit _

theorem hi_nx (x : Base) : x.hi.extractLsb' 12 3 = x.nx := by
  show BitVec.extractLsb' (n := 1 + 3 + 6 + 6) 12 3 (BitVec.ofBool x.s ++ x.nx ++ x.op ++ x.d) = _
  rw [high_field (by omega), high_field (by omega), low_field (by omega)]
  exact whole_field

theorem hi_op (x : Base) : x.hi.extractLsb' 6 6 = x.op := by
  show BitVec.extractLsb' (n := 1 + 3 + 6 + 6) 6 6 (BitVec.ofBool x.s ++ x.nx ++ x.op ++ x.d) = _
  rw [high_field (by omega), low_field (by omega)]
  exact whole_field

theorem hi_d (x : Base) : x.hi.extractLsb' 0 6 = x.d := by
  show BitVec.extractLsb' (n := 1 + 3 + 6 + 6) 0 6 (BitVec.ofBool x.s ++ x.nx ++ x.op ++ x.d) = _
  rw [low_field (by omega)]
  exact whole_field

theorem lo_a (x : Base) : x.lo.extractLsb' 10 6 = x.a := by
  show BitVec.extractLsb' (n := 6 + 6 + 4) 10 6 (x.a ++ x.b ++ x.f) = _
  rw [high_field (by omega), high_field (by omega)]
  exact whole_field

theorem lo_b (x : Base) : x.lo.extractLsb' 4 6 = x.b := by
  show BitVec.extractLsb' (n := 6 + 6 + 4) 4 6 (x.a ++ x.b ++ x.f) = _
  rw [high_field (by omega), low_field (by omega)]
  exact whole_field

theorem lo_f (x : Base) : x.lo.extractLsb' 0 4 = x.f := by
  show BitVec.extractLsb' (n := 6 + 6 + 4) 0 4 (x.a ++ x.b ++ x.f) = _
  rw [low_field (by omega)]
  exact whole_field

@[simp] theorem ofParcels_hi_lo (x : Base) : Base.ofParcels x.hi x.lo = x := by
  simp only [Base.ofParcels, hi_s, hi_nx, hi_op, hi_d, lo_a, lo_b, lo_f]

theorem hi_not_prefix (x : Base) (w : Nx) (h : x.nx = w.code) : isPrefixParcel x.hi = false := by
  exact decide_eq_false (by rw [hi_nx, h]; exact nx_not_prefix w)

/-! ### Prefix parcels -/

/-- The mark and the kind of a prefix parcel, and its payload. -/
theorem parcel_parts (k : BitVec 3) (y : BitVec 9) :
    BitVec.extractLsb' (n := 4 + 3 + 9) 12 3 (7#4 ++ k ++ y) = 7 ∧ BitVec.getLsbD (w := 4 + 3 + 9) (7#4 ++ k ++ y) 15 = false ∧
      BitVec.extractLsb' (n := 4 + 3 + 9) 9 3 (7#4 ++ k ++ y) = k ∧ BitVec.extractLsb' (n := 4 + 3 + 9) 0 9 (7#4 ++ k ++ y) = y := by
  refine ⟨?_, ?_, ?_, ?_⟩
  · rw [high_field (by omega), high_field (by omega)]; rfl
  · rw [high_bit (by omega), high_bit (by omega)]; rfl
  · rw [high_field (by omega), low_field (by omega)]; exact whole_field
  · rw [low_field (by omega)]; exact whole_field

/-- The kind and the payload of each prefix (R49). -/
def Pfx.parts : Pfx → BitVec 3 × BitVec 9
  | .imm y => (0, y)
  | .src c => (1, c ++ 0#3)
  | .page n => (2, 0#1 ++ n)
  | .disp y => (3, y)
  | .cond neg p onNx z m =>
    (4, BitVec.ofBool neg ++ BitVec.ofNat 3 p.val ++ BitVec.ofBool onNx ++ BitVec.ofBool z ++ BitVec.ofNat 3 m.val)
  | .ord o c => (5, 0#5 ++ o.code ++ c.code)
  | .safe i => (6, 0#1 ++ i)

theorem toParcel_parts (p : Pfx) : p.toParcel = (7#4 ++ p.parts.1 ++ p.parts.2 : BitVec (4 + 3 + 9)) := by cases p <;> rfl

theorem toParcel_prefix (p : Pfx) : isPrefixParcel p.toParcel = true := by
  rw [toParcel_parts, isPrefixParcel]
  exact decide_eq_true (parcel_parts _ _).1

@[simp] theorem low3_ofNat (x : Fin 8) : low3 (BitVec.ofNat 3 x.val) = x := by revert x; decide

/-- The parts of a payload are read back. -/
theorem ofParcel_parts {k : BitVec 3} {y : BitVec 9} : Pfx.ofParcel (7#4 ++ k ++ y : BitVec (4 + 3 + 9)) =
    match k.toNat with
    | 0 => some (.imm y)
    | 1 => if y.extractLsb' 0 3 = 0 then some (.src (y.extractLsb' 3 6)) else none
    | 2 => if y.getLsbD 8 then none else some (.page (y.extractLsb' 0 8))
    | 3 => some (.disp y)
    | 4 => some (.cond (y.getLsbD 8) (low3 (y.extractLsb' 5 3)) (y.getLsbD 4) (y.getLsbD 3) (low3 (y.extractLsb' 0 3)))
    | 5 => if y.extractLsb' 4 5 = 0 then some (.ord (.ofCode (y.extractLsb' 2 2)) (.ofCode (y.extractLsb' 0 2))) else none
    | 6 => if y.getLsbD 8 then none else some (.safe (y.extractLsb' 0 8))
    | _ => none := by
  obtain ⟨h1, h2, h3, h4⟩ := parcel_parts k y
  unfold Pfx.ofParcel
  refine (if_neg (by exact Bool.eq_false_iff.mp h2)).trans ?_
  simp only [show BitVec.extractLsb' 9 3 (7#4 ++ k ++ y : BitVec (4 + 3 + 9)) = k from h3,
    show BitVec.extractLsb' 0 9 (7#4 ++ k ++ y : BitVec (4 + 3 + 9)) = y from h4] <;>
  rfl

@[simp] theorem ofParcel_toParcel (p : Pfx) : Pfx.ofParcel p.toParcel = some p := by
  rw [toParcel_parts, ofParcel_parts]
  cases p with
  | imm y => rfl
  | disp y => rfl
  | src c =>
    show (if BitVec.extractLsb' (n := 6 + 3) 0 3 (c ++ 0#3) = 0 then some (Pfx.src (BitVec.extractLsb' (n := 6 + 3) 3 6 (c ++ 0#3))) else none) = _
    rw [low_field (by omega), high_field (by omega), if_pos (by rfl)]
    exact congrArg (fun x => some (Pfx.src x)) whole_field
  | page n =>
    show (if BitVec.getLsbD (w := 1 + 8) (0#1 ++ n) 8 then none else some (Pfx.page (BitVec.extractLsb' (n := 1 + 8) 0 8 (0#1 ++ n)))) = _
    rw [high_bit (by omega), low_field (by omega)]
    exact congrArg (fun x => some (Pfx.page x)) whole_field
  | safe n =>
    show (if BitVec.getLsbD (w := 1 + 8) (0#1 ++ n) 8 then none else some (Pfx.safe (BitVec.extractLsb' (n := 1 + 8) 0 8 (0#1 ++ n)))) = _
    rw [high_bit (by omega), low_field (by omega)]
    exact congrArg (fun x => some (Pfx.safe x)) whole_field
  | ord o c => cases o <;> cases c <;> rfl
  | cond neg q onNx z m =>
    cases neg <;> cases onNx <;> cases z <;> revert q m <;> decide

/-- A chain that obeys R50 is read prefix by prefix. -/
theorem decodeFrom_chain (ps : List Pfx) (before : List Pfx) (rest : List Parcel) (h : chainFault before ps = none) :
    decodeFrom before (ps.map Pfx.toParcel ++ rest) = decodeFrom (ps.reverse ++ before) rest := by
  induction ps generalizing before with
  | nil => rfl
  | cons p ps ih =>
    simp only [chainFault] at h
    split at h
    · simp at h
    · rename_i hc
      simp only [List.map_cons, List.cons_append, decodeFrom, toParcel_prefix, if_true, ofParcel_toParcel]
      rw [if_neg hc, ih _ h]
      simp

/-! ### The round trip -/

/-- The decoder of a page. -/
def decodePage (n : Nat) (w : Pre) (x : Base) : Option Instr :=
  match n with
  | 0 => decodePage0 w x
  | 1 => decodePage1 w x
  | 2 => decodePage2 w x
  | 3 => decodePage3 w x
  | 4 => decodePage4 w x
  | _ => none

/-- The base word of fields under a prefix. -/
def Fields.base (x : Fields) (w : Pre) : Base := ⟨w.s, w.nx.code, x.op, x.d, x.a, x.b, x.f⟩

/-- An instruction whose page decodes its fields to itself is read back from its parcels. -/
theorem roundTrip_of {i : Instr} {w : Pre} {x : Fields} {n : Nat} (hp : i.pre? = some w) (hx : i.fields? = some x)
    (hn : i.page? = some n) (hd : i.formOk = true → decodePage n w (x.base w) = some i) (hw : i.wellFormed = true) :
    decodeParcels (encode i) = some i := by
  simp only [Instr.wellFormed, hp, Bool.and_eq_true, Option.isNone_iff_eq_none, decide_eq_true_eq] at hw
  obtain ⟨⟨⟨h1, h2⟩, h3⟩, h4⟩ := hw
  have hpage : chainPage w.chain = n := by rw [hn] at h2; exact (Option.some.inj h2).symm
  simp only [encode, Instr.base?, hp, hx, decodeParcels]
  rw [decodeFrom_chain _ _ _ h1]
  simp only [List.append_nil, decodeFrom]
  rw [if_neg (by rw [hi_not_prefix _ w.nx rfl]; exact Bool.false_ne_true)]
  simp only [List.reverse_reverse, decodeWord, ofParcels_hi_lo, nx_code]
  have hd' : (match chainPage w.chain with
    | 0 => decodePage0 w (x.base w)
    | 1 => decodePage1 w (x.base w)
    | 2 => decodePage2 w (x.base w)
    | 3 => decodePage3 w (x.base w)
    | 4 => decodePage4 w (x.base w)
    | _ => none) = some i := by rw [hpage]; exact hd h3
  show some (match (match chainPage w.chain with
    | 0 => decodePage0 w (x.base w)
    | 1 => decodePage1 w (x.base w)
    | 2 => decodePage2 w (x.base w)
    | 3 => decodePage3 w (x.base w)
    | 4 => decodePage4 w (x.base w)
    | _ => none) with
    | none => _
    | some j => if j.formOk then (match j.prefixFault w with | some k => _ | none => j) else _) = some i
  rw [hd']
  simp only [h3, h4, if_true]

/-! ### Fields of each form -/

section Forms

variable (w : Pre) (op d a b : BitVec 6) (f : BitVec 4) (s : Bool) (nx : BitVec 3)

@[simp] theorem base_mk : (Fields.mk op d a b f).base w = ⟨w.s, w.nx.code, op, d, a, b, f⟩ := rfl
@[simp] theorem base_G (x y z : GReg) : (fieldsG op f x y z).base w = ⟨w.s, w.nx.code, op, x.code, y.code, z.code, f⟩ := rfl
@[simp] theorem base_F (x y z : FReg) :
    (fieldsF op f x y z).base w = ⟨w.s, w.nx.code, op, regCode x, regCode y, regCode z, f⟩ := rfl
@[simp] theorem base_P (x y z : PReg) :
    (fieldsP f x y z).base w = ⟨w.s, w.nx.code, 0x0F, regCode x, regCode y, regCode z, f⟩ := rfl
@[simp] theorem base_V (t : ElemTy) (x y : VReg) (z : VSrc) :
    (fieldsV op t x y z).base w = ⟨w.s, w.nx.code, op, regCode x, regCode y, z.code, z.bit ++ t.code⟩ := rfl
@[simp] theorem base_I (imm : BitVec 10) :
    (fieldsI op d a imm).base w = ⟨w.s, w.nx.code, op, d, a, imm.extractLsb' 4 6, imm.extractLsb' 0 4⟩ := rfl
@[simp] theorem base_J (imm : BitVec 16) : (fieldsJ op d imm).base w =
    ⟨w.s, w.nx.code, op, d, imm.extractLsb' 10 6, imm.extractLsb' 4 6, imm.extractLsb' 0 4⟩ := rfl

@[simp] theorem imm10_read (imm : BitVec 10) :
    Base.imm10 ⟨s, nx, op, d, a, imm.extractLsb' 4 6, imm.extractLsb' 0 4⟩ = imm := by
  have h : imm.extractLsb' 4 6 ++ imm.extractLsb' 0 4 = imm.extractLsb' 0 (6 + 4) :=
    BitVec.extractLsb'_append_extractLsb'_eq_extractLsb' (by omega)
  exact h.trans whole_field

@[simp] theorem imm16_read (imm : BitVec 16) :
    Base.imm16 ⟨s, nx, op, d, imm.extractLsb' 10 6, imm.extractLsb' 4 6, imm.extractLsb' 0 4⟩ = imm := by
  have h : imm.extractLsb' 10 6 ++ imm.extractLsb' 4 6 = imm.extractLsb' 4 (6 + 6) :=
    BitVec.extractLsb'_append_extractLsb'_eq_extractLsb' (by omega)
  have h2 : imm.extractLsb' 4 (6 + 6) ++ imm.extractLsb' 0 4 = imm.extractLsb' 0 (6 + 6 + 4) :=
    BitVec.extractLsb'_append_extractLsb'_eq_extractLsb' (by omega)
  have e : Base.imm16 ⟨s, nx, op, d, imm.extractLsb' 10 6, imm.extractLsb' 4 6, imm.extractLsb' 0 4⟩ =
      (imm.extractLsb' 10 6 ++ imm.extractLsb' 4 6) ++ imm.extractLsb' 0 4 := rfl
  rw [e, h]
  exact h2.trans whole_field

@[simp] theorem shift_high (n : BitVec 6) : BitVec.extractLsb' 6 4 (0#4 ++ n : BitVec 10) = 0 := by
  show BitVec.extractLsb' (n := 4 + 6) 6 4 (0#4 ++ n) = 0
  rw [high_field (by omega)]; rfl

@[simp] theorem shift_low (n : BitVec 6) : BitVec.extractLsb' 0 6 (0#4 ++ n : BitVec 10) = n := by
  show BitVec.extractLsb' (n := 4 + 6) 0 6 (0#4 ++ n) = n
  rw [low_field (by omega)]; exact whole_field

@[simp] theorem two_high (n : BitVec 2) : BitVec.extractLsb' 2 2 (0#2 ++ n : BitVec 4) = 0 := by
  show BitVec.extractLsb' (n := 2 + 2) 2 2 (0#2 ++ n) = 0
  rw [high_field (by omega)]; rfl

@[simp] theorem two_low (n : BitVec 2) : BitVec.extractLsb' 0 2 (0#2 ++ n : BitVec 4) = n := by
  show BitVec.extractLsb' (n := 2 + 2) 0 2 (0#2 ++ n) = n
  rw [low_field (by omega)]; exact whole_field

@[simp] theorem pair_high (n m : BitVec 2) : BitVec.extractLsb' 2 2 (n ++ m : BitVec 4) = n := by
  show BitVec.extractLsb' (n := 2 + 2) 2 2 (n ++ m) = n
  rw [high_field (by omega)]; exact whole_field

@[simp] theorem pair_low (n m : BitVec 2) : BitVec.extractLsb' 0 2 (n ++ m : BitVec 4) = m := by
  show BitVec.extractLsb' (n := 2 + 2) 0 2 (n ++ m) = m
  rw [low_field (by omega)]; exact whole_field

@[simp] theorem one_high (n : BitVec 1) (m : BitVec 3) : BitVec.extractLsb' 3 1 (n ++ m : BitVec 4) = n := by
  show BitVec.extractLsb' (n := 1 + 3) 3 1 (n ++ m) = n
  rw [high_field (by omega)]; exact whole_field

@[simp] theorem one_low (n : BitVec 1) (m : BitVec 3) : BitVec.extractLsb' 0 3 (n ++ m : BitVec 4) = m := by
  show BitVec.extractLsb' (n := 1 + 3) 0 3 (n ++ m) = m
  rw [low_field (by omega)]; exact whole_field

@[simp] theorem fT_high (t : ElemTy) : BitVec.extractLsb' 3 1 (fT t) = 0#1 := one_high 0#1 t.code
@[simp] theorem fT_low (t : ElemTy) : BitVec.extractLsb' 0 3 (fT t) = t.code := one_low 0#1 t.code

@[simp] theorem one_bit (x : Bool) (m : BitVec 3) : (BitVec.ofBool x ++ m : BitVec 4)[3] = x := by
  show BitVec.getLsbD (w := 1 + 3) (BitVec.ofBool x ++ m) 3 = x
  rw [high_bit (by omega)]; exact ofBool_bit x

@[simp] theorem three_high (n m : BitVec 3) : BitVec.extractLsb' 3 3 (n ++ m : BitVec 6) = n := by
  show BitVec.extractLsb' (n := 3 + 3) 3 3 (n ++ m) = n
  rw [high_field (by omega)]; exact whole_field

@[simp] theorem three_low (n m : BitVec 3) : BitVec.extractLsb' 0 3 (n ++ m : BitVec 6) = m := by
  show BitVec.extractLsb' (n := 3 + 3) 0 3 (n ++ m) = m
  rw [low_field (by omega)]; exact whole_field

@[simp] theorem cond_bits3 (c : Cond) : (BitVec.ofNat 3 c.code).toNat = c.code := by cases c <;> rfl
@[simp] theorem cond_bits4 (c : Cond) : (BitVec.ofNat 4 c.code).toNat = c.code := by cases c <;> rfl
@[simp] theorem vcond_bits3 (c : VCond) : (BitVec.ofNat 3 c.code).toNat = c.code := by cases c <;> rfl
@[simp] theorem fcond_bits3 (c : FCond) : (BitVec.ofNat 3 c.code).toNat = c.code := by cases c <;> rfl
@[simp] theorem amo_bits4 (c : AmoOp) : (BitVec.ofNat 4 c.code).toNat = c.code := by cases c <;> rfl
@[simp] theorem cvt_bits4 (c : Cvt) : (BitVec.ofNat 4 c.code).toNat = c.code := by cases c <;> rfl

@[simp] theorem cond_mod8 (c : Cond) : c.code % 8 = c.code := by cases c <;> rfl
@[simp] theorem cond_mod16 (c : Cond) : c.code % 16 = c.code := by cases c <;> rfl
@[simp] theorem vcond_mod8 (c : VCond) : c.code % 8 = c.code := by cases c <;> rfl
@[simp] theorem fcond_mod8 (c : FCond) : c.code % 8 = c.code := by cases c <;> rfl
@[simp] theorem amo_mod16 (c : AmoOp) : c.code % 16 = c.code := by cases c <;> rfl
@[simp] theorem cvt_mod16 (c : Cvt) : c.code % 16 = c.code := by cases c <;> rfl
@[simp] theorem low3_ofFin (x : Fin 8) : low3 (BitVec.ofFin x) = x := rfl

@[simp] theorem sel_high (p : PReg) : BitVec.extractLsb' 3 1 (BitVec.ofNat 4 p.val) = 0 := by revert p; decide
@[simp] theorem sel_low (p : PReg) : low3 (BitVec.extractLsb' 0 3 (BitVec.ofNat 4 p.val)) = p := by revert p; decide
@[simp] theorem pair4_high (p : Fin 4) : BitVec.extractLsb' 2 2 (BitVec.ofNat 4 p.val) = 0 := by revert p; decide
@[simp] theorem pair4_low (p : Fin 4) (h : (BitVec.extractLsb' 0 2 (BitVec.ofNat 4 p.val)).toNat < 4) :
    (⟨(BitVec.extractLsb' 0 2 (BitVec.ofNat 4 p.val)).toNat, h⟩ : Fin 4) = p := by revert p; decide
@[simp] theorem send_count (n : Fin 16) (h : (BitVec.ofNat 4 n.val).toNat < 16) :
    (⟨(BitVec.ofNat 4 n.val).toNat, h⟩ : Fin 16) = n := by revert n; decide
@[simp] theorem redOp_bits (o : RedOp) : RedOp.ofCode o.code.toNat = some o := by cases o <;> rfl
@[simp] theorem fenceKind_bits (k : FenceKind) : FenceKind.ofCode k.code.toNat = some k := by cases k <;> rfl
@[simp] theorem maskOp_bits (o : MaskOp) : MaskOp.ofCode o.code.toNat = some o := by cases o <;> rfl

/-- The B operand of a vector word, in the file its broadcast bit and type choose. -/
theorem vsrc_code {t : ElemTy} {b : VSrc} (h : b.fits t = true) :
    (if b.bit = 1#1 then (scalar? t.isInt b.code).map VSrc.bcast else (reg? b.code).map VSrc.vec) = some b := by
  cases b with
  | vec r => simp [VSrc.bit, VSrc.code]
  | bcast x => simp only [VSrc.bit, VSrc.code, if_true]; rw [scalar_fits (by simpa [VSrc.fits] using h)]; rfl

end Forms

end Sys2Proof
end

