-- ==== Sys2Proof/Laws/PerInstr.lean ====
section
/-!
SUPPORT. Decoding what was encoded, instruction by instruction (R36 to R61).
-/

namespace Sys2Proof

/-- The parcels of a well-formed instruction decode to it. -/
def Laws.RoundTrip.Statement (i : Instr) : Prop := i.wellFormed = true → decodeParcels (encode i) = some i

open Laws.RoundTrip

theorem Laws.RoundTrip.add (w : Pre) (d a b : GReg) : Statement (.add w d a b) :=
  roundTrip_of rfl rfl rfl (fun h => by simp [decodePage, decodePage0])
theorem Laws.RoundTrip.sub (w : Pre) (d a b : GReg) : Statement (.sub w d a b) :=
  roundTrip_of rfl rfl rfl (fun h => by simp [decodePage, decodePage0])
theorem Laws.RoundTrip.and (w : Pre) (d a b : GReg) : Statement (.and w d a b) :=
  roundTrip_of rfl rfl rfl (fun h => by simp [decodePage, decodePage0])
theorem Laws.RoundTrip.or (w : Pre) (d a b : GReg) : Statement (.or w d a b) :=
  roundTrip_of rfl rfl rfl (fun h => by simp [decodePage, decodePage0])
theorem Laws.RoundTrip.xor (w : Pre) (d a b : GReg) : Statement (.xor w d a b) :=
  roundTrip_of rfl rfl rfl (fun h => by simp [decodePage, decodePage0])
theorem Laws.RoundTrip.andn (w : Pre) (d a b : GReg) : Statement (.andn w d a b) :=
  roundTrip_of rfl rfl rfl (fun h => by simp [decodePage, decodePage0])
theorem Laws.RoundTrip.shl (w : Pre) (d a b : GReg) : Statement (.shl w d a b) :=
  roundTrip_of rfl rfl rfl (fun h => by simp [decodePage, decodePage0])
theorem Laws.RoundTrip.shr (w : Pre) (d a b : GReg) : Statement (.shr w d a b) :=
  roundTrip_of rfl rfl rfl (fun h => by simp [decodePage, decodePage0])
theorem Laws.RoundTrip.sar (w : Pre) (d a b : GReg) : Statement (.sar w d a b) :=
  roundTrip_of rfl rfl rfl (fun h => by simp [decodePage, decodePage0])
theorem Laws.RoundTrip.rol (w : Pre) (d a b : GReg) : Statement (.rol w d a b) :=
  roundTrip_of rfl rfl rfl (fun h => by simp [decodePage, decodePage0])
theorem Laws.RoundTrip.min (w : Pre) (d a b : GReg) : Statement (.min w d a b) :=
  roundTrip_of rfl rfl rfl (fun h => by simp [decodePage, decodePage0])
theorem Laws.RoundTrip.max (w : Pre) (d a b : GReg) : Statement (.max w d a b) :=
  roundTrip_of rfl rfl rfl (fun h => by simp [decodePage, decodePage0])
theorem Laws.RoundTrip.minu (w : Pre) (d a b : GReg) : Statement (.minu w d a b) :=
  roundTrip_of rfl rfl rfl (fun h => by simp [decodePage, decodePage0])
theorem Laws.RoundTrip.maxu (w : Pre) (d a b : GReg) : Statement (.maxu w d a b) :=
  roundTrip_of rfl rfl rfl (fun h => by simp [decodePage, decodePage0])
theorem Laws.RoundTrip.addw (w : Pre) (d a b : GReg) : Statement (.addw w d a b) :=
  roundTrip_of rfl rfl rfl (fun h => by simp [decodePage, decodePage0])
theorem Laws.RoundTrip.subw (w : Pre) (d a b : GReg) : Statement (.subw w d a b) :=
  roundTrip_of rfl rfl rfl (fun h => by simp [decodePage, decodePage0])
theorem Laws.RoundTrip.addi (w : Pre) (d a : GReg) (imm : BitVec 10) : Statement (.addi w d a imm) :=
  roundTrip_of rfl rfl rfl (fun h => by simp [decodePage, decodePage0])
theorem Laws.RoundTrip.andi (w : Pre) (d a : GReg) (imm : BitVec 10) : Statement (.andi w d a imm) :=
  roundTrip_of rfl rfl rfl (fun h => by simp [decodePage, decodePage0])
theorem Laws.RoundTrip.ori (w : Pre) (d a : GReg) (imm : BitVec 10) : Statement (.ori w d a imm) :=
  roundTrip_of rfl rfl rfl (fun h => by simp [decodePage, decodePage0])
theorem Laws.RoundTrip.xori (w : Pre) (d a : GReg) (imm : BitVec 10) : Statement (.xori w d a imm) :=
  roundTrip_of rfl rfl rfl (fun h => by simp [decodePage, decodePage0])
theorem Laws.RoundTrip.shli (w : Pre) (d a : GReg) (amt : BitVec 6) : Statement (.shli w d a amt) :=
  roundTrip_of rfl rfl rfl (fun h => by simp [decodePage, decodePage0])
theorem Laws.RoundTrip.shri (w : Pre) (d a : GReg) (amt : BitVec 6) : Statement (.shri w d a amt) :=
  roundTrip_of rfl rfl rfl (fun h => by simp [decodePage, decodePage0])
theorem Laws.RoundTrip.sari (w : Pre) (d a : GReg) (amt : BitVec 6) : Statement (.sari w d a amt) :=
  roundTrip_of rfl rfl rfl (fun h => by simp [decodePage, decodePage0])
theorem Laws.RoundTrip.mul (w : Pre) (d a b : GReg) : Statement (.mul w d a b) :=
  roundTrip_of rfl rfl rfl (fun h => by simp [decodePage, decodePage0])
theorem Laws.RoundTrip.mulh (w : Pre) (d a b : GReg) : Statement (.mulh w d a b) :=
  roundTrip_of rfl rfl rfl (fun h => by simp [decodePage, decodePage0])
theorem Laws.RoundTrip.mulhu (w : Pre) (d a b : GReg) : Statement (.mulhu w d a b) :=
  roundTrip_of rfl rfl rfl (fun h => by simp [decodePage, decodePage0])
theorem Laws.RoundTrip.mulw (w : Pre) (d a b : GReg) : Statement (.mulw w d a b) :=
  roundTrip_of rfl rfl rfl (fun h => by simp [decodePage, decodePage0])
theorem Laws.RoundTrip.div (w : Pre) (d a b : GReg) : Statement (.div w d a b) :=
  roundTrip_of rfl rfl rfl (fun h => by simp [decodePage, decodePage0])
theorem Laws.RoundTrip.divu (w : Pre) (d a b : GReg) : Statement (.divu w d a b) :=
  roundTrip_of rfl rfl rfl (fun h => by simp [decodePage, decodePage0])
theorem Laws.RoundTrip.rem (w : Pre) (d a b : GReg) : Statement (.rem w d a b) :=
  roundTrip_of rfl rfl rfl (fun h => by simp [decodePage, decodePage0])
theorem Laws.RoundTrip.remu (w : Pre) (d a b : GReg) : Statement (.remu w d a b) :=
  roundTrip_of rfl rfl rfl (fun h => by simp [decodePage, decodePage0])
theorem Laws.RoundTrip.clz (w : Pre) (d a : GReg) : Statement (.clz w d a) :=
  roundTrip_of rfl rfl rfl (fun h => by simp [decodePage, decodePage0])
theorem Laws.RoundTrip.ctz (w : Pre) (d a : GReg) : Statement (.ctz w d a) :=
  roundTrip_of rfl rfl rfl (fun h => by simp [decodePage, decodePage0])
theorem Laws.RoundTrip.popc (w : Pre) (d a : GReg) : Statement (.popc w d a) :=
  roundTrip_of rfl rfl rfl (fun h => by simp [decodePage, decodePage0])
theorem Laws.RoundTrip.brev (w : Pre) (d a : GReg) : Statement (.brev w d a) :=
  roundTrip_of rfl rfl rfl (fun h => by simp [decodePage, decodePage0])
theorem Laws.RoundTrip.bswap (w : Pre) (d a : GReg) : Statement (.bswap w d a) :=
  roundTrip_of rfl rfl rfl (fun h => by simp [decodePage, decodePage0])
theorem Laws.RoundTrip.sextb (w : Pre) (d a : GReg) : Statement (.sextb w d a) :=
  roundTrip_of rfl rfl rfl (fun h => by simp [decodePage, decodePage0])
theorem Laws.RoundTrip.sexth (w : Pre) (d a : GReg) : Statement (.sexth w d a) :=
  roundTrip_of rfl rfl rfl (fun h => by simp [decodePage, decodePage0])
theorem Laws.RoundTrip.sextw (w : Pre) (d a : GReg) : Statement (.sextw w d a) :=
  roundTrip_of rfl rfl rfl (fun h => by simp [decodePage, decodePage0])
theorem Laws.RoundTrip.zextb (w : Pre) (d a : GReg) : Statement (.zextb w d a) :=
  roundTrip_of rfl rfl rfl (fun h => by simp [decodePage, decodePage0])
theorem Laws.RoundTrip.zexth (w : Pre) (d a : GReg) : Statement (.zexth w d a) :=
  roundTrip_of rfl rfl rfl (fun h => by simp [decodePage, decodePage0])
theorem Laws.RoundTrip.zextw (w : Pre) (d a : GReg) : Statement (.zextw w d a) :=
  roundTrip_of rfl rfl rfl (fun h => by simp [decodePage, decodePage0])
theorem Laws.RoundTrip.movi (w : Pre) (d : GReg) (imm : BitVec 16) : Statement (.movi w d imm) :=
  roundTrip_of rfl rfl rfl (fun h => by simp [decodePage, decodePage0])
theorem Laws.RoundTrip.lea (w : Pre) (d a b : GReg) (sh : BitVec 2) : Statement (.lea w d a b sh) :=
  roundTrip_of rfl rfl rfl (fun h => by simp [decodePage, decodePage0])
theorem Laws.RoundTrip.cmp (w : Pre) (c : Cond) (p : PReg) (a b : GReg) : Statement (.cmp w c p a b) :=
  roundTrip_of rfl rfl rfl (fun h => by simp [decodePage, decodePage0])
theorem Laws.RoundTrip.cmpi (w : Pre) (c : Cond) (p : PReg) (a : GReg) (imm : BitVec 10) : Statement (.cmpi w c p a imm) :=
  roundTrip_of rfl rfl rfl (fun h => by simp [decodePage, decodePage0])
theorem Laws.RoundTrip.sel (w : Pre) (d : GReg) (p : PReg) (a b : GReg) : Statement (.sel w d p a b) :=
  roundTrip_of rfl rfl rfl (fun h => by simp [decodePage, decodePage0])
theorem Laws.RoundTrip.pand (w : Pre) (d a b : PReg) : Statement (.pand w d a b) :=
  roundTrip_of rfl rfl rfl (fun h => by simp [decodePage, decodePage0])
theorem Laws.RoundTrip.por (w : Pre) (d a b : PReg) : Statement (.por w d a b) :=
  roundTrip_of rfl rfl rfl (fun h => by simp [decodePage, decodePage0])
theorem Laws.RoundTrip.pxor (w : Pre) (d a b : PReg) : Statement (.pxor w d a b) :=
  roundTrip_of rfl rfl rfl (fun h => by simp [decodePage, decodePage0])
theorem Laws.RoundTrip.pandn (w : Pre) (d a b : PReg) : Statement (.pandn w d a b) :=
  roundTrip_of rfl rfl rfl (fun h => by simp [decodePage, decodePage0])
theorem Laws.RoundTrip.pnot (w : Pre) (d a : PReg) : Statement (.pnot w d a) :=
  roundTrip_of rfl rfl rfl (fun h => by simp [decodePage, decodePage0])
theorem Laws.RoundTrip.pmov (w : Pre) (d a : PReg) : Statement (.pmov w d a) :=
  roundTrip_of rfl rfl rfl (fun h => by simp [decodePage, decodePage0])
theorem Laws.RoundTrip.ldb (w : Pre) (d a : GReg) (imm : BitVec 10) : Statement (.ldb w d a imm) :=
  roundTrip_of rfl rfl rfl (fun h => by simp [decodePage, decodePage0])
theorem Laws.RoundTrip.ldbu (w : Pre) (d a : GReg) (imm : BitVec 10) : Statement (.ldbu w d a imm) :=
  roundTrip_of rfl rfl rfl (fun h => by simp [decodePage, decodePage0])
theorem Laws.RoundTrip.ldh (w : Pre) (d a : GReg) (imm : BitVec 10) : Statement (.ldh w d a imm) :=
  roundTrip_of rfl rfl rfl (fun h => by simp [decodePage, decodePage0])
theorem Laws.RoundTrip.ldhu (w : Pre) (d a : GReg) (imm : BitVec 10) : Statement (.ldhu w d a imm) :=
  roundTrip_of rfl rfl rfl (fun h => by simp [decodePage, decodePage0])
theorem Laws.RoundTrip.ldw (w : Pre) (d a : GReg) (imm : BitVec 10) : Statement (.ldw w d a imm) :=
  roundTrip_of rfl rfl rfl (fun h => by simp [decodePage, decodePage0])
theorem Laws.RoundTrip.ldwu (w : Pre) (d a : GReg) (imm : BitVec 10) : Statement (.ldwu w d a imm) :=
  roundTrip_of rfl rfl rfl (fun h => by simp [decodePage, decodePage0])
theorem Laws.RoundTrip.ldd (w : Pre) (d a : GReg) (imm : BitVec 10) : Statement (.ldd w d a imm) :=
  roundTrip_of rfl rfl rfl (fun h => by simp [decodePage, decodePage0])
theorem Laws.RoundTrip.stb (w : Pre) (d a : GReg) (imm : BitVec 10) : Statement (.stb w d a imm) :=
  roundTrip_of rfl rfl rfl (fun h => by simp [decodePage, decodePage0])
theorem Laws.RoundTrip.sth (w : Pre) (d a : GReg) (imm : BitVec 10) : Statement (.sth w d a imm) :=
  roundTrip_of rfl rfl rfl (fun h => by simp [decodePage, decodePage0])
theorem Laws.RoundTrip.stw (w : Pre) (d a : GReg) (imm : BitVec 10) : Statement (.stw w d a imm) :=
  roundTrip_of rfl rfl rfl (fun h => by simp [decodePage, decodePage0])
theorem Laws.RoundTrip.std (w : Pre) (d a : GReg) (imm : BitVec 10) : Statement (.std w d a imm) :=
  roundTrip_of rfl rfl rfl (fun h => by simp [decodePage, decodePage0])
theorem Laws.RoundTrip.lda (w : Pre) (z : Size) (c : Scope) (d a : GReg) : Statement (.lda w z c d a) :=
  roundTrip_of rfl rfl rfl (fun h => by simp [decodePage, decodePage0])
theorem Laws.RoundTrip.stl (w : Pre) (z : Size) (c : Scope) (d a : GReg) : Statement (.stl w z c d a) :=
  roundTrip_of rfl rfl rfl (fun h => by simp [decodePage, decodePage0])
theorem Laws.RoundTrip.amo (w : Pre) (o : AmoOp) (d a b : GReg) : Statement (.amo w o d a b) :=
  roundTrip_of rfl rfl rfl (fun h => by simp [decodePage, decodePage0])
theorem Laws.RoundTrip.cas (w : Pre) (dbl : Bool) (d a b : GReg) : Statement (.cas w dbl d a b) :=
  roundTrip_of rfl rfl rfl (fun h => by cases dbl <;> simp [decodePage, decodePage0])
theorem Laws.RoundTrip.fence (w : Pre) (k : FenceKind) (c : Scope) : Statement (.fence w k c) :=
  roundTrip_of rfl rfl rfl (fun h => by simp [decodePage, decodePage0])
theorem Laws.RoundTrip.send (w : Pre) (a : GReg) (b : Fin 32) (n : Fin 16) : Statement (.send w a b n) :=
  roundTrip_of rfl rfl rfl (fun h => by simp [decodePage, decodePage0])
theorem Laws.RoundTrip.hdef (w : Pre) (a b : GReg) : Statement (.hdef w a b) :=
  roundTrip_of rfl rfl rfl (fun h => by simp [decodePage, decodePage0])
theorem Laws.RoundTrip.hen (w : Pre) (a : GReg) : Statement (.hen w a) :=
  roundTrip_of rfl rfl rfl (fun h => by simp [decodePage, decodePage0])
theorem Laws.RoundTrip.hdis (w : Pre) (a : GReg) : Statement (.hdis w a) :=
  roundTrip_of rfl rfl rfl (fun h => by simp [decodePage, decodePage0])
theorem Laws.RoundTrip.hsetp (w : Pre) (a : GReg) : Statement (.hsetp w a) :=
  roundTrip_of rfl rfl rfl (fun h => by simp [decodePage, decodePage0])
theorem Laws.RoundTrip.hclrp (w : Pre) (a : GReg) : Statement (.hclrp w a) :=
  roundTrip_of rfl rfl rfl (fun h => by simp [decodePage, decodePage0])
theorem Laws.RoundTrip.spawn (w : Pre) (a : Fin 32) : Statement (.spawn w a) :=
  roundTrip_of rfl rfl rfl (fun h => by simp [decodePage, decodePage0])
theorem Laws.RoundTrip.tdec (w : Pre) (a : GReg) : Statement (.tdec w a) :=
  roundTrip_of rfl rfl rfl (fun h => by simp [decodePage, decodePage0])
theorem Laws.RoundTrip.wfm (w : Pre) (d a : GReg) : Statement (.wfm w d a) :=
  roundTrip_of rfl rfl rfl (fun h => by simp [decodePage, decodePage0])
theorem Laws.RoundTrip.bar (w : Pre) (a : GReg) : Statement (.bar w a) :=
  roundTrip_of rfl rfl rfl (fun h => by simp [decodePage, decodePage0])
theorem Laws.RoundTrip.bara (w : Pre) (a : GReg) : Statement (.bara w a) :=
  roundTrip_of rfl rfl rfl (fun h => by simp [decodePage, decodePage0])
theorem Laws.RoundTrip.barw (w : Pre) (a : GReg) : Statement (.barw w a) :=
  roundTrip_of rfl rfl rfl (fun h => by simp [decodePage, decodePage0])
theorem Laws.RoundTrip.jmpr (w : Pre) (a : GReg) : Statement (.jmpr w a) :=
  roundTrip_of rfl rfl rfl (fun h => by simp [decodePage, decodePage0])
theorem Laws.RoundTrip.jmprCall (w : Pre) (a : GReg) : Statement (.jmprCall w a) :=
  roundTrip_of rfl rfl rfl (fun h => by simp [decodePage, decodePage0])
theorem Laws.RoundTrip.tgt (w : Pre) (imm : BitVec 16) : Statement (.tgt w imm) :=
  roundTrip_of rfl rfl rfl (fun h => by simp [decodePage, decodePage0])
theorem Laws.RoundTrip.lps (w : Pre) (a : GReg) : Statement (.lps w a) :=
  roundTrip_of rfl rfl rfl (fun h => by simp [decodePage, decodePage0])
theorem Laws.RoundTrip.lpsi (w : Pre) (imm : BitVec 10) : Statement (.lpsi w imm) :=
  roundTrip_of rfl rfl rfl (fun h => by simp [decodePage, decodePage0])
theorem Laws.RoundTrip.disb (w : Pre) : Statement (.disb w) :=
  roundTrip_of rfl rfl rfl (fun h => by simp [decodePage, decodePage0])
theorem Laws.RoundTrip.gang2 (w : Pre) : Statement (.gang2 w) :=
  roundTrip_of rfl rfl rfl (fun h => by simp [decodePage, decodePage0])
theorem Laws.RoundTrip.gang4 (w : Pre) : Statement (.gang4 w) :=
  roundTrip_of rfl rfl rfl (fun h => by simp [decodePage, decodePage0])
theorem Laws.RoundTrip.gang8 (w : Pre) : Statement (.gang8 w) :=
  roundTrip_of rfl rfl rfl (fun h => by simp [decodePage, decodePage0])
theorem Laws.RoundTrip.rejn (w : Pre) : Statement (.rejn w) :=
  roundTrip_of rfl rfl rfl (fun h => by simp [decodePage, decodePage0])
theorem Laws.RoundTrip.movrGf (w : Pre) (d : FReg) (a : GReg) : Statement (.movrGf w d a) :=
  roundTrip_of rfl rfl rfl (fun h => by simp [decodePage, decodePage0])
theorem Laws.RoundTrip.movrFg (w : Pre) (d : GReg) (a : FReg) : Statement (.movrFg w d a) :=
  roundTrip_of rfl rfl rfl (fun h => by simp [decodePage, decodePage0])
theorem Laws.RoundTrip.movrGp (w : Pre) (a : GReg) : Statement (.movrGp w a) :=
  roundTrip_of rfl rfl rfl (fun h => by simp [decodePage, decodePage0])
theorem Laws.RoundTrip.movrPg (w : Pre) (d : GReg) : Statement (.movrPg w d) :=
  roundTrip_of rfl rfl rfl (fun h => by simp [decodePage, decodePage0])
theorem Laws.RoundTrip.srd (w : Pre) (d : GReg) (csr : BitVec 10) : Statement (.srd w d csr) :=
  roundTrip_of rfl rfl rfl (fun h => by simp [decodePage, decodePage0])
theorem Laws.RoundTrip.swr (w : Pre) (d : GReg) (csr : BitVec 10) : Statement (.swr w d csr) :=
  roundTrip_of rfl rfl rfl (fun h => by simp [decodePage, decodePage0])
theorem Laws.RoundTrip.ssb (w : Pre) (d : GReg) (csr : BitVec 10) : Statement (.ssb w d csr) :=
  roundTrip_of rfl rfl rfl (fun h => by simp [decodePage, decodePage0])
theorem Laws.RoundTrip.scb (w : Pre) (d : GReg) (csr : BitVec 10) : Statement (.scb w d csr) :=
  roundTrip_of rfl rfl rfl (fun h => by simp [decodePage, decodePage0])
theorem Laws.RoundTrip.cmit (w : Pre) : Statement (.cmit w) :=
  roundTrip_of rfl rfl rfl (fun h => by simp [decodePage, decodePage0])
theorem Laws.RoundTrip.mver (w : Pre) : Statement (.mver w) :=
  roundTrip_of rfl rfl rfl (fun h => by simp [decodePage, decodePage0, Base.imm10])
theorem Laws.RoundTrip.gpub (w : Pre) : Statement (.gpub w) :=
  roundTrip_of rfl rfl rfl (fun h => by simp [decodePage, decodePage0, Base.imm10])
theorem Laws.RoundTrip.grev (w : Pre) : Statement (.grev w) :=
  roundTrip_of rfl rfl rfl (fun h => by simp [decodePage, decodePage0, Base.imm10])
theorem Laws.RoundTrip.spgd (w : Pre) : Statement (.spgd w) :=
  roundTrip_of rfl rfl rfl (fun h => by simp [decodePage, decodePage0, Base.imm10])
theorem Laws.RoundTrip.brk (w : Pre) (code : BitVec 16) : Statement (.brk w code) :=
  roundTrip_of rfl rfl rfl (fun h => by simp [decodePage, decodePage0])
theorem Laws.RoundTrip.fadd (w : Pre) (dbl : Bool) (d a b : FReg) : Statement (.fadd w dbl d a b) :=
  roundTrip_of rfl rfl rfl (fun h => by cases dbl <;> simp [decodePage, decodePage1, fDbl])
theorem Laws.RoundTrip.fsub (w : Pre) (dbl : Bool) (d a b : FReg) : Statement (.fsub w dbl d a b) :=
  roundTrip_of rfl rfl rfl (fun h => by cases dbl <;> simp [decodePage, decodePage1, fDbl])
theorem Laws.RoundTrip.fmul (w : Pre) (dbl : Bool) (d a b : FReg) : Statement (.fmul w dbl d a b) :=
  roundTrip_of rfl rfl rfl (fun h => by cases dbl <;> simp [decodePage, decodePage1, fDbl])
theorem Laws.RoundTrip.fdiv (w : Pre) (dbl : Bool) (d a b : FReg) : Statement (.fdiv w dbl d a b) :=
  roundTrip_of rfl rfl rfl (fun h => by cases dbl <;> simp [decodePage, decodePage1, fDbl])
theorem Laws.RoundTrip.fmin (w : Pre) (dbl : Bool) (d a b : FReg) : Statement (.fmin w dbl d a b) :=
  roundTrip_of rfl rfl rfl (fun h => by cases dbl <;> simp [decodePage, decodePage1, fDbl])
theorem Laws.RoundTrip.fmax (w : Pre) (dbl : Bool) (d a b : FReg) : Statement (.fmax w dbl d a b) :=
  roundTrip_of rfl rfl rfl (fun h => by cases dbl <;> simp [decodePage, decodePage1, fDbl])
theorem Laws.RoundTrip.fsqrt (w : Pre) (dbl : Bool) (d a : FReg) : Statement (.fsqrt w dbl d a) :=
  roundTrip_of rfl rfl rfl (fun h => by cases dbl <;> simp [decodePage, decodePage1, fDbl])
theorem Laws.RoundTrip.fma (w : Pre) (dbl : Bool) (d a b : FReg) : Statement (.fma w dbl d a b) :=
  roundTrip_of rfl rfl rfl (fun h => by cases dbl <;> simp [decodePage, decodePage1, fDbl])
theorem Laws.RoundTrip.fms (w : Pre) (dbl : Bool) (d a b : FReg) : Statement (.fms w dbl d a b) :=
  roundTrip_of rfl rfl rfl (fun h => by cases dbl <;> simp [decodePage, decodePage1, fDbl])
theorem Laws.RoundTrip.fnma (w : Pre) (dbl : Bool) (d a b : FReg) : Statement (.fnma w dbl d a b) :=
  roundTrip_of rfl rfl rfl (fun h => by cases dbl <;> simp [decodePage, decodePage1, fDbl])
theorem Laws.RoundTrip.fnms (w : Pre) (dbl : Bool) (d a b : FReg) : Statement (.fnms w dbl d a b) :=
  roundTrip_of rfl rfl rfl (fun h => by cases dbl <;> simp [decodePage, decodePage1, fDbl])
theorem Laws.RoundTrip.fcmp (w : Pre) (dbl : Bool) (c : FCond) (p : PReg) (a b : FReg) : Statement (.fcmp w dbl c p a b) :=
  roundTrip_of rfl rfl rfl (fun h => by cases dbl <;> cases c <;> simp [decodePage, decodePage1, fDbl, FCond.code, FCond.ofCode])
theorem Laws.RoundTrip.fcvt (w : Pre) (k : Cvt) (d a : Scalar) : Statement (.fcvt w k d a) :=
  roundTrip_of rfl rfl rfl (fun h => by cases k <;> cases d <;> cases a <;> simp [Instr.formOk, Cvt.fits] at h <;> simp [decodePage, decodePage1, Cvt.code, Scalar.code, Cvt.ofCode, scalar?])
theorem Laws.RoundTrip.fcls (w : Pre) (dbl : Bool) (d : GReg) (a : FReg) : Statement (.fcls w dbl d a) :=
  roundTrip_of rfl rfl rfl (fun h => by cases dbl <;> simp [decodePage, decodePage1, fDbl])
theorem Laws.RoundTrip.fmv (w : Pre) (dbl : Bool) (d a : FReg) : Statement (.fmv w dbl d a) :=
  roundTrip_of rfl rfl rfl (fun h => by cases dbl <;> simp [decodePage, decodePage1, fDbl])
theorem Laws.RoundTrip.fneg (w : Pre) (dbl : Bool) (d a : FReg) : Statement (.fneg w dbl d a) :=
  roundTrip_of rfl rfl rfl (fun h => by cases dbl <;> simp [decodePage, decodePage1, fDbl])
theorem Laws.RoundTrip.fabs (w : Pre) (dbl : Bool) (d a : FReg) : Statement (.fabs w dbl d a) :=
  roundTrip_of rfl rfl rfl (fun h => by cases dbl <;> simp [decodePage, decodePage1, fDbl])
theorem Laws.RoundTrip.fcpys (w : Pre) (dbl : Bool) (d a b : FReg) : Statement (.fcpys w dbl d a b) :=
  roundTrip_of rfl rfl rfl (fun h => by cases dbl <;> simp [decodePage, decodePage1, fDbl])
theorem Laws.RoundTrip.tbld (w : Pre) (slotB : Bool) (twos : Bool) (a : GReg) : Statement (.tbld w slotB twos a) :=
  roundTrip_of rfl rfl rfl (fun h => by cases slotB <;> cases twos <;> simp [decodePage, decodePage1])
theorem Laws.RoundTrip.enc (w : Pre) (t : TableSel) (inf : Bool) (d : GReg) (a : FReg) : Statement (.enc w t inf d a) :=
  roundTrip_of rfl rfl rfl (fun h => by simp [decodePage, decodePage1])
theorem Laws.RoundTrip.dec (w : Pre) (t : TableSel) (d : FReg) (a : GReg) : Statement (.dec w t d a) :=
  roundTrip_of rfl rfl rfl (fun h => by simp [decodePage, decodePage1])
theorem Laws.RoundTrip.scal (w : Pre) (d : GReg) (a : FReg) : Statement (.scal w d a) :=
  roundTrip_of rfl rfl rfl (fun h => by simp [decodePage, decodePage1])
theorem Laws.RoundTrip.vadd (w : Pre) (t : ElemTy) (d a : VReg) (b : VSrc) : Statement (.vadd w t d a b) :=
  roundTrip_of rfl rfl rfl (fun h => by have hb := vsrc_code (t := t) (b := b) (by simp [Instr.formOk] at h; simp [h]); simp [decodePage, decodePage2, hb])
theorem Laws.RoundTrip.vsub (w : Pre) (t : ElemTy) (d a : VReg) (b : VSrc) : Statement (.vsub w t d a b) :=
  roundTrip_of rfl rfl rfl (fun h => by have hb := vsrc_code (t := t) (b := b) (by simp [Instr.formOk] at h; simp [h]); simp [decodePage, decodePage2, hb])
theorem Laws.RoundTrip.vmul (w : Pre) (t : ElemTy) (d a : VReg) (b : VSrc) : Statement (.vmul w t d a b) :=
  roundTrip_of rfl rfl rfl (fun h => by have hb := vsrc_code (t := t) (b := b) (by simp [Instr.formOk] at h; simp [h]); simp [decodePage, decodePage2, hb])
theorem Laws.RoundTrip.vfma (w : Pre) (t : ElemTy) (d a : VReg) (b : VSrc) : Statement (.vfma w t d a b) :=
  roundTrip_of rfl rfl rfl (fun h => by have hb := vsrc_code (t := t) (b := b) (by simp [Instr.formOk] at h; simp [h]); simp [decodePage, decodePage2, hb])
theorem Laws.RoundTrip.vmin (w : Pre) (t : ElemTy) (d a : VReg) (b : VSrc) : Statement (.vmin w t d a b) :=
  roundTrip_of rfl rfl rfl (fun h => by have hb := vsrc_code (t := t) (b := b) (by simp [Instr.formOk] at h; simp [h]); simp [decodePage, decodePage2, hb])
theorem Laws.RoundTrip.vmax (w : Pre) (t : ElemTy) (d a : VReg) (b : VSrc) : Statement (.vmax w t d a b) :=
  roundTrip_of rfl rfl rfl (fun h => by have hb := vsrc_code (t := t) (b := b) (by simp [Instr.formOk] at h; simp [h]); simp [decodePage, decodePage2, hb])
theorem Laws.RoundTrip.vand (w : Pre) (t : ElemTy) (d a : VReg) (b : VSrc) : Statement (.vand w t d a b) :=
  roundTrip_of rfl rfl rfl (fun h => by have hb := vsrc_code (t := t) (b := b) (by simp [Instr.formOk] at h; simp [h]); simp [decodePage, decodePage2, hb])
theorem Laws.RoundTrip.vor (w : Pre) (t : ElemTy) (d a : VReg) (b : VSrc) : Statement (.vor w t d a b) :=
  roundTrip_of rfl rfl rfl (fun h => by have hb := vsrc_code (t := t) (b := b) (by simp [Instr.formOk] at h; simp [h]); simp [decodePage, decodePage2, hb])
theorem Laws.RoundTrip.vxor (w : Pre) (t : ElemTy) (d a : VReg) (b : VSrc) : Statement (.vxor w t d a b) :=
  roundTrip_of rfl rfl rfl (fun h => by have hb := vsrc_code (t := t) (b := b) (by simp [Instr.formOk] at h; simp [h]); simp [decodePage, decodePage2, hb])
theorem Laws.RoundTrip.vshl (w : Pre) (t : ElemTy) (d a : VReg) (b : VSrc) : Statement (.vshl w t d a b) :=
  roundTrip_of rfl rfl rfl (fun h => by have hb := vsrc_code (t := t) (b := b) (by simp [Instr.formOk] at h; simp [h]); simp [decodePage, decodePage2, hb])
theorem Laws.RoundTrip.vshr (w : Pre) (t : ElemTy) (d a : VReg) (b : VSrc) : Statement (.vshr w t d a b) :=
  roundTrip_of rfl rfl rfl (fun h => by have hb := vsrc_code (t := t) (b := b) (by simp [Instr.formOk] at h; simp [h]); simp [decodePage, decodePage2, hb])
theorem Laws.RoundTrip.vsar (w : Pre) (t : ElemTy) (d a : VReg) (b : VSrc) : Statement (.vsar w t d a b) :=
  roundTrip_of rfl rfl rfl (fun h => by have hb := vsrc_code (t := t) (b := b) (by simp [Instr.formOk] at h; simp [h]); simp [decodePage, decodePage2, hb])
theorem Laws.RoundTrip.vcmp (w : Pre) (t : ElemTy) (c : VCond) (m : MReg) (a : VReg) (b : VSrc) : Statement (.vcmp w t c m a b) :=
  roundTrip_of rfl rfl rfl (fun h => by have hb := vsrc_code (t := t) (b := b) (by simp [Instr.formOk] at h; simp [h]); simp [decodePage, decodePage2, hb])
theorem Laws.RoundTrip.vsel (w : Pre) (t : ElemTy) (d a : VReg) (b : VSrc) : Statement (.vsel w t d a b) :=
  roundTrip_of rfl rfl rfl (fun h => by have hb := vsrc_code (t := t) (b := b) (by simp [Instr.formOk] at h; simp [h]); simp [decodePage, decodePage2, hb])
theorem Laws.RoundTrip.vcvt (w : Pre) (dst src : ElemTy) (d a : VReg) : Statement (.vcvt w dst src d a) :=
  roundTrip_of rfl rfl rfl (fun h => by simp [decodePage, decodePage2])
theorem Laws.RoundTrip.vabs (w : Pre) (t : ElemTy) (d a : VReg) : Statement (.vabs w t d a) :=
  roundTrip_of rfl rfl rfl (fun h => by simp [decodePage, decodePage2])
theorem Laws.RoundTrip.vneg (w : Pre) (t : ElemTy) (d a : VReg) : Statement (.vneg w t d a) :=
  roundTrip_of rfl rfl rfl (fun h => by simp [decodePage, decodePage2])
theorem Laws.RoundTrip.vred (w : Pre) (t : ElemTy) (o : RedOp) (d : Scalar) (a : VReg) : Statement (.vred w t o d a) :=
  roundTrip_of rfl rfl rfl (fun h => by have hb := scalar_fits (t := t) (x := d) (by simp [Instr.formOk] at h; simp [h]); simp [decodePage, decodePage2, hb])
theorem Laws.RoundTrip.vbc (w : Pre) (t : ElemTy) (d : VReg) (a : Scalar) : Statement (.vbc w t d a) :=
  roundTrip_of rfl rfl rfl (fun h => by have hb := scalar_fits (t := t) (x := a) (by simp [Instr.formOk] at h; simp [h]); simp [decodePage, decodePage2, hb])
theorem Laws.RoundTrip.vperm (w : Pre) (t : ElemTy) (d a b : VReg) : Statement (.vperm w t d a b) :=
  roundTrip_of rfl rfl rfl (fun h => by simp [decodePage, decodePage2])
theorem Laws.RoundTrip.vsld (w : Pre) (t : ElemTy) (d a : VReg) (b : GReg) : Statement (.vsld w t d a b) :=
  roundTrip_of rfl rfl rfl (fun h => by simp [decodePage, decodePage2])
theorem Laws.RoundTrip.vins (w : Pre) (t : ElemTy) (d : VReg) (a : Scalar) (b : GReg) : Statement (.vins w t d a b) :=
  roundTrip_of rfl rfl rfl (fun h => by have hb := scalar_fits (t := t) (x := a) (by simp [Instr.formOk] at h; simp [h]); simp [decodePage, decodePage2, hb])
theorem Laws.RoundTrip.vext (w : Pre) (t : ElemTy) (d : Scalar) (a : VReg) (b : GReg) : Statement (.vext w t d a b) :=
  roundTrip_of rfl rfl rfl (fun h => by have hb := scalar_fits (t := t) (x := d) (by simp [Instr.formOk] at h; simp [h]); simp [decodePage, decodePage2, hb])
theorem Laws.RoundTrip.vld (w : Pre) (t : ElemTy) (d : VReg) (a : GReg) : Statement (.vld w t d a) :=
  roundTrip_of rfl rfl rfl (fun h => by simp [decodePage, decodePage2])
theorem Laws.RoundTrip.vst (w : Pre) (t : ElemTy) (d : VReg) (a : GReg) : Statement (.vst w t d a) :=
  roundTrip_of rfl rfl rfl (fun h => by simp [decodePage, decodePage2])
theorem Laws.RoundTrip.vlds (w : Pre) (t : ElemTy) (d : VReg) (a b : GReg) : Statement (.vlds w t d a b) :=
  roundTrip_of rfl rfl rfl (fun h => by simp [decodePage, decodePage2])
theorem Laws.RoundTrip.vsts (w : Pre) (t : ElemTy) (d : VReg) (a b : GReg) : Statement (.vsts w t d a b) :=
  roundTrip_of rfl rfl rfl (fun h => by simp [decodePage, decodePage2])
theorem Laws.RoundTrip.vgth (w : Pre) (t : ElemTy) (d : VReg) (a : GReg) (b : VReg) : Statement (.vgth w t d a b) :=
  roundTrip_of rfl rfl rfl (fun h => by simp [decodePage, decodePage2])
theorem Laws.RoundTrip.vsct (w : Pre) (t : ElemTy) (d : VReg) (a : GReg) (b : VReg) : Statement (.vsct w t d a b) :=
  roundTrip_of rfl rfl rfl (fun h => by simp [decodePage, decodePage2])
theorem Laws.RoundTrip.vdotqq (w : Pre) (t : TableSel) (d : FReg) (a b : VReg) : Statement (.vdotqq w t d a b) :=
  roundTrip_of rfl rfl rfl (fun h => by simp [decodePage, decodePage2])
theorem Laws.RoundTrip.vdothh (w : Pre) (d : FReg) (a b : VReg) : Statement (.vdothh w d a b) :=
  roundTrip_of rfl rfl rfl (fun h => by simp [decodePage, decodePage2])
theorem Laws.RoundTrip.vdotnn (w : Pre) (t : TableSel) (d : FReg) (a b : VReg) : Statement (.vdotnn w t d a b) :=
  roundTrip_of rfl rfl rfl (fun h => by simp [decodePage, decodePage2])
theorem Laws.RoundTrip.vtopk (w : Pre) (t : ElemTy) (d a : VReg) (b : GReg) : Statement (.vtopk w t d a b) :=
  roundTrip_of rfl rfl rfl (fun h => by simp [decodePage, decodePage2])
theorem Laws.RoundTrip.venc (w : Pre) (t : TableSel) (inf : Bool) (d a : VReg) : Statement (.venc w t inf d a) :=
  roundTrip_of rfl rfl rfl (fun h => by simp [decodePage, decodePage2])
theorem Laws.RoundTrip.vdec (w : Pre) (t : TableSel) (d a : VReg) : Statement (.vdec w t d a) :=
  roundTrip_of rfl rfl rfl (fun h => by simp [decodePage, decodePage2])
theorem Laws.RoundTrip.vsfu (w : Pre) (fn : SfuFn) (d a : VReg) : Statement (.vsfu w fn d a) :=
  roundTrip_of rfl rfl rfl (fun h => by simp [decodePage, decodePage2])
theorem Laws.RoundTrip.strmOn (w : Pre) (d : Fin 4) (a : GReg) : Statement (.strmOn w d a) := by
  obtain ⟨d, hd⟩ := d
  have e : d = 0 ∨ d = 1 ∨ d = 2 ∨ d = 3 := by omega
  rcases e with rfl | rfl | rfl | rfl <;> exact roundTrip_of rfl rfl rfl (fun h => by simp [decodePage, decodePage2])
theorem Laws.RoundTrip.strmOff (w : Pre) (d : Fin 4) : Statement (.strmOff w d) := by
  obtain ⟨d, hd⟩ := d
  have e : d = 0 ∨ d = 1 ∨ d = 2 ∨ d = 3 := by omega
  rcases e with rfl | rfl | rfl | rfl <;> exact roundTrip_of rfl rfl rfl (fun h => by simp [decodePage, decodePage2])
theorem Laws.RoundTrip.vmsk (w : Pre) (o : MaskOp) (d a b : MReg) : Statement (.vmsk w o d a b) :=
  roundTrip_of rfl rfl rfl (fun h => by simp [decodePage, decodePage2])
theorem Laws.RoundTrip.mmaqq (w : Pre) (d a : GReg) : Statement (.mmaqq w d a) :=
  roundTrip_of rfl rfl rfl (fun h => by simp [decodePage, decodePage3])
theorem Laws.RoundTrip.mmahh (w : Pre) (d a : GReg) : Statement (.mmahh w d a) :=
  roundTrip_of rfl rfl rfl (fun h => by simp [decodePage, decodePage3])
theorem Laws.RoundTrip.mmann (w : Pre) (d a : GReg) : Statement (.mmann w d a) :=
  roundTrip_of rfl rfl rfl (fun h => by simp [decodePage, decodePage3])
theorem Laws.RoundTrip.mzero (w : Pre) (a : GReg) : Statement (.mzero w a) :=
  roundTrip_of rfl rfl rfl (fun h => by simp [decodePage, decodePage3])
theorem Laws.RoundTrip.mwait (w : Pre) (d a : GReg) : Statement (.mwait w d a) :=
  roundTrip_of rfl rfl rfl (fun h => by simp [decodePage, decodePage3])
theorem Laws.RoundTrip.mpoll (w : Pre) (d a : GReg) : Statement (.mpoll w d a) :=
  roundTrip_of rfl rfl rfl (fun h => by simp [decodePage, decodePage3])
theorem Laws.RoundTrip.mtbl (w : Pre) (pair : Fin 4) (a : GReg) : Statement (.mtbl w pair a) :=
  roundTrip_of rfl rfl rfl (fun h => by
    simp [decodePage, decodePage3]
    exact Fin.ext (Nat.mod_eq_of_lt pair.isLt))
theorem Laws.RoundTrip.mlsf (w : Pre) (d : VReg) (a b : GReg) : Statement (.mlsf w d a b) :=
  roundTrip_of rfl rfl rfl (fun h => by simp [decodePage, decodePage3])
theorem Laws.RoundTrip.mst (w : Pre) (d a b : GReg) : Statement (.mst w d a b) :=
  roundTrip_of rfl rfl rfl (fun h => by simp [decodePage, decodePage3])
theorem Laws.RoundTrip.copy (w : Pre) (d a : GReg) : Statement (.copy w d a) :=
  roundTrip_of rfl rfl rfl (fun h => by simp [decodePage, decodePage3])
theorem Laws.RoundTrip.cwait (w : Pre) (d a : GReg) : Statement (.cwait w d a) :=
  roundTrip_of rfl rfl rfl (fun h => by simp [decodePage, decodePage3])
theorem Laws.RoundTrip.cpoll (w : Pre) (d a : GReg) : Statement (.cpoll w d a) :=
  roundTrip_of rfl rfl rfl (fun h => by simp [decodePage, decodePage3])
theorem Laws.RoundTrip.bwait (w : Pre) (st : HandleState) (a : GReg) : Statement (.bwait w st a) :=
  roundTrip_of rfl rfl rfl (fun h => by simp [decodePage, decodePage3])
theorem Laws.RoundTrip.bset (w : Pre) (st : HandleState) (a : GReg) : Statement (.bset w st a) :=
  roundTrip_of rfl rfl rfl (fun h => by simp [decodePage, decodePage3])
theorem Laws.RoundTrip.bstat (w : Pre) (d a : GReg) : Statement (.bstat w d a) :=
  roundTrip_of rfl rfl rfl (fun h => by simp [decodePage, decodePage3])
theorem Laws.RoundTrip.gcall (w : Pre) (d a b : Fin 32) : Statement (.gcall w d a b) :=
  roundTrip_of rfl rfl rfl (fun h => by simp [decodePage, decodePage4])
theorem Laws.RoundTrip.gret (w : Pre) : Statement (.gret w) :=
  roundTrip_of rfl rfl rfl (fun h => by simp [decodePage, decodePage4])
theorem Laws.RoundTrip.dsr (w : Pre) (d a : GReg) (f : BitVec 4) : Statement (.dsr w d a f) :=
  roundTrip_of rfl rfl rfl (fun h => by simp [decodePage, decodePage4])
theorem Laws.RoundTrip.cue (w : Pre) (d : GReg) (a : Fin 32) : Statement (.cue w d a) :=
  roundTrip_of rfl rfl rfl (fun h => by simp [decodePage, decodePage4])
theorem Laws.RoundTrip.emit (w : Pre) (a b : GReg) : Statement (.emit w a b) :=
  roundTrip_of rfl rfl rfl (fun h => by simp [decodePage, decodePage4])
theorem Laws.RoundTrip.rng (w : Pre) (d a b : GReg) : Statement (.rng w d a b) :=
  roundTrip_of rfl rfl rfl (fun h => by simp [decodePage, decodePage4])
theorem Laws.RoundTrip.hpost (w : Pre) (a : GReg) (b : Fin 32) : Statement (.hpost w a b) :=
  roundTrip_of rfl rfl rfl (fun h => by simp [decodePage, decodePage4])
theorem Laws.RoundTrip.mret (w : Pre) : Statement (.mret w) :=
  roundTrip_of rfl rfl rfl (fun h => by simp [decodePage, decodePage4])
theorem Laws.RoundTrip.invpg (w : Pre) (a b : GReg) : Statement (.invpg w a b) :=
  roundTrip_of rfl rfl rfl (fun h => by simp [decodePage, decodePage4])
theorem Laws.RoundTrip.keyld (w : Pre) (a b : GReg) : Statement (.keyld w a b) :=
  roundTrip_of rfl rfl rfl (fun h => by simp [decodePage, decodePage4])
theorem Laws.RoundTrip.keyz (w : Pre) (a : GReg) : Statement (.keyz w a) :=
  roundTrip_of rfl rfl rfl (fun h => by simp [decodePage, decodePage4])
theorem Laws.RoundTrip.ctxsv (w : Pre) (a b : GReg) : Statement (.ctxsv w a b) :=
  roundTrip_of rfl rfl rfl (fun h => by simp [decodePage, decodePage4])
theorem Laws.RoundTrip.ctxld (w : Pre) (a b : GReg) : Statement (.ctxld w a b) :=
  roundTrip_of rfl rfl rfl (fun h => by simp [decodePage, decodePage4])
theorem Laws.RoundTrip.halt (w : Pre) : Statement (.halt w) :=
  roundTrip_of rfl rfl rfl (fun h => by simp [decodePage, decodePage4])
theorem Laws.RoundTrip.hrel (w : Pre) (a : GReg) : Statement (.hrel w a) :=
  roundTrip_of rfl rfl rfl (fun h => by simp [decodePage, decodePage4])
theorem Laws.RoundTrip.waitpQ (rd : Fin 32) : Statement (.waitpQ rd) := fun h => by cases h
theorem Laws.RoundTrip.waitpGeu (rd rs1 rs2 : Fin 32) : Statement (.waitpGeu rd rs1 rs2) := fun h => by cases h
theorem Laws.RoundTrip.waitpNe (rd rs1 rs2 : Fin 32) : Statement (.waitpNe rd rs1 rs2) := fun h => by cases h
theorem Laws.RoundTrip.messageArrival (i : Nat) : Statement (.messageArrival i) := fun h => by cases h
theorem Laws.RoundTrip.refusalArrival (i : Nat) : Statement (.refusalArrival i) := fun h => by cases h
theorem Laws.RoundTrip.refusalRetry (core : CoreId) : Statement (.refusalRetry core) := fun h => by cases h
theorem Laws.RoundTrip.activationStart (core : CoreId) : Statement (.activationStart core) := fun h => by cases h
theorem Laws.RoundTrip.theftAttempt (core : CoreId) : Statement (.theftAttempt core) := fun h => by cases h
theorem Laws.RoundTrip.activationEnd (core : CoreId) (ctx : CtxId) : Statement (.activationEnd core ctx) := fun h => by cases h
theorem Laws.RoundTrip.longResultReturn (core : CoreId) (ctx : BankId) : Statement (.longResultReturn core ctx) := fun h => by cases h
theorem Laws.RoundTrip.storeBufferDrain (core : CoreId) (ctx : BankId) (i : Nat) : Statement (.storeBufferDrain core ctx i) := fun h => by cases h
theorem Laws.RoundTrip.verificationResolve (core : CoreId) (ctx : CtxId) : Statement (.verificationResolve core ctx) := fun h => by cases h
theorem Laws.RoundTrip.outboxSend (core : CoreId) (ctx : CtxId) : Statement (.outboxSend core ctx) := fun h => by cases h
theorem Laws.RoundTrip.streamHalt (core : CoreId) (slot : Fin 64) : Statement (.streamHalt core slot) := fun h => by cases h
theorem Laws.RoundTrip.tdecHome (i : Nat) : Statement (.tdecHome i) := fun h => by cases h
theorem Laws.RoundTrip.fpEvent (core : CoreId) (ctx : CtxId) : Statement (.fpEvent core ctx) := fun h => by cases h
theorem Laws.RoundTrip.fpNoticeRetry (core : CoreId) (ctx : CtxId) : Statement (.fpNoticeRetry core ctx) := fun h => by cases h
theorem Laws.RoundTrip.fpResume (core : CoreId) : Statement (.fpResume core) := fun h => by cases h
theorem Laws.RoundTrip.fpKill (core : CoreId) : Statement (.fpKill core) := fun h => by cases h
theorem Laws.RoundTrip.mmodeEntry (core : CoreId) : Statement (.mmodeEntry core) := fun h => by cases h
theorem Laws.RoundTrip.preemptionNotice (core : CoreId) (mask : BitVec 8) : Statement (.preemptionNotice core mask) := fun h => by cases h
theorem Laws.RoundTrip.pmreqStop (core : CoreId) (mask : BitVec 8) : Statement (.pmreqStop core mask) := fun h => by cases h
theorem Laws.RoundTrip.safePointStop (core : CoreId) (ctx : CtxId) : Statement (.safePointStop core ctx) := fun h => by cases h
theorem Laws.RoundTrip.forcedStop (core : CoreId) : Statement (.forcedStop core) := fun h => by cases h
theorem Laws.RoundTrip.pmreqFree (core : CoreId) (mask : BitVec 8) : Statement (.pmreqFree core mask) := fun h => by cases h
theorem Laws.RoundTrip.budgetExhausted (core : CoreId) : Statement (.budgetExhausted core) := fun h => by cases h
theorem Laws.RoundTrip.budgetWindowStart (region : BitVec 32) : Statement (.budgetWindowStart region) := fun h => by cases h
theorem Laws.RoundTrip.chargeFold (region : BitVec 32) : Statement (.chargeFold region) := fun h => by cases h
theorem Laws.RoundTrip.ceilingExpiry (core : CoreId) (ctx : CtxId) : Statement (.ceilingExpiry core ctx) := fun h => by cases h
theorem Laws.RoundTrip.rollback (core : CoreId) (ctx : CtxId) (persist : Bool) : Statement (.rollback core ctx persist) := fun h => by cases h
theorem Laws.RoundTrip.patrolScrub (pa : Nat) (o : EccOutcome) : Statement (.patrolScrub pa o) := fun h => by cases h
theorem Laws.RoundTrip.matrixJobStart (troupe : TroupeId) : Statement (.matrixJobStart troupe) := fun h => by cases h
theorem Laws.RoundTrip.rowGroupCommit (troupe : TroupeId) (mismatches : Nat) : Statement (.rowGroupCommit troupe mismatches) := fun h => by cases h
theorem Laws.RoundTrip.mzeroEntryRun (troupe : TroupeId) : Statement (.mzeroEntryRun troupe) := fun h => by cases h
theorem Laws.RoundTrip.mtblEntryRun (troupe : TroupeId) : Statement (.mtblEntryRun troupe) := fun h => by cases h
theorem Laws.RoundTrip.mstEntryRun (troupe : TroupeId) : Statement (.mstEntryRun troupe) := fun h => by cases h
theorem Laws.RoundTrip.completionRetry (troupe : TroupeId) : Statement (.completionRetry troupe) := fun h => by cases h
theorem Laws.RoundTrip.enginePageFault (troupe : TroupeId) (copySide : Bool) : Statement (.enginePageFault troupe copySide) := fun h => by cases h
theorem Laws.RoundTrip.faultRewalk (troupe : TroupeId) (copySide : Bool) : Statement (.faultRewalk troupe copySide) := fun h => by cases h
theorem Laws.RoundTrip.faultTimeout (troupe : TroupeId) (copySide : Bool) : Statement (.faultTimeout troupe copySide) := fun h => by cases h
theorem Laws.RoundTrip.faultNoticeRetry (troupe : TroupeId) (copySide : Bool) : Statement (.faultNoticeRetry troupe copySide) := fun h => by cases h
theorem Laws.RoundTrip.copyJobStart (troupe : TroupeId) : Statement (.copyJobStart troupe) := fun h => by cases h
theorem Laws.RoundTrip.copyJobRetire (troupe : TroupeId) (link : LinkAnswer) : Statement (.copyJobRetire troupe link) := fun h => by cases h
theorem Laws.RoundTrip.streamStripFetch (core : CoreId) (ctx : CtxId) (reg : Fin 4) : Statement (.streamStripFetch core ctx reg) := fun h => by cases h
theorem Laws.RoundTrip.pageWalk (core : CoreId) (tag : Tag) (va : Nat) : Statement (.pageWalk core tag va) := fun h => by cases h
theorem Laws.RoundTrip.shootdownGo (cluster : ClusterId) (writer : BlockWriter) (w : Word) : Statement (.shootdownGo cluster writer w) := fun h => by cases h
theorem Laws.RoundTrip.shootdownComplete (cluster : ClusterId) : Statement (.shootdownComplete cluster) := fun h => by cases h
theorem Laws.RoundTrip.cueFlitSend (die : DieId) (slot : Nat) : Statement (.cueFlitSend die slot) := fun h => by cases h
theorem Laws.RoundTrip.cueAck (die : DieId) (slot : Nat) (endpoint : BitVec 48) (m : Nat) : Statement (.cueAck die slot endpoint m) := fun h => by cases h
theorem Laws.RoundTrip.cueFlitResend (die : DieId) (slot : Nat) : Statement (.cueFlitResend die slot) := fun h => by cases h
theorem Laws.RoundTrip.queueDoorbell (q : QueueId) (tail : BitVec 32) : Statement (.queueDoorbell q tail) := fun h => by cases h
theorem Laws.RoundTrip.queueRun (q : QueueId) : Statement (.queueRun q) := fun h => by cases h
theorem Laws.RoundTrip.packetFetch (die : DieId) (q : QueueId) : Statement (.packetFetch die q) := fun h => by cases h
theorem Laws.RoundTrip.launch (die : DieId) (q : QueueId) : Statement (.launch die q) := fun h => by cases h
theorem Laws.RoundTrip.launchRetry (die : DieId) : Statement (.launchRetry die) := fun h => by cases h
theorem Laws.RoundTrip.launchShareComplete (die : DieId) (i : Nat) : Statement (.launchShareComplete die i) := fun h => by cases h
theorem Laws.RoundTrip.cond (die : DieId) (q : QueueId) : Statement (.cond die q) := fun h => by cases h
theorem Laws.RoundTrip.wait (die : DieId) (q : QueueId) : Statement (.wait die q) := fun h => by cases h
theorem Laws.RoundTrip.waitConditionMet (die : DieId) (q : QueueId) : Statement (.waitConditionMet die q) := fun h => by cases h
theorem Laws.RoundTrip.signal (die : DieId) (q : QueueId) : Statement (.signal die q) := fun h => by cases h
theorem Laws.RoundTrip.queueFence (die : DieId) (q : QueueId) : Statement (.queueFence die q) := fun h => by cases h
theorem Laws.RoundTrip.queueFenceComplete (die : DieId) (q : QueueId) : Statement (.queueFenceComplete die q) := fun h => by cases h
theorem Laws.RoundTrip.copyHost (die : DieId) (q : QueueId) (links : List LinkAnswer) : Statement (.copyHost die q links) := fun h => by cases h
theorem Laws.RoundTrip.regionCreate (die : DieId) (q : QueueId) : Statement (.regionCreate die q) := fun h => by cases h
theorem Laws.RoundTrip.regionKill (die : DieId) (q : QueueId) : Statement (.regionKill die q) := fun h => by cases h
theorem Laws.RoundTrip.domainCreate (die : DieId) (q : QueueId) (tag : Tag) : Statement (.domainCreate die q tag) := fun h => by cases h
theorem Laws.RoundTrip.measure (die : DieId) (q : QueueId) : Statement (.measure die q) := fun h => by cases h
theorem Laws.RoundTrip.lock (die : DieId) (q : QueueId) : Statement (.lock die q) := fun h => by cases h
theorem Laws.RoundTrip.start (die : DieId) (q : QueueId) : Statement (.start die q) := fun h => by cases h
theorem Laws.RoundTrip.attest (die : DieId) (q : QueueId) : Statement (.attest die q) := fun h => by cases h
theorem Laws.RoundTrip.teardown (die : DieId) (q : QueueId) : Statement (.teardown die q) := fun h => by cases h
theorem Laws.RoundTrip.scrubPhaseDone (part : PartId) : Statement (.scrubPhaseDone part) := fun h => by cases h
theorem Laws.RoundTrip.register (die : DieId) (q : QueueId) : Statement (.register die q) := fun h => by cases h
theorem Laws.RoundTrip.reassign (die : DieId) (q : QueueId) : Statement (.reassign die q) := fun h => by cases h
theorem Laws.RoundTrip.trunc (die : DieId) (q : QueueId) : Statement (.trunc die q) := fun h => by cases h
theorem Laws.RoundTrip.checkpoint (die : DieId) (q : QueueId) : Statement (.checkpoint die q) := fun h => by cases h
theorem Laws.RoundTrip.checkpointQueueTimeout : Statement (.checkpointQueueTimeout) := fun h => by cases h
theorem Laws.RoundTrip.checkpointManifestAck (accepted : Bool) : Statement (.checkpointManifestAck accepted) := fun h => by cases h
theorem Laws.RoundTrip.summary (die : DieId) (q : QueueId) : Statement (.summary die q) := fun h => by cases h
theorem Laws.RoundTrip.peerCopy (die : DieId) (q : QueueId) : Statement (.peerCopy die q) := fun h => by cases h
theorem Laws.RoundTrip.assign (die : DieId) (q : QueueId) : Statement (.assign die q) := fun h => by cases h
theorem Laws.RoundTrip.setReplay (die : DieId) (q : QueueId) : Statement (.setReplay die q) := fun h => by cases h
theorem Laws.RoundTrip.clearReplay (die : DieId) (q : QueueId) : Statement (.clearReplay die q) := fun h => by cases h
theorem Laws.RoundTrip.completionHeadWrite (q : QueueId) (head : BitVec 32) : Statement (.completionHeadWrite q head) := fun h => by cases h
theorem Laws.RoundTrip.vectorFire (fn : FuncId) (v : Fin 64) : Statement (.vectorFire fn v) := fun h => by cases h
theorem Laws.RoundTrip.hostMemAccess (fn : FuncId) (pa : Nat) (write : Option (List Byte)) (len : Nat) : Statement (.hostMemAccess fn pa write len) := fun h => by cases h
theorem Laws.RoundTrip.flitReceive (link : Fin 16) (seq : BitVec 16) (ack : BitVec 16) (head : FlitHead) (crcOk : Bool) : Statement (.flitReceive link seq ack head crcOk) := fun h => by cases h
theorem Laws.RoundTrip.linkDown (link : Fin 16) : Statement (.linkDown link) := fun h => by cases h
theorem Laws.RoundTrip.peerWrite (link : Fin 16) (tag : Word) (off : Nat) (data : List Byte) : Statement (.peerWrite link tag off data) := fun h => by cases h
theorem Laws.RoundTrip.peerRead (link : Fin 16) (tag : Word) (off : Nat) (len : Nat) : Statement (.peerRead link tag off len) := fun h => by cases h
theorem Laws.RoundTrip.readData (link : Fin 16) (tag : Word) (data : List Byte) : Statement (.readData link tag data) := fun h => by cases h
theorem Laws.RoundTrip.durableAck (link : Fin 16) (tag : Word) : Statement (.durableAck link tag) := fun h => by cases h
theorem Laws.RoundTrip.linkStepGo (link : Fin 16) : Statement (.linkStepGo link) := fun h => by cases h
theorem Laws.RoundTrip.linkStepDone (link : Fin 16) (pass : Bool) (peer : BitVec 48) (profiles : BitVec 3) : Statement (.linkStepDone link pass peer profiles) := fun h => by cases h
theorem Laws.RoundTrip.linkTrainRetry (link : Fin 16) : Statement (.linkTrainRetry link) := fun h => by cases h
theorem Laws.RoundTrip.linkDisable (link : Fin 16) (on : Bool) : Statement (.linkDisable link on) := fun h => by cases h
theorem Laws.RoundTrip.coldStart : Statement (.coldStart) := fun h => by cases h
theorem Laws.RoundTrip.warmPackageReset : Statement (.warmPackageReset) := fun h => by cases h
theorem Laws.RoundTrip.functionLevelReset (part : PartId) : Statement (.functionLevelReset part) := fun h => by cases h
theorem Laws.RoundTrip.railFault : Statement (.railFault) := fun h => by cases h
theorem Laws.RoundTrip.bootRecoveryGo (signed : Bool) : Statement (.bootRecoveryGo signed) := fun h => by cases h
theorem Laws.RoundTrip.hbmStepGo (stack : Fin 12) (step : BitVec 4) : Statement (.hbmStepGo stack step) := fun h => by cases h
theorem Laws.RoundTrip.hbmStepDone (stack : Fin 12) (pass : BitVec 32) (data : List Byte) : Statement (.hbmStepDone stack pass data) := fun h => by cases h
theorem Laws.RoundTrip.hbmRetrain (stack : Fin 12) (channel : Fin 32) : Statement (.hbmRetrain stack channel) := fun h => by cases h
theorem Laws.RoundTrip.troupeAdmission (die : DieId) : Statement (.troupeAdmission die) := fun h => by cases h
theorem Laws.RoundTrip.troupeIdle (troupe : TroupeId) : Statement (.troupeIdle troupe) := fun h => by cases h
theorem Laws.RoundTrip.throttleUpdate (avgw : BitVec 12) : Statement (.throttleUpdate avgw) := fun h => by cases h
theorem Laws.RoundTrip.clusterGateWrite (die : DieId) (w : BitVec 32) : Statement (.clusterGateWrite die w) := fun h => by cases h
theorem Laws.RoundTrip.clusterWake (cluster : ClusterId) : Statement (.clusterWake cluster) := fun h => by cases h
theorem Laws.RoundTrip.windowEnableWrite (core : CoreId) (k : Fin 16) (w : Word) : Statement (.windowEnableWrite core k w) := fun h => by cases h
theorem Laws.RoundTrip.windowBoundWrite (core : CoreId) (k : Fin 16) (limit : Bool) (w : Word) : Statement (.windowBoundWrite core k limit w) := fun h => by cases h
theorem Laws.RoundTrip.errorInjectArm (core : CoreId) (w : Word) : Statement (.errorInjectArm core w) := fun h => by cases h
theorem Laws.RoundTrip.registerWrite (r : RegAddr) (w : Word) : Statement (.registerWrite r w) := fun h => by cases h
theorem Laws.RoundTrip.illegalInstruction (cause : BitVec 8) (tval : Word) : Statement (.illegalInstruction cause tval) := fun h => by cases h
theorem Laws.RoundTrip.fetchFault (cause : BitVec 8) (addr : Word) : Statement (.fetchFault cause addr) := fun h => by cases h
theorem Laws.RoundTrip.mcall (w : Pre) (n : BitVec 10) : Statement (.mcall w n) :=
  roundTrip_of rfl rfl rfl (fun h => by
    simp [Instr.formOk] at h
    simp [decodePage, decodePage0]
    split <;> first | omega | rfl)
theorem Laws.RoundTrip.vectorUnmask (fn : FuncId) (v : Fin 64) : Statement (.vectorUnmask fn v) := fun h => by cases h
theorem Laws.RoundTrip.clusterSupplySettled (cluster : ClusterId) : Statement (.clusterSupplySettled cluster) := fun h => by cases h
theorem Laws.RoundTrip.memoryClearComplete : Statement (.memoryClearComplete) := fun h => by cases h

end Sys2Proof
end

