-- ==== Sys2Proof/Safety.lean ====
section
/-!
DEFINITION. What a safe state and a safe run are, and the words the statements use: the checks an instruction has
passed, the address it goes on at, its completion, and what two states have in common.
-/

namespace Sys2Proof

open Machine

/-! ### Safe states and runs -/

/-- The machine's memories are in canonical form: physical memory, the scratchpads, the accumulator memories, the SRAM of the
stage managers, the area peers reach. The training results an HBM stack keeps for its firmware (R341) are not among them. -/
def Safe.memories (s : State) : Prop :=
  s.mem.wf = true ∧ (∀ e ∈ s.cores, e.2.scratch.wf = true) ∧ (∀ e ∈ s.troupes, e.2.acc.wf = true) ∧
    (∀ d : DieId, s.dies[d].sram.wf = true) ∧ s.host.area.wf = true

/-- A step that stops neither with a fault nor with a refusal. -/
def Safe.goesOn (s : State) : Prop := ∃ s', step s = .next s'

/-- n steps that all go on. -/
def Safe.run : Nat → State → Prop
  | 0, _ => True
  | n + 1, s => ∃ s', step s = .next s' ∧ Safe.run n s'

end Sys2Proof

namespace Sys2Proof.Machine

/-! ### An instruction that completes -/

/-- The checks before an instruction's own effect pass and its guard holds: M mode has no page 1 to 3 and alone runs
M-mode instructions (R53, R213), every port named is present (R42), no operand waits for a result (R48), the followers
of a gang have room (R152), the guard is true (R44), ports are ready and their words are of the reader's domain (R42). -/
def Runs (i : Instr) (w : Pre) (u : Uses) (s : State) : Prop :=
  (s.mMode && (match i.page? with | some p => 1 ≤ p && p ≤ 3 | none => false)) = false ∧
    (u.priv && !s.mMode) = false ∧
    s.absentPort u = none ∧
    hazard w u s.me.pending = none ∧
    s.queuesOpen = true ∧
    w.holds s.regs = true ∧
    s.portsReady u = true ∧
    (s.readSrcs u.srcs).2.2 = none

/-- The checks of R53 and R152 that stand before the guard, passed. -/
def Checked (i : Instr) (w : Pre) (u : Uses) (s : State) : Prop :=
  (s.mMode && (match i.page? with | some p => 1 ≤ p && p ≤ 3 | none => false)) = false ∧
    (u.priv && !s.mMode) = false ∧
    s.absentPort u = none ∧
    hazard w u s.me.pending = none ∧
    s.queuesOpen = true

/-- The values of the g-file sources in field order. -/
def State.vals (s : State) (u : Uses) : List Word := (s.readSrcs u.srcs).2.1

/-- The state once the sources are read: port words are popped, and an instruction that names a port ends
restorability (R42). -/
def State.opened (s : State) (u : Uses) : State :=
  let s1 := (s.readSrcs u.srcs).1
  if (portsOf (u.srcs ++ u.dst.toList)).isEmpty then s1 else s1.noRestore

/-- No wait is left and the context may issue. -/
def State.readied (s : State) : State := s.updMe (fun x => { x with wait := none, state := .ready })

/-- The address GO, GOC and CALL choose: the displacement of PFX.N from the instruction, or t0 (R43). -/
def targetOf (w : Pre) (r : Regs) (pc : Word) : Word :=
  match dispValue w.chain with | some d => pc + (d <<< 1) | none => r.t0

/-- The selector of a word at `pc` has somewhere to go from the registers an effect leaves (R37, R43): a jump goes to an
even address, CALL and RET stay within the link stack, the last pass of a loop finds its frame, an END stands outside
gate calls with no guard fault to report (R25, R229). -/
def NextKnown (w : Pre) (pc : Word) (s : State) : Prop :=
  let r := s.regs
  let t := targetOf w r pc
  match w.nx with
  | .seq => True
  | .fin => s.mMode = false ∧ r.dom = [] ∧ r.guardPending = false
  | .go => bit t 0 = false
  | .goc => (r.getP w.gocPred.1 != w.gocPred.2) = true → bit t 0 = false
  | .loop => if r.lc.toNat ≤ 1 then r.pfloor < r.loops.length else bit r.ls 0 = false
  | .call => r.link.length < 8 ∧ bit t 0 = false
  | .ret => r.lfloor < r.link.length ∧ bit (r.link.headD 0) 0 = false

/-- The instruction completes from s, its own effect having left e: the selector chooses the next address and it
retires (R43, R46). -/
def Completes (i : Instr) (w : Pre) (u : Uses) (s e : State) : Prop :=
  ∃ n, e.readied.select w s.regs.pc = .ok n ∧
    exec i s = .next (n.retire i w (if u.late then u.writes else []) (u.late && !u.own) s.regs.pc s.followers)

/-- An instruction that passes its checks has the effect that leaves e, and completes wherever its selector has
somewhere to go. -/
def Gives (i : Instr) (w : Pre) (u : Uses) (s e : State) : Prop :=
  Runs i w u s → NextKnown w s.regs.pc e → Completes i w u s e

/-- The same for an instruction that chooses its next address itself (R45). -/
def Goes (i : Instr) (w : Pre) (u : Uses) (s e : State) : Prop :=
  Runs i w u s →
    exec i s = .next (e.readied.retire i w (if u.late then u.writes else []) (u.late && !u.own) s.regs.pc s.followers)

/-- An instruction that passes its checks traps in place of its effect: the state before it, and the trap (R26). -/
def Traps (i : Instr) (w : Pre) (u : Uses) (s : State) (cause : BitVec 8) (value : Word) : Prop :=
  Runs i w u s → exec i s = .next (s.takeTrap cause value)

/-- An instruction that passes its checks waits: nothing of its effect has happened and it is issued again (R370). -/
def Waits (i : Instr) (w : Pre) (u : Uses) (s : State) : Prop :=
  Runs i w u s → exec i s = .next (s.block (.reissue false))

/-- A failed guard: the instruction does nothing but move the pc to the next instruction and retire (R44). -/
def Skips (i : Instr) (w : Pre) (u : Uses) (s : State) : Prop :=
  Checked i w u s → w.holds s.regs = false →
    exec i s = .next ((s.readied.updRegs (fun r => { r with pc := s.regs.pc + BitVec.ofNat 64 w.size })).retire i w [] false
      s.regs.pc s.followers)

/-- A trap of the selector leaves nothing of an instruction whose effect would leave e (R44). -/
def PreciseNx (i : Instr) (w : Pre) (u : Uses) (s e : State) : Prop :=
  Runs i w u s → ∀ c v, e.readied.select w s.regs.pc = .error (.trap c v) → exec i s = .next (s.takeTrap c v)

/-- The state in which a bank's instruction executes: the move is taken from the agenda, the bank's place is the core's last to
issue and it has the turn (R17). -/
def State.issuing (s : State) (rest : List Move) (c : CoreId) (k : CtxId) (b : BankId) : State :=
  (({ s with agenda := rest } : State).updCore c (fun q => { q with lastIssue := k })).onBank c b

/-! ### What two states have in common -/

/-- A byte of a place as memory holds it: physical memory, a scratchpad, an accumulator memory. -/
def State.byteAt (s : State) (p : Place) : Byte :=
  match p with
  | .phys a => s.mem.read a
  | .scratch c o => (s.core c).scratch.read o
  | .acc t o => (s.troupe t).acc.read o

/-- The registers that the selector, retirement and a gang's bookkeeping may change, put aside. -/
def Regs.kept (r : Regs) : Regs :=
  { r with pc := 0, lc := 0, ls := 0, link := [], loops := [], instret := 0, gstat := .none }

/-- t differs from s in no byte of memory, in no register of any context but those the selector and retirement write
(the executing bank's pc, lc, ls, link stack, loop stack and instret, and gang positions), in no port word, no engine,
no cluster, die or host register, and in no core's state of any domain. -/
structure SameButNext (s t : State) : Prop where
  turn : t.turn = s.turn
  bytes : ∀ p, t.byteAt p = s.byteAt p
  mine : t.regs.kept = s.regs.kept
  others : ∀ c k, ¬(c = s.turn.core ∧ k = s.turn.ctx) → { (t.ctx c k).regs with gstat := Gstat.none } = { (s.ctx c k).regs with gstat := Gstat.none }
  stores : t.me.storeBuf = s.me.storeBuf
  sends : t.me.outbox = s.me.outbox
  ports : ∀ c, (t.core c).ports = (s.core c).ports
  devices : t.clusters = s.clusters ∧ t.dies = s.dies ∧ t.host = s.host ∧ t.partitions = s.partitions
  engines : t.troupes = s.troupes
  domains : ∀ c a, t.dom c a = s.dom c a

/-- t differs from s in the executing bank's context at most: no byte of memory, no other context, no port, engine, device
or domain. -/
structure OnlyMine (s t : State) : Prop where
  turn : t.turn = s.turn
  bytes : ∀ p, t.byteAt p = s.byteAt p
  others : ∀ c k, ¬(c = s.turn.core ∧ k = s.turn.ctx) → t.ctx c k = s.ctx c k
  ports : ∀ c, (t.core c).ports = (s.core c).ports
  devices : t.clusters = s.clusters ∧ t.dies = s.dies ∧ t.host = s.host ∧ t.partitions = s.partitions
  engines : t.troupes = s.troupes
  domains : ∀ c a, t.dom c a = s.dom c a

/-! ### Memory as a thread sees it -/

/-- The byte n bytes on. -/
def Place.plus (p : Place) (n : Nat) : Place :=
  match p with
  | .phys a => .phys (a + n)
  | .scratch c o => .scratch c (o + n)
  | .acc t o => .acc t (o + n)

/-- A byte as the executing thread sees it: the latest its own stores give, else the one memory holds (R86). -/
def State.seen (s : State) (p : Place) : Byte := (s.me.buffered p 0).getD (s.byteAt p)

/-- The lines of n bytes at a physical address stand under the key of a write for a tag, or plain for a write without one;
the line's engine holds a protected write's key (R240, R284). Elsewhere the rest of a line is ciphertext to the writer. -/
def State.keyStands (s : State) (a n : Nat) (prot : Option Tag) : Prop :=
  (∀ t, prot = some t → (s.engineKey a t).isSome = true) ∧
    ∀ line ∈ linesOf a n, ∀ l, lookup s.lines line = some l → l.writer = prot.bind (fun t => s.engineKey a t)

/-- The bytes of a store reach the place: they are the ones written there, low byte first, and no other byte changes
(R5). -/
def Stored (before after : Place → Byte) (p : Place) (bs : List Byte) : Prop :=
  (∀ i, (h : i < bs.length) → after (p.plus i) = bs[i]) ∧ ∀ q, (∀ i < bs.length, q ≠ p.plus i) → after q = before q

/-- The executing context may reach n bytes at offset o of its own scratchpad, at the own alias: aligned, below the deque
region, inside a window in force that gives its domain the right, in no guard granule (R84, R155, R228, R282); its
buffered stores are none and the bytes are not poisoned (R86, R301). -/
structure OwnBytes (s : State) (addr : Word) (o n : Nat) (reads writes : Bool) : Prop where
  place : addr.toNat = aliasBase + o
  aligned : addr.toNat % n = 0
  inside : o + n ≤ 0x1F800
  level : s.mMode = false
  granted : ∃ w ∈ s.myCore.windows.toList, w.v = true ∧ w.dtag = s.regs.tag ∧ s.regs.tag ≠ 0 ∧ w.space = true ∧
    64 * w.base.toNat ≤ coreN s.turn.core * 0x20000 + o ∧ coreN s.turn.core * 0x20000 + o ≤ 64 * w.limit.toNat + 63 ∧
    (reads = true → w.rd = true) ∧ (writes = true → w.wr = true)
  open_ : ∀ i < n, (s.dom s.turn.core s.regs.tag).guard.getLsbD ((o + i) / 64) = false
  drained : s.me.storeBuf = []
  sound : poisonedIn s.myCore.scratchPoison o n = none

/-! ### Operand forms -/

/-- The value of source n in field order. -/
def State.val (s : State) (u : Uses) (n : Nat) : Word := (s.vals u).getD n 0

/-- gD, gA, gB. -/
def Uses.g3 (d a b : GReg) (long : Bool) : Uses :=
  { srcs := [a, b], dst := some d, reads := a.refs ++ b.refs, writes := d.refs, long := long }
/-- gD, gA. -/
def Uses.g2 (d a : GReg) (long : Bool) : Uses := { srcs := [a], dst := some d, reads := a.refs, writes := d.refs, long := long }
/-- gD alone, with the other registers read. -/
def Uses.g1 (d : GReg) (reads : List RegRef) : Uses := { dst := some d, reads := reads, writes := d.refs }
/-- gA alone. -/
def Uses.a1 (a : GReg) : Uses := { srcs := [a], reads := a.refs }
/-- gA and gB. -/
def Uses.a2 (a b : GReg) : Uses := { srcs := [a, b], reads := a.refs ++ b.refs }
/-- gA, and other registers written. -/
def Uses.aw (a : GReg) (writes : List RegRef) : Uses := { srcs := [a], reads := a.refs, writes := writes }
/-- Registers of other files only. -/
def Uses.rw (reads writes : List RegRef) (long : Bool) : Uses := { reads := reads, writes := writes, long := long }

/-- gD := op(opA, opB) (R64). -/
def Computes3 (f : Pre → GReg → GReg → GReg → Instr) (long : Bool) (op : Word → Word → Word) : Prop :=
  ∀ w d a b s, let u := Uses.g3 d a b long
    Gives (f w d a b) w u s ((s.opened u).writeG d (op (s.val u 0) (s.val u 1)))

/-- gD := op(opA) (R64). -/
def Computes2 (f : Pre → GReg → GReg → Instr) (op : Pre → Word → Word) : Prop :=
  ∀ w d a s, let u := Uses.g2 d a false
    Gives (f w d a) w u s ((s.opened u).writeG d (op w (s.val u 0)))

/-- An instruction of gD, gA and gB has completed with a result in gD: what it leaves is what it found, its ports' words
taken, the result in place, and what the selector and retirement write; no byte of memory has changed. -/
def FrameOf (i : Instr) (w : Pre) (u : Uses) (d : GReg) (s : State) : Prop :=
  Runs i w u s → (∀ v, NextKnown w s.regs.pc ((s.opened u).writeG d v)) →
    ∃ t v, exec i s = .next t ∧ SameButNext ((s.opened u).writeG d v) t ∧ ∀ p, t.byteAt p = s.byteAt p

/-! ### Vector results -/

/-- The active elements of a result stand in vD, the others are 0 under zeroing and as they were otherwise; the flags of the
active elements are in fflg; no other register of the context and no state outside it has changed (R110, R127, R128). -/
structure Lanes (s e : State) (w : Pre) (n : Nat) (d : VReg) (r : Nat → Fp) : Prop where
  elems : ∀ j < 64 / n, lane e.regs.v[d] n j =
    if bit (s.regs.getM w.mask.1) (n * j) then (r j).bits % 2 ^ (8 * n)
    else if w.mask.2 then 0 else lane s.regs.v[d] n j
  flags : e.regs.fflg = ((List.range (64 / n)).filter (fun j => bit (s.regs.getM w.mask.1) (n * j))).foldl
    (fun x j => x ||| (r j).flags) s.regs.fflg
  rest : { e.regs with v := s.regs.v, fflg := s.regs.fflg } = s.regs
  others : ∀ k : VReg, k ≠ d → e.regs.v[k] = s.regs.v[k]
  frame : OnlyMine s e

/-! ### Rounding, said of the exact result (R107, R108) -/

/-- The number a finite value is. -/
def Val.num : Val → ℚ
  | .fin n m e => (if n then -1 else 1) * (m : ℚ) * 2 ^ e
  | _ => 0

/-- How two values compare: by number, an infinity beyond every number, −0 equal to +0; none where either is NaN (R119). -/
def numOrder (x y : Val) : Option Ordering :=
  match x, y with
  | .nan .., _ => none
  | _, .nan .. => none
  | .inf n, .inf n' => some (if n = n' then .eq else if n then .lt else .gt)
  | .inf n, .fin .. => some (if n then .lt else .gt)
  | .fin .., .inf n => some (if n then .gt else .lt)
  | .fin .., .fin .. => some (cmp x.num y.num)

/-- An exact result, by how a number compares with it. -/
abbrev Cut := ℚ → Ordering

/-- The magnitude of the exact result, whose sign is known, is at least a number. -/
def Cut.atLeast (c : Cut) (neg : Bool) (a : ℚ) : Prop := if neg then c (-a) ≠ .lt else c a ≠ .gt
/-- The magnitude of the exact result is above a number. -/
def Cut.above (c : Cut) (neg : Bool) (a : ℚ) : Prop := if neg then c (-a) = .gt else c a = .lt

/-- The modes that round to the nearest, RNE and RMM. -/
def toNearest (rm : Nat) : Bool := rm = 0 || rm = 4
/-- The mode rounds a magnitude of this sign up: RUP and RDN on their side. -/
def awayFrom (rm : Nat) (neg : Bool) : Bool := (rm = 2 && !neg) || (rm = 3 && neg)

/-- The result rounded with an unbounded exponent exceeds the largest finite value. -/
def Cut.Over (c : Cut) (t : Fmt) (rm : Nat) (neg : Bool) : Prop :=
  let u : ℚ := 2 ^ (t.bias : Int)
  if toNearest rm then c.atLeast neg ((2 - 2 ^ (-(t.mb : Int) - 1)) * u)
  else if awayFrom rm neg then c.above neg ((2 - 2 ^ (-(t.mb : Int))) * u)
  else c.atLeast neg (2 * u)

/-- The result rounded with an unbounded exponent lies below the smallest normal magnitude. -/
def Cut.Tiny (c : Cut) (t : Fmt) (rm : Nat) (neg : Bool) : Prop :=
  let u : ℚ := 2 ^ (1 - (t.bias : Int))
  if toNearest rm then ¬ c.atLeast neg ((1 - 2 ^ (-(t.mb : Int) - 2)) * u)
  else if awayFrom rm neg then ¬ c.above neg ((1 - 2 ^ (-(t.mb : Int) - 1)) * u)
  else ¬ c.atLeast neg u

/-- A pattern is the exact result, which is not zero, rounded to a format: overflow gives what the mode gives, OF and NX; else no
value of the format is nearer (a tie goes to the even pattern under RNE and to the greater magnitude under RMM), or the value is
the first one on the side the mode names; NX says that it is not the exact result, with UF where that is tiny. WF19 has no
subnormals: a tiny result is zero with UF and NX (R101, R107, R108, R120). -/
structure Rounds (t : Fmt) (rm : Nat) (c : Cut) (neg : Bool) (r : Fp) : Prop where
  overflow : c.Over t rm neg → r = ⟨if toNearest rm || awayFrom rm neg then t.inf neg else t.largest neg, 5⟩
  flushed : t.wf = true → c.Tiny t rm neg → r = ⟨t.zero neg, 3⟩
  value : ¬ c.Over t rm neg → ¬(t.wf = true ∧ c.Tiny t rm neg) → ∃ m e, t.value r.bits = .fin neg m e ∧
    let a : ℚ := m * 2 ^ e
    let same : Prop := c (if neg then -a else a) = .eq
    (same → r.flags = 0) ∧ (¬ same → c.Tiny t rm neg → r.flags = 3) ∧ (¬ same → ¬ c.Tiny t rm neg → r.flags = 1) ∧
    (toNearest rm = false → awayFrom rm neg = false → c.atLeast neg a) ∧ (awayFrom rm neg = true → ¬ c.above neg a) ∧
    ∀ z m' e', t.value z = .fin neg m' e' →
      let b : ℚ := m' * 2 ^ e'
      (b < a → (toNearest rm = true → c.atLeast neg ((a + b) / 2) ∧ (¬ c.above neg ((a + b) / 2) → rm = 4 ∨ r.bits % 2 = 0)) ∧
        (awayFrom rm neg = true → c.above neg b)) ∧
      (a < b → (toNearest rm = true → ¬ c.above neg ((a + b) / 2) ∧ (c.atLeast neg ((a + b) / 2) → rm = 0 ∧ r.bits % 2 = 0)) ∧
        (toNearest rm = false → awayFrom rm neg = false → ¬ c.atLeast neg b))

/-- A number that is not zero, rounded to a format. -/
def RoundsNum (t : Fmt) (rm : Nat) (x : ℚ) (r : Fp) : Prop := Rounds t rm (fun z => cmp z x) (decide (x < 0)) r

/-- A pattern of one format converted to another: exact or rounded once, zeros, infinities and signs kept, a NaN quieted with the top
of its payload, NV for a signalling one (R108, R120). -/
def Converts (dst src : Fmt) (rm x : Nat) (r : Fp) : Prop :=
  (∀ n m e, src.value x = .fin n m e → ((src.value x).num ≠ 0 → RoundsNum dst rm (src.value x).num r) ∧
    ((src.value x).num = 0 → r = ⟨dst.zero n, 0⟩)) ∧
  (∀ n, src.value x = .inf n → r = ⟨dst.inf n, 0⟩) ∧
  (∀ n f sig, src.value x = .nan n f sig → r =
    ⟨dst.inf n + ((if src.mb ≤ dst.mb then f * 2 ^ (dst.mb - src.mb) else f / 2 ^ (src.mb - dst.mb)) ||| 2 ^ (dst.mb - 1)),
      if sig then 16 else 0⟩)

/-- An integer is a number rounded by mode (R107, R120). -/
def RoundsInt (rm : Nat) (x : ℚ) (n : Int) : Prop :=
  (toNearest rm = true → |x - n| ≤ 1 / 2 ∧ (|x - n| = 1 / 2 → (rm = 0 → n % 2 = 0) ∧ (rm = 4 → |x| < |(n : ℚ)|))) ∧
  (rm = 1 → |(n : ℚ)| ≤ |x| ∧ |x| < |(n : ℚ)| + 1 ∧ 0 ≤ x * n) ∧ (rm = 2 → x ≤ n ∧ (n : ℚ) < x + 1) ∧ (rm = 3 → (n : ℚ) ≤ x ∧ x < n + 1)

/-- A pattern converted to an integer of so many bits: rounded by mode, out of range the nearer bound with NV, a NaN the greatest
with NV (R120, R135). -/
def ConvertsInt (src : Fmt) (rm : Nat) (signed : Bool) (bits x : Nat) (r : Fp) : Prop :=
  let lo : Int := if signed then -(2 ^ (bits - 1)) else 0
  let hi : Int := if signed then 2 ^ (bits - 1) - 1 else 2 ^ bits - 1
  let pat (v : Int) : Nat := (v % 2 ^ bits).toNat
  (∀ n m e, src.value x = .fin n m e → ∃ v : Int, RoundsInt rm (src.value x).num v ∧ r =
    if v < lo then ⟨pat lo, 16⟩ else if hi < v then ⟨pat hi, 16⟩ else ⟨pat v, if (v : ℚ) = (src.value x).num then 0 else 1⟩) ∧
  (∀ n, src.value x = .inf n → r = ⟨pat (if n then lo else hi), 16⟩) ∧ ((src.value x).isNan = true → r = ⟨pat hi, 16⟩)

/-! ### Commands one die performs -/

/-- The die performs a packet's command (R322): it has read the packet and no die has taken it; s1 is the state with the
die's thread free again and VALID set in the decision word. -/
structure Performs (s : State) (d : DieId) (q : QueueId) (opc : Nat) (p : Packet) (s1 : State) : Prop where
  up : s.host.boot.stage = 5 ∧ s.host.railFault = false
  read : (s.thread d q).state = .fetched p
  opc : p.opc = opc
  open_ : ∃ w, (s.setThread d q .idle).extWord (s.fnOf q) p.decision = some w ∧ bit w 63 = false
  taken : (s.setThread d q .idle).extWrite (s.fnOf q) p.decision (leBytes 8 0x8000000000000000) = some s1
  /-- No error injection is armed (R221). -/
  calm : ∀ c, (s.core c).einjArm = false ∧ (s1.core c).einjArm = false

/-- The packet names neither a status word nor a signal, and asks for no event: completing it writes nothing. -/
def Quiet (p : Packet) : Prop := p.slots[14] = 0 ∧ p.slots[2] = 0 ∧ bit p.slots[0] 8 = false

end Sys2Proof.Machine
end

