-- ==== Sys2Proof/Certificates/Slice0/Obligations.lean ====
section
/-!
DEFINITION. The statements for the provers. Each names the rules of the spec it rests on.
-/

open Sys2Proof Sys2Proof.Machine

/-- For every well-formed instruction, prefixes, selector, switch marker and every operand at every value its encoding
admits, the decoder reads from the parcels the encoder writes exactly that instruction (R36 to R60). [R36, R38, R39,
R41, R49, R51, R56, R57, R58, R59, R60] -/
def Obligations.RoundTrip : Prop :=
  ∀ i : Instr, i.wellFormed = true → decodeParcels (encode i) = some i

/-- The three worked encodings of the encoding chapter, and for every page words written out bit by bit from R38 to R60
and the sample programs, decode to the instruction they stand for. [R36, R38, R49, spec/02_encoding.md Worked
encodings, R56, R57, R58, R59, R60] -/
def Obligations.WordsDecode : Prop :=
  let p (s : Bool) (nx : Nx) (chain : List Pfx) : Pre := { s := s, nx := nx, chain := chain }
  -- the worked encodings of R53
  decodeParcels [0x0003, 0x0420] = some (.add (p false .seq []) (.g 3) (.g 1) (.g 2)) ∧
  decodeParcels [0x7001, 0x8285, 0x2345] = some (.movi (p true .seq [.imm 1]) (.g 5) 0x2345) ∧
  decodeParcels [0x7950, 0x77FA, 0x3342, 0x1000] =
    some (.cmpi (p false .goc [.cond true 2 true false 0, .disp 0x1FA]) .eq 2 (.g 4) 0) ∧
  -- memory: OP 0x16 D 3 A 2 imm 1; OP 0x1B D 4 A 2
  decodeParcels [0x8583, 0x0801] = some (.ldd (p true .seq []) (.g 3) (.g 2) 1) ∧
  decodeParcels [0x06C4, 0x0808] = some (.std (p false .seq []) (.g 4) (.g 2) 8) ∧
  decodeParcels [0x7A0E, 0x0785, 0x1870] = some (.amo (p false .seq [.ord .acqrel .device]) .add (.g 5) (.g 6) (.g 7)) ∧
  decodeParcels [0x7240, 0x07C5, 0x1871] = some (.cas (p false .seq [.src 8]) true (.g 5) (.g 6) (.g 7)) ∧
  -- sequencing and CSRs: LPSI 10, SRD g9 cycle
  decodeParcels [0x0AC0, 0x000A] = some (.lpsi (p false .seq []) 10) ∧
  decodeParcels [0x8B89, 0x000E] = some (.srd (p true .seq []) (.g 9) 0x00E) ∧
  -- messages: SEND A 8 B 1 F 2; WFM D 17 A 9
  decodeParcels [0x0840, 0x2012] = some (.send (p false .seq []) (.g 8) 1 2) ∧
  decodeParcels [0x8991, 0x2400] = some (.wfm (p true .seq []) (.g 17) (.g 9)) ∧
  -- page 1, OP 0x00 F 8: FADD of FP64; page 2, OP 0x00: VADD of FP32 elements
  decodeParcels [0x7401, 0x0003, 0x0428] = some (.fadd (p false .seq [.page 1]) true 3 1 2) ∧
  decodeParcels [0x7402, 0x0003, 0x0426] = some (.vadd (p false .seq [.page 2]) .f32 3 1 (.vec 2)) ∧
  -- page 3, COPY D 5 A 6; page 4, GCALL D 8 A 5 B 6
  decodeParcels [0x7403, 0x8405, 0x1800] = some (.copy (p true .seq [.page 3]) (.g 5) (.g 6)) ∧
  decodeParcels [0x7404, 0x8008, 0x1460] = some (.gcall (p true .seq [.page 4]) 8 5 6) ∧
  -- port operands: codes 32 and 33 are P.N and P.E
  decodeParcels [0x0020, 0x8420] = some (.add (p false .seq []) (.port .north) (.port .east) (.g 2))

/-- Pages 5 to 255, unassigned operation codes of page 0 and a register code that names no operand decode to illegal
instruction with the base word; a prefix parcel with KIND 7 or with bit 15 set, a fifth prefix, and a repeated prefix
that is not a payload run decode to illegal prefix chain. [R40, R41, R49, R50, R53, R61] -/
def Obligations.BadWordsRefused : Prop :=
  (∀ chain hi lo, 5 ≤ chainPage chain → decodeWord chain hi lo = .illegalInstruction 0x01 ((wordOf hi lo).setWidth 64)) ∧
  (∀ chain hi lo, chainPage chain = 0 → 0x35 ≤ (Base.ofParcels hi lo).op.toNat →
    decodeWord chain hi lo = .illegalInstruction 0x01 ((wordOf hi lo).setWidth 64)) ∧
  (∀ chain hi lo, chainPage chain = 0 → (Base.ofParcels hi lo).op = 0x00 → 36 ≤ (Base.ofParcels hi lo).d.toNat →
    decodeWord chain hi lo = .illegalInstruction 0x01 ((wordOf hi lo).setWidth 64)) ∧
  (∀ (h : Parcel) t, isPrefixParcel h = true → (h.getLsbD 15 = true ∨ h.extractLsb' 9 3 = 7) →
    decodeParcels (h :: t) = some (.illegalInstruction 0x02 0)) ∧
  (∀ a b c d e t, decodeParcels (Pfx.toParcel (.imm a) :: Pfx.toParcel (.imm b) :: Pfx.toParcel (.imm c) ::
    Pfx.toParcel (.imm d) :: Pfx.toParcel e :: t) = some (.illegalInstruction 0x02 4)) ∧
  (∀ a b c t, decodeParcels (Pfx.toParcel (.imm a) :: Pfx.toParcel (.page b) :: Pfx.toParcel (.imm c) :: t) =
    some (.illegalInstruction 0x02 2))

/-- When a core may issue, the first place in turn after the last to issue whose bank may issue is the one that does. Where
that bank is neither finishing a kept wait, stopping at a safe point nor an attached gang follower, and the parcels at
its pc, each of which can be fetched, decode to an instruction and no shorter run of them does, the step is that
instruction's meaning in the state where the bank has the turn and, for a gang leader, has sent the instruction to its
followers. An attached follower's step is the meaning of the first forwarded instruction at its address, a bank with a
kept wait runs the rest of the waiting instruction, a step that takes an event is the event's meaning, a hart that
fetches a form of WAITP executes it, and any other word it can fetch is executed as a word of its instruction set; where
none of its bytes can be fetched it takes an instruction access fault. The order of the moves, the agenda, is the
model's own (log 1); so are which words a hart's instruction set holds and what they do (logs 18, 55) and the cause of
its instruction access fault (log 119), and the place of the M bank on a core entry (log 125). [R17, R36, R37, R152, R330, R331, R370] -/
def Obligations.StepRunsDecoded : Prop :=
  (∀ (s : State) c k, s.nextPlace c = some k → s.bankIssues c (s.bankAt c k) = true ∧
    ∃ n < 8, k = Fin.ofNat 8 ((s.core c).lastIssue.val + 1 + n) ∧
      ∀ m < n, s.bankIssues c (s.bankAt c (Fin.ofNat 8 ((s.core c).lastIssue.val + 1 + m))) = false) ∧
  (∀ s rest c k ps i, s.agenda = .issue c :: rest →
    let s0 : State := { s with agenda := rest }
    let b := s0.bankAt c k
    let t := s.issuing rest c k b
    s0.coreIssues c = true → s0.nextPlace c = some k → t.me.wait.bind Wait.instr? = none → t.stopsHere c b = false →
    t.me.attached = false → ps.length ≤ 6 →
    (∀ n (h : n < ps.length), t.fetchParcel (t.regs.pc + BitVec.ofNat 64 (2 * n)) = .ok ps[n]) →
    (∀ n < ps.length, decodeParcels (ps.take n) = none) → decodeParcels ps = some i →
      step s = exec i (t.forwardFetched i)) ∧
  (∀ (t : State) i, t.followers = [] → t.forwardFetched i = t) ∧
  (∀ s rest c k i, s.agenda = .issue c :: rest →
    let s0 : State := { s with agenda := rest }
    let t := s.issuing rest c k (s0.bankAt c k)
    s0.coreIssues c = true → s0.nextPlace c = some k → t.me.wait.bind Wait.instr? = some i → step s = exec i t) ∧
  (∀ s rest c k f fs, s.agenda = .issue c :: rest →
    let s0 : State := { s with agenda := rest }
    let b := s0.bankAt c k
    let t := s.issuing rest c k b
    s0.coreIssues c = true → s0.nextPlace c = some k → t.me.wait.bind Wait.instr? = none → t.stopsHere c b = false →
    t.me.attached = true → t.me.queue = f :: fs →
      step s = exec f.instr (t.updRegs (fun r => { r with pc := f.addr }))) ∧
  (∀ s rest e, s.agenda = .event e :: rest → step s = exec e { s with agenda := rest }) ∧
  (∀ s rest d q v, s.agenda = .hart d q :: rest →
    let t : State := { s with agenda := rest, turn := { s.turn with hartDie := d, hart := q } }
    t.up = true → t.hartRead t.hart.pc.toNat 4 = some (leBytes 4 v) → v < 2 ^ 32 →
      (∀ i, decodeWaitp (BitVec.ofNat 32 v) = some i → step s = exec i t) ∧
      (decodeWaitp (BitVec.ofNat 32 v) = none → step s = .next (t.hartStep (BitVec.ofNat 32 v)))) ∧
  (∀ s rest d q, s.agenda = .hart d q :: rest →
    let t : State := { s with agenda := rest, turn := { s.turn with hartDie := d, hart := q } }
    t.up = true → t.hartRead t.hart.pc.toNat 4 = none → t.hartRead t.hart.pc.toNat 2 = none →
      step s = .next (t.hartTrap 1 t.hart.pc))

/-- After a word's own effect SEQ goes on at the next instruction; GO jumps to first + 2·displacement, or to t0 without
PFX.N; GOC does so where its predicate holds, else goes on; LOOP with lc of 0 or 1 pops the loop stack and goes on,
else lowers lc and jumps to ls; CALL pushes the next address and jumps; RET pops and jumps. A LOOP that ends without a
loop frame of its level traps 0x0C, a CALL with eight links 0x0A, a RET with none of its level 0x0B, an odd address
0x05 for each of GO, GOC, LOOP, CALL and RET, an END inside a gate call 0x0E. Any other END leaves the context waiting for its
end, with no register and no byte of memory changed, unless a guard fault is pending, which it reports. [R25, R37, R43, R80, R197] -/
def Obligations.SelectorTargets : Prop :=
  ∀ (s : State) (w : Pre) (pc : Word),
    let r := s.regs
    let next := pc + BitVec.ofNat 64 w.size
    let t := targetOf w r pc
    let at' (a : Word) : Except Stop State := .ok (s.updRegs (fun r => { r with pc := a }))
    let holds := r.getP w.gocPred.1 != w.gocPred.2
    (w.nx = .seq → s.select w pc = at' next) ∧
    (w.nx = .go → bit t 0 = false → s.select w pc = at' t) ∧
    (w.nx = .go → bit t 0 = true → s.select w pc = .error (.trap 0x05 t)) ∧
    (w.nx = .goc → holds = false → s.select w pc = at' next) ∧
        (w.nx = .goc → holds = true → bit t 0 = false → s.select w pc = at' t) ∧
    (w.nx = .goc → holds = true → bit t 0 = true → s.select w pc = .error (.trap 0x05 t)) ∧
    (w.nx = .loop → r.lc.toNat ≤ 1 → ∀ lc ls rest, r.loops = (lc, ls) :: rest → r.pfloor < r.loops.length →
      ∃ t, s.select w pc = .ok t ∧ t.regs.lc = lc ∧ t.regs.ls = ls ∧ t.regs.loops = rest ∧ t.regs.pc = next) ∧
    (w.nx = .loop → r.lc.toNat ≤ 1 → r.loops.length ≤ r.pfloor → s.select w pc = .error (.trap 0x0C 1)) ∧
    (w.nx = .loop → 1 < r.lc.toNat → bit r.ls 0 = false →
      ∃ t, s.select w pc = .ok t ∧ t.regs.lc = r.lc - 1 ∧ t.regs.ls = r.ls ∧ t.regs.loops = r.loops ∧ t.regs.pc = r.ls) ∧
        (w.nx = .loop → 1 < r.lc.toNat → bit r.ls 0 = true → s.select w pc = .error (.trap 0x05 r.ls)) ∧
    (w.nx = .call → r.link.length < 8 → bit t 0 = true → s.select w pc = .error (.trap 0x05 t)) ∧
    (w.nx = .ret → ∀ a rest, r.link = a :: rest → r.lfloor < r.link.length → bit a 0 = true →
      s.select w pc = .error (.trap 0x05 a)) ∧
    (w.nx = .call → r.link.length < 8 → bit t 0 = false →
      ∃ u, s.select w pc = .ok u ∧ u.regs.link = next :: r.link ∧ u.regs.pc = t) ∧
    (w.nx = .call → 8 ≤ r.link.length → s.select w pc = .error (.trap 0x0A 0)) ∧
    (w.nx = .ret → ∀ a rest, r.link = a :: rest → r.lfloor < r.link.length → bit a 0 = false →
      ∃ u, s.select w pc = .ok u ∧ u.regs.link = rest ∧ u.regs.pc = a) ∧
    (w.nx = .ret → r.link.length ≤ r.lfloor → s.select w pc = .error (.trap 0x0B 0)) ∧
        (w.nx = .fin → s.mMode = false → r.dom ≠ [] → s.select w pc = .error (.trap 0x0E (BitVec.ofNat 64 r.dom.length))) ∧
    (w.nx = .fin → s.mMode = false → r.dom = [] → r.guardPending = false → r.gstat.inGang = false →
      ∃ t, s.select w pc = .ok t ∧ t.regs = s.regs ∧ t.me.state = .blocked ∧ t.me.wait = some .ending ∧ OnlyMine s t) ∧
    (w.nx = .fin → s.mMode = false → r.dom = [] → r.guardPending = true → s.me.badVerif = none →
      s.select w pc = .error (.guardFault r.gfa))

/-- Where the selector of a word that has passed its checks traps after the word's own effect, the trap is taken in the
state before the instruction: nothing of the effect is performed and nothing is pushed or popped (R44). Stated for the
three-operand integer instructions, the stores and the predicate-setting compares. Where PFX.C guards a word and its
predicate does not hold, the word has no effect and the selector acts as SEQ whatever NX holds; ports are neither
popped nor written. Stated for instructions of every shape: register results, stores, jumps, messages, traps, vector
and matrix instructions, and kept waits that have not begun. [R26, R44, R49] -/
def Obligations.GuardsAndPreciseTraps : Prop :=
  ((∀ w d a b s, PreciseNx (.add w d a b) w (.g3 d a b false) s
    ((s.opened (.g3 d a b false)).writeG d (s.val (.g3 d a b false) 0 + s.val (.g3 d a b false) 1))) ∧
  (∀ w c p a b s, PreciseNx (.cmp w c p a b) w { Uses.a2 a b with writes := rp p } s
    ((s.opened { Uses.a2 a b with writes := rp p }).updRegs (fun r =>
      r.setP p (Cond.test c (s.val { Uses.a2 a b with writes := rp p } 0) (s.val { Uses.a2 a b with writes := rp p } 1))))) ∧
  (∀ w d a imm s e l, (s.opened (.a2 a d)).storePlace (s.val (.a2 a d) 0 + immS w imm) 8 = .ok l →
    (s.opened (.a2 a d)).storeLoc l (leBytes 8 (s.val (.a2 a d) 1).toNat) (MemOrd.releases (chainOrd w.chain).1)
      (MemOrd.acquires (chainOrd w.chain).1) = .ok e → PreciseNx (.std w d a imm) w (.a2 a d) s e)) ∧
  ((∀ w d a b s, Skips (.add w d a b) w (.g3 d a b false) s) ∧
  (∀ w d a b s, Skips (.div w d a b) w (.g3 d a b true) s) ∧
  (∀ w d imm s, Skips (.movi w d imm) w (.g1 d []) s) ∧
  (∀ w d a imm s, Skips (.ldd w d a imm) w (.g2 d a true) s) ∧
  (∀ w d a imm s, Skips (.std w d a imm) w (.a2 a d) s) ∧
  (∀ w a s, Skips (.jmpr w a) w { Uses.a1 a with jumps := true } s) ∧
  (∀ w a b n s, Skips (.send w a b n) w { srcs := [a], reads := a.refs ++ rangeRefs b.val (n.val + 1) } s) ∧
  (∀ w c s, Skips (.brk w c) w {} s) ∧
  (∀ w s, Skips (.cmit w) w {} s) ∧
  (∀ w dbl d a b s, Skips (.fadd w dbl d a b) w (.rw (rf a ++ rf b) (rf d) dbl) s) ∧
  (∀ w a s, Skips (.mzero w a) w (.a1 a) s) ∧
  (∀ w n s, Skips (.mcall w n) w (callUses [] [1]) s) ∧
  (∀ w a s, s.me.wait = none → Skips (.bar w a) w (.a1 a) s))

/-- An M-mode instruction outside M mode traps 0x04 with its base word, before anything else; an instruction of page 1, 2
or 3 in M mode traps 0x01. A named port that is absent traps 0x0D with the port's register code before anything is
popped or written; else a register with a pending result that is read or written traps 0x03 with its number and file,
the sources first. A port word of another domain is discarded with the other ports' words, which ends restorability,
and traps 0x0D once the run's MLSF results have returned. A port that
is not ready makes the context wait with nothing popped (R42, R48, R53, R213). Which of two ports tval names is log 123. [R42, R48, R53, R63, R171, R213,
R302] -/
def Obligations.ChecksTrapInOrder : Prop :=
  -- privilege and M mode
  (∀ w a s, s.mMode = false → exec (.keyz w a) s = .next (s.takeTrap 0x04 (Instr.keyz w a).baseWord)) ∧
  (∀ w s, s.mMode = false → exec (.halt w) s = .next (s.takeTrap 0x04 (Instr.halt w).baseWord)) ∧
  (∀ w s, s.mMode = false → exec (.mret w) s = .next (s.takeTrap 0x04 (Instr.mret w).baseWord)) ∧
  (∀ w dbl d a b s, s.mMode = true → exec (.fadd w dbl d a b) s = .next (s.takeTrap 0x01 (Instr.fadd w dbl d a b).baseWord)) ∧
  (∀ w t d a b s, s.mMode = true → exec (.vadd w t d a b) s = .next (s.takeTrap 0x01 (Instr.vadd w t d a b).baseWord)) ∧
  (∀ w d a s, s.mMode = true → exec (.copy w d a) s = .next (s.takeTrap 0x01 (Instr.copy w d a).baseWord)) ∧
  -- ports and hazards of a three-operand instruction
  (∀ w d a b p s, s.absentPort (.g3 d a b false) = some p →
    exec (.add w d a b) s = .next (s.takeTrap 0x0D (BitVec.ofNat 64 p.regCode))) ∧
  (∀ w d a b h s, s.absentPort (.g3 d a b false) = none → hazard w (.g3 d a b false) s.me.pending = some h →
    exec (.add w d a b) s = .next (s.takeTrap 0x03 (BitVec.ofNat 64 h.num ||| BitVec.ofNat 64 (64 * h.file)))) ∧
  (∀ w (d a b : Fin 32) l (s : State), a ≠ 0 → (⟨0, a.val⟩ : RegRef) ∈ l → s.me.pending = l →
    hazard w (.g3 (.g d) (.g a) (.g b) false) s.me.pending = some ⟨0, a.val⟩) ∧
  (∀ w d a b s, Checked (.add w d a b) w (.g3 d a b false) s → w.holds s.regs = true →
    s.portsReady (.g3 d a b false) = false → exec (.add w d a b) s = .next (s.block (.reissue false))) ∧
  (∀ w d a b p s, Checked (.add w d a b) w (.g3 d a b false) s → w.holds s.regs = true →
    s.portsReady (.g3 d a b false) = true → (s.readSrcs [a, b]).2.2 = some p →
      exec (.add w d a b) s = .next (if s.mMode = false ∧ s.me.flagsOut = true then s.block (.reissue false)
        else (s.readSrcs [a, b]).1.noRestore.takeTrap 0x0D (BitVec.ofNat 64 p.regCode ||| 0x100)))

/-- Outside M mode, with tcause 0 and an even nonzero trap vector, a program-level trap sets tcause, tval and tpc, moves
the pc to tvec and changes no other register but the lost-significance bits that outstanding results return; the run's
pending results end. No byte of memory changes. A trap waits until the run's MLSF results have returned (R171). With tcause nonzero or no vector, outside a gate call, the trap kills
the region's fault domain; in a gate call it unwinds the call with status 2 and writes a record. A trap in M mode
stops the core. What an unwind clears beyond R203's list is the model's (logs 120, 122). BRK that passes its checks takes trap 0x01 with tval holding the base word, which carries 0x34 in bits
[27:22] and the code in bits [15:0]; a word with its operation code and D not 0 is illegal. The steps that stand for
an illegal instruction and for a fetch fault take their trap with the cause and value they hold. [R26, R46, R83,
R171, R204, R213] -/
def Obligations.TrapEntry : Prop :=
  ((∀ (s : State) c v, s.mMode = false → s.regs.tcause = 0 → s.regs.gstat.inGang = false →
    let tv := (s.dom s.turn.core s.regs.tag).tvec
    s.me.flagsOut = false → tv ≠ 0 → bit tv 0 = false →
      let t := s.takeTrap c v
      t.regs = { s.regs with lsf := s.me.returned.regs.lsf, tcause := c.setWidth 64, tval := v, tpc := s.regs.pc, pc := tv } ∧
        t.me.pending = [] ∧ t.me.outstanding = [] ∧ t.me.state = .ready ∧ (∀ p, t.byteAt p = s.byteAt p)) ∧
  (∀ (s : State) c v, s.mMode = false → s.me.flagsOut = true → s.takeTrap c v = s.block (.reissue false)) ∧
  (∀ (s : State) c v, s.mMode = false → s.me.flagsOut = false → (s.regs.tcause ≠ 0 ∨ (s.dom s.turn.core s.regs.tag).tvec = 0) → s.regs.dom = [] →
    s.takeTrap c v = (s.updMe (fun x => { x.returned with pending := [] })).killFaultDomain s.regs.region) ∧
  (∀ (s : State) c v e es, s.mMode = false → s.me.flagsOut = false → (s.regs.tcause ≠ 0 ∨ (s.dom s.turn.core s.regs.tag).tvec = 0) → s.regs.dom = e :: es →
    ∃ r : Rec, r.kind = 0x0B ∧ r.data = e.handle ∧ r.detail = c.toNat ∧ s.takeTrap c v =
      ((s.updMe (fun x => { x.returned with pending := [] })).unwind s.turn.core s.myCtx es.length 2).log (dieOf s.turn.core) r) ∧
  (∀ (s : State) c v, s.mMode = true → s.takeTrap c v = s.monitorFault s.turn.core ∧ ((s.takeTrap c v).core s.turn.core).dead = true)) ∧
  ((∀ w code s, Traps (.brk w code) w {} s 0x01 (Instr.brk w code).baseWord) ∧
  (∀ w code, ((Instr.brk w code).baseWord).extractLsb' 22 6 = 0x34 ∧ ((Instr.brk w code).baseWord).extractLsb' 0 16 = code) ∧
  (∀ chain hi lo, chainPage chain = 0 → (Base.ofParcels hi lo).op = 0x34 → (Base.ofParcels hi lo).d ≠ 0 →
    decodeWord chain hi lo = .illegalInstruction 0x01 ((wordOf hi lo).setWidth 64)) ∧
  (∀ s c v, exec (.illegalInstruction c v) s = .next (s.takeTrap c v) ∧ exec (.fetchFault c v) s = .next (s.takeTrap c v)))

/-- Each ALU instruction that passes its checks completes with its result in gD, from opA and opB: sums and differences
modulo 2^64, bitwise functions, shifts and rotates by opB[5:0], signed and unsigned minima and maxima, and the 32-bit
sum and difference sign-extended (R67). Operands and results may be g registers or neighbour ports (R42, R64). ADDI,
ANDI, ORI and XORI combine opA with the immediate sign-extended from its own bits and those of its PFX.I parcels, the
first parcel most significant (R39, R68); SHLI, SHRI and SARI shift by imm[5:0] (R69); MOVI writes the sign-extended
immediate (R72). Without a prefix the immediate of the I format lies in −512 to 511 and that of the J format in −32768
to 32767. MUL writes the low 64 bits of the product, MULH and MULHU the high 64 bits of the signed and unsigned
128-bit products, MULW the sign-extended low 32 bits. DIV and REM round toward zero and give the remainder the sign of
the dividend; a division by 0 gives all ones and the dividend as remainder, and −2^63 by −1 gives −2^63 and remainder
0; no trap is raised. The results of the divisions are pending for the rest of the run (R47, R70). CLZ and CTZ write
the number of zero bits above the highest and below the lowest one bit, 64 for 0; POPC the number of one bits; BREV
and BSWAP move bit i to 63 − i and byte j to 7 − j; the extensions take the low 8, 16 or 32 bits (R71). [R39, R42,
R44, R47, R64, R67, R68, R69, R70, R71, R72] -/
def Obligations.IntegerResults : Prop :=
  (Computes3 .add false (fun x y => x + y) ∧
  Computes3 .sub false (fun x y => x - y) ∧
  Computes3 .and false (fun x y => x &&& y) ∧
  Computes3 .or false (fun x y => x ||| y) ∧
  Computes3 .xor false (fun x y => x ^^^ y) ∧
  Computes3 .andn false (fun x y => x &&& ~~~y) ∧
  Computes3 .shl false (fun x y => BitVec.ofNat 64 (x.toNat * 2 ^ (y.toNat % 64))) ∧
  Computes3 .shr false (fun x y => BitVec.ofNat 64 (x.toNat / 2 ^ (y.toNat % 64))) ∧
  Computes3 .sar false (fun x y => BitVec.ofInt 64 (x.toInt / 2 ^ (y.toNat % 64))) ∧
  Computes3 .rol false (fun x y => (x <<< (y.toNat % 64)) ||| (x >>> (64 - y.toNat % 64))) ∧
  Computes3 .min false (fun x y => if x.toInt ≤ y.toInt then x else y) ∧
  Computes3 .max false (fun x y => if x.toInt ≤ y.toInt then y else x) ∧
  Computes3 .minu false (fun x y => if x.toNat ≤ y.toNat then x else y) ∧
  Computes3 .maxu false (fun x y => if x.toNat ≤ y.toNat then y else x) ∧
  Computes3 .addw false (fun x y => ((x + y).extractLsb' 0 32).signExtend 64) ∧
  Computes3 .subw false (fun x y => ((x - y).extractLsb' 0 32).signExtend 64)) ∧
  ((∀ imm, Computes2 (fun w d a => .addi w d a imm) (fun w x => x + immS w imm)) ∧
  (∀ imm, Computes2 (fun w d a => .andi w d a imm) (fun w x => x &&& immS w imm)) ∧
  (∀ imm, Computes2 (fun w d a => .ori w d a imm) (fun w x => x ||| immS w imm)) ∧
  (∀ imm, Computes2 (fun w d a => .xori w d a imm) (fun w x => x ^^^ immS w imm)) ∧
  (∀ n, Computes2 (fun w d a => .shli w d a n) (fun _ x => x <<< n.toNat)) ∧
  (∀ n, Computes2 (fun w d a => .shri w d a n) (fun _ x => x >>> n.toNat)) ∧
  (∀ n, Computes2 (fun w d a => .sari w d a n) (fun _ x => x.sshiftRight n.toNat)) ∧
  (∀ w d imm s, Gives (.movi w d imm) w (.g1 d []) s ((s.opened (.g1 d [])).writeG d (immS w imm))) ∧
  (∀ (imm : BitVec 10) s nx, immS { s := s, nx := nx, chain := [] } imm = imm.signExtend 64) ∧
  (∀ (imm : BitVec 16) s nx, immS { s := s, nx := nx, chain := [] } imm = imm.signExtend 64) ∧
  (∀ (imm : BitVec 10) (y : BitVec 9) s nx, immS { s := s, nx := nx, chain := [.imm y] } imm = (y ++ imm).signExtend 64) ∧
  (∀ (imm : BitVec 16) (a b c e : BitVec 9) s nx,
    immS { s := s, nx := nx, chain := [.imm a, .imm b, .imm c, .imm e] } imm = (a ++ b ++ c ++ e ++ imm).signExtend 64)) ∧
  (Computes3 .mul false (fun x y => BitVec.ofNat 64 (x.toNat * y.toNat)) ∧
  Computes3 .mulh false (fun x y => BitVec.ofInt 64 ((x.toInt * y.toInt) / 2 ^ 64)) ∧
  Computes3 .mulhu false (fun x y => BitVec.ofNat 64 (x.toNat * y.toNat / 2 ^ 64)) ∧
  Computes3 .mulw false (fun x y => ((x * y).extractLsb' 0 32).signExtend 64) ∧
  Computes3 .div true (fun x y =>
    if y = 0 then BitVec.allOnes 64 else if x = BitVec.intMin 64 ∧ y = BitVec.allOnes 64 then BitVec.intMin 64
    else BitVec.ofInt 64 (x.toInt.tdiv y.toInt)) ∧
  Computes3 .divu true (fun x y => if y = 0 then BitVec.allOnes 64 else BitVec.ofNat 64 (x.toNat / y.toNat)) ∧
  Computes3 .rem true (fun x y =>
    if y = 0 then x else if x = BitVec.intMin 64 ∧ y = BitVec.allOnes 64 then 0 else BitVec.ofInt 64 (x.toInt.tmod y.toInt)) ∧
  Computes3 .remu true (fun x y => if y = 0 then x else BitVec.ofNat 64 (x.toNat % y.toNat))) ∧
  (let counts (f : Pre → GReg → GReg → Instr) (n : Word → Nat) : Prop := Computes2 f (fun _ x => BitVec.ofNat 64 (n x))
  (∃ n : Word → Nat, counts .clz n ∧ ∀ x, n x ≤ 64 ∧ (∀ i < n x, x.getLsbD (63 - i) = false) ∧
    (n x < 64 → x.getLsbD (63 - n x) = true)) ∧
  (∃ n : Word → Nat, counts .ctz n ∧ ∀ x, n x ≤ 64 ∧ (∀ i < n x, x.getLsbD i = false) ∧ (n x < 64 → x.getLsbD (n x) = true)) ∧
  counts .popc (fun x => ((List.range 64).filter (fun i => x.getLsbD i)).length) ∧
  (∃ f : Word → Word, Computes2 .brev (fun _ => f) ∧ ∀ x i, i < 64 → (f x).getLsbD (63 - i) = x.getLsbD i) ∧
  (∃ f : Word → Word, Computes2 .bswap (fun _ => f) ∧ ∀ x j, j < 8 → (f x).extractLsb' (8 * (7 - j)) 8 = x.extractLsb' (8 * j) 8) ∧
  Computes2 .sextb (fun _ x => (x.extractLsb' 0 8).signExtend 64) ∧
  Computes2 .sexth (fun _ x => (x.extractLsb' 0 16).signExtend 64) ∧
  Computes2 .sextw (fun _ x => (x.extractLsb' 0 32).signExtend 64) ∧
  Computes2 .zextb (fun _ x => x &&& 0xFF) ∧
  Computes2 .zexth (fun _ x => x &&& 0xFFFF) ∧
  Computes2 .zextw (fun _ x => x &&& 0xFFFFFFFF))

/-- LEA writes opA + opB · 2^F to gD for F of 0 to 3, and a word with LEA's operation code and F of 4 to 15 decodes to
illegal instruction with the base word. [R73] -/
def Obligations.LeaShiftsAndAdds : Prop :=
  (∀ (f : BitVec 2) w d a b s, let u := Uses.g3 d a b false
    Gives (.lea w d a b f) w u s ((s.opened u).writeG d (s.val u 0 + (s.val u 1 <<< f.toNat)))) ∧
  (∀ chain hi lo, chainPage chain = 0 → (Base.ofParcels hi lo).op = 0x0B → 4 ≤ (Base.ofParcels hi lo).f.toNat →
    decodeWord chain hi lo = .illegalInstruction 0x01 ((wordOf hi lo).setWidth 64))

/-- SEL writes opA to gD where the predicate numbered by F[2:0] holds and opB otherwise; both sources are read, so each
port named as a source gives up its first word whichever is chosen; a word with SEL's operation code and F[3] = 1
decodes to illegal instruction. [R75] -/
def Obligations.SelReadsBoth : Prop :=
  (∀ w d p a b s, let u : Uses := { Uses.g3 d a b false with reads := a.refs ++ b.refs ++ rp p }
    Gives (.sel w d p a b) w u s ((s.opened u).writeG d (if (s.opened u).regs.getP p then s.val u 0 else s.val u 1))) ∧
  (∀ (p : PReg) (d : GReg) (a b : Port) (s : State) (x : Word × Tag) xs (y : Word × Tag) ys, a ≠ b → s.myCore.ports[a.idx] = x :: xs → s.myCore.ports[b.idx] = y :: ys →
    let u : Uses := { Uses.g3 d (.port a) (.port b) false with reads := rp p }
    (s.opened u).myCore.ports[a.idx] = xs ∧ (s.opened u).myCore.ports[b.idx] = ys ∧ s.val u 0 = x.1 ∧ s.val u 1 = y.1) ∧
  (∀ chain hi lo, chainPage chain = 0 → (Base.ofParcels hi lo).op = 0x0E → (Base.ofParcels hi lo).f.getLsbD 3 = true →
    decodeWord chain hi lo = .illegalInstruction 0x01 ((wordOf hi lo).setWidth 64))

/-- CMP and CMPI write 1 or 0 to the predicate D[2:0]: equal, not equal, less and at least, signed and unsigned, some or
no common one bit, of opA with opB or with the sign-extended immediate (R74). The predicate instructions combine
predicates (R76). A write to p0 is discarded, and p0 reads 1. MOVR.GF and MOVR.FG copy all 64 bits between a g operand
and an f register; MOVR.GP writes p1 to p7 from opA[1] to opA[7]; MOVR.PG writes p7 to p1 into bits [7:1], 1 into bit
0 and 0 above (R77). [R14, R64, R74, R76, R77] -/
def Obligations.PredicateAndMoveResults : Prop :=
  (let holds (c : Cond) (x y : Word) : Bool := match c with
    | .eq => decide (x = y) | .ne => decide (x ≠ y)
    | .lt => decide (x.toInt < y.toInt) | .ge => decide (y.toInt ≤ x.toInt)
    | .ltu => decide (x.toNat < y.toNat) | .geu => decide (y.toNat ≤ x.toNat)
    | .bits => decide (x &&& y ≠ 0) | .bitc => decide (x &&& y = 0)
  let plog (f : Pre → PReg → PReg → PReg → Instr) (op : Bool → Bool → Bool) : Prop := ∀ w d a b s,
    Gives (f w d a b) w (.rw (rp a ++ rp b) (rp d) false) s (s.updRegs (fun r => r.setP d (op (r.getP a) (r.getP b))))
  let plog1 (f : Pre → PReg → PReg → Instr) (op : Bool → Bool) : Prop := ∀ w d a s,
    Gives (f w d a) w (.rw (rp a) (rp d) false) s (s.updRegs (fun r => r.setP d (op (r.getP a))))
  (∀ c w p a b s, let u : Uses := { Uses.a2 a b with writes := rp p }
    Gives (.cmp w c p a b) w u s ((s.opened u).updRegs (fun r => r.setP p (holds c (s.val u 0) (s.val u 1))))) ∧
  (∀ c w p a imm s, let u : Uses := .aw a (rp p)
    Gives (.cmpi w c p a imm) w u s ((s.opened u).updRegs (fun r => r.setP p (holds c (s.val u 0) (immS w imm))))) ∧
  plog .pand (fun x y => x && y) ∧ plog .por (fun x y => x || y) ∧ plog .pxor (fun x y => xor x y) ∧
  plog .pandn (fun x y => x && !y) ∧ plog1 .pnot (fun x => !x) ∧ plog1 .pmov (fun x => x) ∧
  (∀ (r : Regs) b, r.setP 0 b = r ∧ r.getP 0 = true) ∧
  (∀ (r : Regs) n m b, n ≠ 0 → (r.setP n b).getP m = if m = n then b else r.getP m)) ∧
  ((∀ w d a s, let u := Uses.aw a (rf d)
    Gives (.movrGf w d a) w u s ((s.opened u).updRegs (fun r => r.setF d (s.val u 0)))) ∧
  (∀ w d a s, let u := Uses.g1 d (rf a)
    Gives (.movrFg w d a) w u s ((s.opened u).writeG d (s.opened u).regs.f[a])) ∧
  (∀ w a s, let u := Uses.aw a allPreds
    ∃ p : Vector Bool 8, (∀ i : Fin 8, i ≠ 0 → p[i] = (s.val u 0).getLsbD i.val) ∧
      Gives (.movrGp w a) w u s ((s.opened u).updRegs (fun r => { r with p := p }))) ∧
  (∀ w d s, let u := Uses.g1 d allPreds
    ∃ x : Word, (∀ i : Fin 8, x.getLsbD i.val = (decide (i = 0) || (s.opened u).regs.p[i])) ∧ x >>> 8 = 0 ∧
      Gives (.movrPg w d) w u s ((s.opened u).writeG d x)))

/-- A g register reads its 64 bits and g0 reads 0; a port reads its oldest word and gives it up. A result written to g0 is
discarded with nothing else changed, one written to another g register replaces that register alone, and one written
to a port is queued, with the writer's tag, as the newest word of the facing port of the neighbour (R10, R14, R42,
R64). [R10, R14, R42, R64] -/
def Obligations.OperandsAndResults : Prop :=
  (∀ (s : State) (n m : Fin 32) d l, s.val (.g3 d (.g n) (.g m) l) 0 = (if n = 0 then 0 else s.regs.g[n]) ∧
    s.val (.g3 d (.g n) (.g m) l) 1 = (if m = 0 then 0 else s.regs.g[m])) ∧
  (∀ (s : State) (n m d : Fin 32) l, s.opened (.g3 (.g d) (.g n) (.g m) l) = s) ∧
  (∀ (s : State) (p : Port) x t q, s.myCore.ports[p.idx] = (x, t) :: q →
    s.val (.a1 (.port p)) 0 = x ∧ (s.opened (.a1 (.port p))).myCore.ports[p.idx] = q) ∧
  (∀ (s : State) x, (s.writeG (.g 0) x).regs = s.regs) ∧
  (∀ (s : State) (n : Fin 32) x, n ≠ 0 → (s.writeG (.g n) x).regs = { s.regs with g := s.regs.g.set n x }) ∧
  (∀ (s : State) p x c, s.neighbour s.turn.core p = some c →
    ((s.writeG (.port p) x).core c).ports[p.opp.idx] = (s.core c).ports[p.opp.idx] ++ [(x, s.regs.tag)] ∧
      (s.writeG (.port p) x).regs = s.regs)

/-- A completed ALU, immediate, MUL, BIT, LEA, SEL, MOVR.FG or RNG instruction leaves every register, flag, special
register, accumulator, exception register, port, store, message, engine, domain, device and byte of memory as it was,
but for its gD, the words its ports gave up, and what the selector and retirement write: pc, lc, ls, link and loop
stacks, instret, and gang positions. The compares and predicate instructions change one predicate alone in the same
sense. [R15, R42, R43, R46, R64, R67, R70, R71, R74, R76] -/
def Obligations.RegisterFrames : Prop :=
  let frame3 (f : Pre → GReg → GReg → GReg → Instr) (long : Bool) : Prop :=
    ∀ w d a b s, FrameOf (f w d a b) w (.g3 d a b long) d s
  let frame2 (f : Pre → GReg → GReg → Instr) : Prop := ∀ w d a s, FrameOf (f w d a) w (.g2 d a false) d s
  frame3 .add false ∧ frame3 .sub false ∧ frame3 .and false ∧ frame3 .or false ∧ frame3 .xor false ∧ frame3 .andn false ∧
  frame3 .shl false ∧ frame3 .shr false ∧ frame3 .sar false ∧ frame3 .rol false ∧ frame3 .min false ∧ frame3 .max false ∧
  frame3 .minu false ∧ frame3 .maxu false ∧ frame3 .addw false ∧ frame3 .subw false ∧
  frame3 .mul false ∧ frame3 .mulh false ∧ frame3 .mulhu false ∧ frame3 .mulw false ∧
  frame3 .div true ∧ frame3 .divu true ∧ frame3 .rem true ∧ frame3 .remu true ∧ frame3 .rng true ∧
  (∀ sh, frame3 (fun w d a b => .lea w d a b sh) false) ∧
  frame2 .clz ∧ frame2 .ctz ∧ frame2 .popc ∧ frame2 .brev ∧ frame2 .bswap ∧ frame2 .sextb ∧ frame2 .sexth ∧ frame2 .sextw ∧
  frame2 .zextb ∧ frame2 .zexth ∧ frame2 .zextw ∧
  (∀ imm, frame2 (fun w d a => .addi w d a imm)) ∧ (∀ imm, frame2 (fun w d a => .andi w d a imm)) ∧
  (∀ imm, frame2 (fun w d a => .ori w d a imm)) ∧ (∀ imm, frame2 (fun w d a => .xori w d a imm)) ∧
  (∀ n, frame2 (fun w d a => .shli w d a n)) ∧ (∀ n, frame2 (fun w d a => .shri w d a n)) ∧
  (∀ n, frame2 (fun w d a => .sari w d a n)) ∧
  (∀ w d imm s, FrameOf (.movi w d imm) w (.g1 d []) d s) ∧
  (∀ w d a s, FrameOf (.movrFg w d a) w (.g1 d (rf a)) d s) ∧
  (∀ w d p a b s, FrameOf (.sel w d p a b) w { Uses.g3 d a b false with reads := a.refs ++ b.refs ++ rp p } d s) ∧
  -- compares and predicate instructions
  (let one (i : Instr) (w : Pre) (u : Uses) (d : PReg) (s : State) : Prop :=
    Runs i w u s → (∀ v, NextKnown w s.regs.pc ((s.opened u).updRegs (fun r => r.setP d v))) →
      ∃ t v, exec i s = .next t ∧ SameButNext ((s.opened u).updRegs (fun r => r.setP d v)) t ∧ ∀ q, t.byteAt q = s.byteAt q
  let plog (f : Pre → PReg → PReg → PReg → Instr) : Prop := ∀ w d a b s, one (f w d a b) w (.rw (rp a ++ rp b) (rp d) false) d s
  (∀ w c p a b s, one (.cmp w c p a b) w { Uses.a2 a b with writes := rp p } p s) ∧
  (∀ w c p a imm s, one (.cmpi w c p a imm) w (.aw a (rp p)) p s) ∧
  plog .pand ∧ plog .por ∧ plog .pxor ∧ plog .pandn ∧
  (∀ w d a s, one (.pnot w d a) w (.rw (rp a) (rp d) false) d s) ∧
  (∀ w d a s, one (.pmov w d a) w (.rw (rp a) (rp d) false) d s))

/-- JMPR with an even opA goes to it; with opA[0] = 1 it traps 0x05 with opA and pushes nothing. The call form does the
same and pushes the address after the word, where fewer than eight links stand; with eight it traps 0x0A, after the
check of opA. D or B not 0 and an NX other than SEQ make the word illegal. [R79] -/
def Obligations.JumpRegister : Prop :=
  (∀ w a s, let u : Uses := { Uses.a1 a with jumps := true }
    let x := s.val u 0
    let o := s.opened u
    (bit x 0 = false → Goes (.jmpr w a) w u s (o.updRegs (fun r => { r with pc := x }))) ∧
    (bit x 0 = true → Traps (.jmpr w a) w u s 0x05 x) ∧
    (bit x 0 = true → Traps (.jmprCall w a) w u s 0x05 x) ∧
    (bit x 0 = false → 8 ≤ o.regs.link.length → Traps (.jmprCall w a) w u s 0x0A 0) ∧
    (bit x 0 = false → o.regs.link.length < 8 → Goes (.jmprCall w a) w u s
      (o.updRegs (fun r => { r with link := (r.pc + BitVec.ofNat 64 w.size) :: r.link, pc := x })))) ∧
  (∀ chain hi lo, let x := Base.ofParcels hi lo
    chainPage chain = 0 → x.op = 0x28 → (x.d ≠ 0 ∨ x.b ≠ 0 ∨ 2 ≤ x.f.toNat ∨ (1 ≤ x.nx.toNat ∧ x.nx.toNat ≤ 6)) →
      decodeWord chain hi lo = .illegalInstruction 0x01 ((wordOf hi lo).setWidth 64))

/-- TGT writes first + 2·sext(imm) to t0 and changes nothing else. LPS and LPSI push (lc, ls), and set lc to opA or to the
zero-extended immediate with its prefix bits and ls to the next instruction; with four loops open they trap 0x0C and
change nothing (R78, R80). [R39, R64, R78, R80] -/
def Obligations.TargetsAndLoops : Prop :=
  (∀ w imm s, Gives (.tgt w imm) w (.rw [] [⟨5, 2⟩] false) s (s.updRegs (fun r => { r with t0 := r.pc + 2 * immS w imm }))) ∧
  (∀ w a s, let u := Uses.aw a [⟨5, 0⟩, ⟨5, 1⟩]
    (s.regs.loops.length < 4 → Gives (.lps w a) w u s ((s.opened u).updRegs (fun r => { r with
      loops := (r.lc, r.ls) :: r.loops, lc := s.val u 0, ls := r.pc + BitVec.ofNat 64 w.size }))) ∧
    (4 ≤ s.regs.loops.length → Traps (.lps w a) w u s 0x0C 0)) ∧
  (∀ w imm s, let u := Uses.rw [] [⟨5, 0⟩, ⟨5, 1⟩] false
    (s.regs.loops.length < 4 → Gives (.lpsi w imm) w u s (s.updRegs (fun r => { r with
      loops := (r.lc, r.ls) :: r.loops, lc := immU w imm, ls := r.pc + BitVec.ofNat 64 w.size }))) ∧
    (4 ≤ s.regs.loops.length → Traps (.lpsi w imm) w u s 0x0C 0)) ∧
  (∀ (imm : BitVec 10) s nx, immU { s := s, nx := nx, chain := [] } imm = imm.setWidth 64) ∧
  (∀ (imm : BitVec 10) (y : BitVec 9) s nx, immU { s := s, nx := nx, chain := [.imm y] } imm = (y ++ imm).setWidth 64)

/-- GANGn outside a gang, a gate call and M mode, at a core whose x is a multiple of n, with every follower context
DORMANT, its core holding the domain resident and no activation start reaching it in this clock, makes every member READY with
the leader's registers, a zero instret,
no guard touch, arrival or stream of its own and the gang's gstat, which keeps what it said of the last disband, once the run's
MLSF results have returned; otherwise it traps
0x10 with gstat (in M mode by the model's choice, log 101). DISB disbands with REASON 1: every member leaves the gang with
the offset of the disbanding one, goes on where it waited at a REJN, and nothing else of it or of another context changes;
it does nothing outside a gang.
REJN does nothing outside a gang or in an attached follower; a detached follower that issues it waits there; issued by
the leader it takes back those that wait at its address. [R31, R151, R152, R153] -/
def Obligations.Gangs : Prop :=
  (∀ w n s, (n = 2 ∨ n = 4 ∨ n = 8) →
    let i : Instr := if n = 2 then .gang2 w else if n = 4 then .gang4 w else .gang8 w
    let k := s.turn.ctx
    let x := coreX s.turn.core
    let size : BitVec 2 := if n = 2 then 1 else if n = 4 then 2 else 3
    let fresh (f : Fin 8) : Prop := let q := s.core (troupeCore (troupeOf s.turn.core) f)
            q.ctxs[k].state = .dormant ∧ q.retired = false ∧ q.dead = false ∧ q.resident s.regs.tag = true ∧
        (s.updMe (fun x => { x.returned with pending := [] })).startDue (troupeCore (troupeOf s.turn.core) f) k = false
    (s.regs.gstat.inGang = false → s.regs.dom = [] → x % n = 0 → s.mMode = false → s.me.flagsOut = false →
      (∀ f : Fin 8, x < f.val → f.val < x + n → fresh f) →
      ∃ e, Goes i w { jumps := true } s e ∧ e.regs.gstat = { s.regs.gstat with inGang := true, size := size, leader := true, detached := false } ∧
        e.regs.pc = s.regs.pc + BitVec.ofNat 64 w.size ∧
        ∀ f : Fin 8, x < f.val → f.val < x + n → let c := troupeCore (troupeOf s.turn.core) f
          (e.ctx c k).state = .ready ∧
          (e.ctx c k).regs = { e.regs with
            instret := 0, gstat := { e.regs.gstat with leader := false }, guardPending := false, arrOpen := 0, arrPhase := 0
            streams := .replicate 4 .off }) ∧
    ((s.regs.gstat.inGang = true ∨ s.regs.dom ≠ [] ∨ x % n ≠ 0 ∨ s.mMode = true) →
            Traps i w { jumps := true } s 0x10 s.regs.gstat.word) ∧
    (s.me.flagsOut = false → (∃ f : Fin 8, x < f.val ∧ f.val < x + n ∧ ¬ fresh f) → Traps i w { jumps := true } s 0x10 s.regs.gstat.word)) ∧
  (∀ w s, (s.regs.gstat.inGang = true → Gives (.disb w) w {} s (s.disband s.turn.core s.turn.ctx 1 0)) ∧
        (s.regs.gstat.inGang = false → Gives (.disb w) w {} s s)) ∧
  (∀ s : State, let c := s.turn.core
    let k := s.turn.ctx
    let e := s.disband c k 1 0
    (∀ m ∈ s.gang c k, let y := e.ctx m k
      let z := s.ctx m k
      y.regs = { z.regs with gstat := { Gstat.none with reason := 1, member := BitVec.ofNat 3 (coreX c % 2 ^ s.regs.gstat.size.toNat) } } ∧
      y.queue = [] ∧ y.storeBuf = z.storeBuf ∧ y.outbox = z.outbox ∧
      (∀ a, z.wait = some (.rejoin a) → z.state = .blocked → y.wait = none ∧ y.state = .ready) ∧
      ((∀ a, z.wait ≠ some (.rejoin a)) → y.wait = z.wait ∧ y.state = z.state)) ∧
    (∀ m j, ¬(m ∈ s.gang c k ∧ j = k) → e.ctx m j = s.ctx m j) ∧ (∀ p, e.byteAt p = s.byteAt p)) ∧
  (∀ w s, (s.regs.gstat.inGang = false → Gives (.rejn w) w {} s s) ∧
    (s.regs.gstat.inGang = true → s.regs.gstat.leader = false → s.regs.gstat.detached = false → Gives (.rejn w) w {} s s) ∧
    (s.regs.gstat.inGang = true → s.regs.gstat.leader = false → s.regs.gstat.detached = true → Runs (.rejn w) w {} s →
      ∃ t, exec (.rejn w) s = .next t ∧ t.me.state = .blocked ∧ t.me.wait = some (.rejoin s.regs.pc)) ∧
    (s.regs.gstat.inGang = true → s.regs.gstat.leader = true → ∃ e, Gives (.rejn w) w {} s e ∧
      ∀ c ∈ s.gang s.turn.core s.turn.ctx, (s.ctx c s.turn.ctx).wait = some (.rejoin s.regs.pc) →
        (e.ctx c s.turn.ctx).state = .ready ∧ (e.ctx c s.turn.ctx).regs.gstat.detached = false))

/-- SRD of an allocated number writes the CSR's value to gD: the flags, rounding mode, trap registers, selector registers,
core and context numbers, clock and instruction counts, launch values, charged region, depth and the rest at the
places of R15's maps; the M-mode CSRs are read in M mode. Exactly the numbers of R62 are allocated. Reads of cycle,
instret, mrow and mgst are pending for the rest of the run. [R12, R15, R31, R47, R62, R81, R107, R110, R130, R161,
R214] -/
def Obligations.CsrReads : Prop :=
  (∀ w d (n : BitVec 10) s v, let u : Uses := { dst := some d, reads := csrRefs n.toNat, writes := d.refs, long := csrLong n.toNat }
    (n.toNat < 0x200 ∨ s.mMode = true) → (s.opened u).csrRead n.toNat = some v →
      Gives (.srd w d n) w u s ((s.opened u).writeG d v)) ∧
  (∀ n, csrLong n = true ↔ n = 0x00E ∨ n = 0x00F ∨ n = 0x020 ∨ n = 0x021) ∧
  (∀ s n, n < 1024 → ((State.csrRead s n).isSome = true ↔ n ≤ 0x022 ∨ (0x200 ≤ n ∧ n ≤ 0x204) ∨ (0x210 ≤ n ∧ n ≤ 0x245))) ∧
  (∀ s, s.mMode = false → let r := s.regs
    let d := s.dom s.turn.core r.tag
    State.csrRead s 0x000 = some (r.fflg.setWidth 64) ∧ s.csrRead 0x001 = some (r.fen.setWidth 64) ∧
    s.csrRead 0x002 = some (r.frm.setWidth 64) ∧
    s.csrRead 0x003 = some (BitVec.ofNat 64 (r.valw.toNat + 2 ^ 32 * r.lsf.toNat)) ∧
    s.csrRead 0x004 = some (BitVec.ofNat 64 (r.malw.toNat + 2 ^ 8 * r.gwin.toNat + 2 ^ 16 * r.gbud.toNat)) ∧
    s.csrRead 0x005 = some d.tvec ∧ s.csrRead 0x006 = some r.tcause ∧ s.csrRead 0x007 = some r.tval ∧
    s.csrRead 0x008 = some r.tpc ∧ s.csrRead 0x009 = some r.lc ∧ s.csrRead 0x00A = some r.ls ∧ s.csrRead 0x00B = some r.t0 ∧
    s.csrRead 0x00C = some (BitVec.ofNat 64 (64 * s.turn.core.val)) ∧ s.csrRead 0x00D = some (BitVec.ofNat 64 s.turn.ctx.val) ∧
    s.csrRead 0x00E = some (BitVec.ofNat 64 (s.clock - (s.core s.turn.core).resetClock)) ∧ s.csrRead 0x00F = some r.instret ∧
    s.csrRead 0x010 = some r.gfa ∧
    s.csrRead 0x011 = some (BitVec.ofNat 64 (r.gstat.inGang.toNat + 2 * r.gstat.leader.toNat + 4 * r.gstat.size.toNat +
      16 * r.gstat.detached.toNat + 2 ^ 8 * r.gstat.reason.toNat + 2 ^ 12 * r.gstat.member.toNat + 2 ^ 16 * r.gstat.cause.toNat)) ∧
    (∀ i : Fin 8, s.csrRead (0x012 + i.val) = some r.sh[i]) ∧ s.csrRead 0x01A = some (r.bucket.setWidth 64) ∧
    s.csrRead 0x01B = some d.fpsup ∧ s.csrRead 0x01C = some (r.chan.setWidth 64) ∧ s.csrRead 0x01D = some (r.region.setWidth 64) ∧
    s.csrRead 0x01E = some (BitVec.ofNat 64 r.dom.length) ∧ s.csrRead 0x01F = some d.slmt ∧ s.csrRead 0x020 = some r.mrow ∧
    s.csrRead 0x021 = some r.mgst ∧
    s.csrRead 0x022 = some (BitVec.ofNat 64 (r.rplyMode.toNat + 2 * r.rplyMismatch.toNat + 4 * r.rplyBeyond.toNat)))

/-- SWR writes opD, SSB the old value OR opD, SCB the old value AND NOT opD, where the number is one the level may reach,
is allocated, not read-only and the value is legal. A value written to a register reads back, cut to its fields: the
flags, enables and rounding mode, tvec, the trap registers, lc, ls and t0. An M-mode number at program level traps
0x04 with the number in tval; an unallocated number traps 0x01 with the base word; a write, set or clear of a
read-only CSR traps 0x01 with the base word, whatever its data; an unallocated number in M mode and a value that is illegal do
too (a rounding mode above 4, an alignment window of 6 or 7, a governor budget of 0 or above its window). Nothing changes.
[R15, R62, R63, R64, R81, R82, R107, R110] -/
def Obligations.CsrWritesAndTraps : Prop :=
  (let writes (f : Pre → GReg → BitVec 10 → Instr) (old : Bool) (op : Word → Word → Word) : Prop :=
    ∀ w d (n : BitVec 10) s v e, let u : Uses :=
        { srcs := [d], reads := d.refs ++ (if old then csrRefs n.toNat else []), writes := csrRefs n.toNat }
          (n.toNat < 0x200 ∨ s.mMode = true) → (s.opened u).csrRead n.toNat = some v → csrReadOnly n.toNat = false →
        ((s.opened u).csrWrite n.toNat (op v (s.val u 0)) = some e → Gives (f w d n) w u s e) ∧
        ((s.opened u).csrWrite n.toNat (op v (s.val u 0)) = none → Traps (f w d n) w u s 0x01 (f w d n).baseWord)
  writes .swr false (fun _ x => x) ∧ writes .ssb true (fun o x => o ||| x) ∧ writes .scb true (fun o x => o &&& ~~~x) ∧
  (∀ n, n ≤ 0x22 → (csrReadOnly n = true ↔ (0x00C ≤ n ∧ n ≤ 0x01A) ∨ (0x01C ≤ n ∧ n ≤ 0x01E) ∨ (0x020 ≤ n ∧ n ≤ 0x022))) ∧
  (∀ s x, s.mMode = false →
    (∀ n, (n = 0x006 ∨ n = 0x007 ∨ n = 0x008 ∨ n = 0x009 ∨ n = 0x00A ∨ n = 0x00B) →
      ∃ e, State.csrWrite s n x = some e ∧ e.csrRead n = some x) ∧
    (∀ n, (n = 0x000 ∨ n = 0x001) → ∃ e, s.csrWrite n x = some e ∧ e.csrRead n = some (x &&& 0x1F)) ∧
    (x.toNat % 8 < 5 → ∃ e, s.csrWrite 0x002 x = some e ∧ e.csrRead 0x002 = some (x &&& 7)) ∧
        (5 ≤ x.toNat % 8 → s.csrWrite 0x002 x = none) ∧
    (6 ≤ x.toNat % 8 → s.csrWrite 0x003 x = none ∧ s.csrWrite 0x004 x = none) ∧
    (x.toNat / 2 ^ 16 % 2 ^ 10 = 0 ∨ 2 ^ (6 + x.toNat / 2 ^ 8 % 4) < x.toNat / 2 ^ 16 % 2 ^ 10 → s.csrWrite 0x004 x = none) ∧
    (∃ e, s.csrWrite 0x005 x = some e ∧ e.csrRead 0x005 = some x))) ∧
  ((∀ w d (n : BitVec 10) s, let u : Uses := { dst := some d, reads := csrRefs n.toNat, writes := d.refs, long := csrLong n.toNat }
    (0x200 ≤ n.toNat → s.mMode = false → Traps (.srd w d n) w u s 0x04 (n.setWidth 64)) ∧
        (0x23 ≤ n.toNat → n.toNat < 0x200 → Traps (.srd w d n) w u s 0x01 (Instr.srd w d n).baseWord) ∧
    (s.mMode = true → ¬(n.toNat ≤ 0x022 ∨ (0x200 ≤ n.toNat ∧ n.toNat ≤ 0x204) ∨ (0x210 ≤ n.toNat ∧ n.toNat ≤ 0x245)) →
      Traps (.srd w d n) w u s 0x01 (Instr.srd w d n).baseWord)) ∧
  (∀ w d (n : BitVec 10) s, let u : Uses := { srcs := [d], reads := d.refs, writes := csrRefs n.toNat }
    let u' : Uses := { srcs := [d], reads := d.refs ++ csrRefs n.toNat, writes := csrRefs n.toNat }
    (0x200 ≤ n.toNat → s.mMode = false → Traps (.swr w d n) w { u with reads := d.refs ++ [] } s 0x04 (n.setWidth 64) ∧
      Traps (.ssb w d n) w u' s 0x04 (n.setWidth 64) ∧ Traps (.scb w d n) w u' s 0x04 (n.setWidth 64)) ∧
        ((n.toNat < 0x200 ∧ (0x23 ≤ n.toNat ∨ csrReadOnly n.toNat = true)) ∨
      (s.mMode = true ∧ ¬(n.toNat ≤ 0x022 ∨ (0x200 ≤ n.toNat ∧ n.toNat ≤ 0x204) ∨ (0x210 ≤ n.toNat ∧ n.toNat ≤ 0x245))) →
      Traps (.swr w d n) w { u with reads := d.refs ++ [] } s 0x01 (Instr.swr w d n).baseWord ∧
      Traps (.ssb w d n) w u' s 0x01 (Instr.ssb w d n).baseWord ∧
      Traps (.scb w d n) w u' s 0x01 (Instr.scb w d n).baseWord)))

/-- Each load that passes its checks and whose bytes can be read completes with the value in gD: n bytes at opA plus the
sign-extended immediate, the lowest address least significant, sign-extended by LDB, LDH and LDW and zero-extended by
the others; LDA reads at opA. The result is pending for the rest of the run. Bytes of the executing core's own
scratchpad that a window in force grants are readable, and read as memory holds them; nothing else changes. Each store
that passes its checks, whose place the checks of an access answer and which falls in no guard granule, completes:
outside M mode the low n bytes of opD join the thread's store buffer for the place of opA plus the sign-extended
immediate (STL: of opA), low byte first, memory standing as it was, and the thread sees them there and every other
byte as before; in M mode they reach memory at once (the model's reading, log 62), and no other byte changes unless the write makes a protected line
plain; a store of M mode to a busy tile waits. A store into a guard granule stores nothing, one behind a buffered store with acquire or to an SO page waits, and
one to a protected line whose engine holds no key for the tag is an integrity violation (R284). A store to an SO page
orders as a release and an acquire (R250). Bytes of the own scratchpad that a window in force grants are such a place. [R84, R86, R87, R88, R92, R93, R155, R213, R228, R250,
R282, R284] -/
def Obligations.LoadAndStoreResults : Prop :=
  (let loads (f : Pre → GReg → GReg → BitVec 10 → Instr) (n : Nat) (signed : Bool) : Prop := ∀ w d a imm s t x,
    let u := Uses.g2 d a true
    (s.opened u).loadAt (s.val u 0 + immS w imm) n (MemOrd.releases (chainOrd w.chain).1) = .ok (t, x) →
      Gives (f w d a imm) w u s (t.writeG d (if signed then (x.setWidth (8 * n)).signExtend 64 else x))
  loads .ldb 1 true ∧ loads .ldbu 1 false ∧ loads .ldh 2 true ∧ loads .ldhu 2 false ∧ loads .ldw 4 true ∧
  loads .ldwu 4 false ∧ loads .ldd 8 false ∧
  (∀ w z c d a s t x, let u := Uses.g2 d a true
    let n := match z with | .b => 1 | .h => 2 | .w => 4 | .d => 8
    (s.opened u).loadAt (s.val u 0) n (MemOrd.releases (chainOrd w.chain).1) = .ok (t, x) →
      Gives (.lda w z c d a) w u s (t.writeG d x)) ∧
  (∀ (s : State) addr o n rel, (n = 1 ∨ n = 2 ∨ n = 4 ∨ n = 8) → OwnBytes s addr o n true false → (rel = true → s.me.verifs = []) →
    ∃ t, SameButNext s t ∧ s.loadAt addr n rel = .ok (t, BitVec.ofNat 64
      ((List.range n).foldr (fun i x => (s.byteAt (.scratch s.turn.core (o + i))).toNat + 256 * x) 0)))) ∧
  (let effect (i : Instr) (w : Pre) (u : Uses) (n : Nat) (addr : Word) (rel : Bool) (s : State) : Prop :=
    let bs := leBytes n (s.val u 1).toNat
    ∀ l, (s.opened u).storePlace addr n = .ok l →
      (∀ pa, l.place = .phys pa → l.prot = true → (s.opened u).engineKey pa s.regs.tag = none → Runs i w u s →
        exec i s = .next ((s.opened u).ctxIntegrity s.turn.core s.myCtx (pa / 64 * 64) false)) ∧
      ((s.opened u).keyHeld l = .ok () → s.me.fenced = true → Waits i w u s) ∧
      ((s.opened u).keyHeld l = .ok () → s.me.fenced = false →
      (s.mMode = false → (s.opened u).guarded l 0 = false → ∃ e, Gives i w u s e ∧ e.regs = s.regs ∧
        (∃ st, e.me.storeBuf = s.me.storeBuf ++ [st] ∧ st.place = l.place ∧ st.bytes = bs ∧
          st.release = (rel || MemOrd.releases (chainOrd w.chain).1 || decide (l.ty = 3)) ∧
          st.acquire = (MemOrd.acquires (chainOrd w.chain).1 || decide (l.ty = 3)) ∧
          st.ty = l.ty ∧ st.prot = l.prot ∧ st.tag = s.regs.tag) ∧
        (∀ q, e.byteAt q = s.byteAt q) ∧ Stored s.seen e.seen l.place bs) ∧
            (s.mMode = true → (s.opened u).monitorWaits l = true → Waits i w u s) ∧
      (s.mMode = true → (s.opened u).monitorWaits l = false → Safe.memories (s.opened u) →
        (∀ a, l.place = .phys a → homeOf a ≠ .dev ∧ (s.opened u).keyStands a n none) →
        ∃ e, Gives i w u s e ∧ Stored s.byteAt e.byteAt l.place bs) ∧
      ((s.opened u).guarded l 0 = true → ∃ e, Gives i w u s e ∧ e.me.storeBuf = s.me.storeBuf ∧ ∀ q, e.byteAt q = s.byteAt q))
  let stores (f : Pre → GReg → GReg → BitVec 10 → Instr) (n : Nat) : Prop := ∀ w d a imm s, let u := Uses.a2 a d
    effect (f w d a imm) w u n (s.val u 0 + immS w imm) false s
  stores .stb 1 ∧ stores .sth 2 ∧ stores .stw 4 ∧ stores .std 8 ∧
  (∀ w z c d a s, let u := Uses.a2 a d
    effect (.stl w z c d a) w u (match z with | .b => 1 | .h => 2 | .w => 4 | .d => 8) (s.val u 0) true s) ∧
  (∀ (s : State) addr o n, 0 < n → OwnBytes s addr o n false true →
    ∃ l, s.storePlace addr n = .ok l ∧ l.place = .scratch s.turn.core o ∧ s.keyHeld l = .ok () ∧ s.guarded l 0 = false))

/-- A completed load leaves every byte of memory, every buffered store and outbox entry, every other context, engine,
domain, cluster and partition as it was, and of its own registers changes gD alone, with a touch of a guard granule
recorded in gfa and the pending bit, and what the selector and retirement write; one that orders as a release (PFX.O) or reads
an SO page changes in memory what the stores it drains first change, and nothing where none is buffered. A completed store of a
thread changes
no byte of memory, no register but those the selector and retirement write, no other context, port, engine, domain or
device; what the thread sees changes only at the bytes of the place that the store's address gives. A completed store of M mode
changes memory at those bytes only, and else what a thread's does (log 62). Stated for every load and store, with or without
PFX.O. [R43, R46, R86, R87, R88, R89, R92, R93, R228, R250] -/
def Obligations.MemoryFrames : Prop :=
  let bytes (z : Size) : Nat := match z with | .b => 1 | .h => 2 | .w => 4 | .d => 8
  let load (i : Instr) (w : Pre) (d a : GReg) (off : Word) (n : Nat) (signed : Bool) (s : State) : Prop := ∀ t x l,
    let u := Uses.g2 d a true
    let addr := s.val u 0 + off
    let rel := MemOrd.releases (chainOrd w.chain).1
    let e := t.writeG d (if signed then (x.setWidth (8 * n)).signExtend 64 else x)
    let m := if rel = true ∨ l.ty = 3 then (s.opened u).drain s.turn.core s.turn.ctx else s.opened u
    Runs i w u s → (s.opened u).checkAccess addr.toNat n .load = .ok l → (s.opened u).loadAt addr n rel = .ok (t, x) →
      NextKnown w s.regs.pc e →
      ∃ r, exec i s = .next r ∧ SameButNext e r ∧ (∀ p, r.byteAt p = m.byteAt p) ∧
        (s.me.storeBuf = [] ∨ (rel = false ∧ l.ty ≠ 3) → ∀ p, r.byteAt p = s.byteAt p) ∧
        { t.regs with guardPending := false, gfa := 0 } = { s.regs with guardPending := false, gfa := 0 } ∧
        t.me.storeBuf = m.me.storeBuf ∧ t.me.outbox = s.me.outbox ∧
        (∀ c k, ¬(c = s.turn.core ∧ k = s.turn.ctx) → t.ctx c k = m.ctx c k) ∧ t.turn = s.turn ∧
        t.troupes = m.troupes ∧ t.clusters = m.clusters ∧ t.partitions = m.partitions ∧ ∀ c a, t.dom c a = m.dom c a
  let store (i : Instr) (w : Pre) (d a : GReg) (off : Word) (n : Nat) (s : State) : Prop := ∀ l, let u := Uses.a2 a d
    let bs := leBytes n (s.val u 1).toNat
    Runs i w u s → s.me.fenced = false → (s.opened u).storePlace (s.val u 0 + off) n = .ok l → (s.opened u).keyHeld l = .ok () →
      (s.opened u).guarded l 0 = false →
      (∀ e : State, e.regs = s.regs → e.me.verifs = s.me.verifs → e.me.outbox = s.me.outbox → e.mMode = s.mMode →
        NextKnown w s.regs.pc e) →
      (s.mMode = false → ∃ e r, exec i s = .next r ∧ OnlyMine (s.opened u) e ∧ e.regs = s.regs ∧ SameButNext e r ∧
        (∀ p, r.byteAt p = s.byteAt p) ∧ Stored s.seen r.seen l.place bs) ∧
      (s.mMode = true → (s.opened u).monitorWaits l = false → Safe.memories (s.opened u) →
        (∀ a, l.place = .phys a → homeOf a ≠ .dev ∧ (s.opened u).keyStands a n none) →
        ∃ e r, exec i s = .next r ∧ e.regs = s.regs ∧ SameButNext e r ∧ Stored s.byteAt r.byteAt l.place bs ∧
          (∀ c k, ¬(c = s.turn.core ∧ k = s.turn.ctx) → e.ctx c k = s.ctx c k) ∧
          (∀ c, (e.core c).ports = ((s.opened u).core c).ports) ∧ e.clusters = s.clusters ∧ e.dies = s.dies ∧ e.host = s.host ∧
          e.partitions = s.partitions ∧ ∀ c a, e.dom c a = s.dom c a)
  let loads (f : Pre → GReg → GReg → BitVec 10 → Instr) (n : Nat) (signed : Bool) : Prop :=
    ∀ w d a imm s, load (f w d a imm) w d a (immS w imm) n signed s
  let stores (f : Pre → GReg → GReg → BitVec 10 → Instr) (n : Nat) : Prop := ∀ w d a imm s, store (f w d a imm) w d a (immS w imm) n s
  loads .ldb 1 true ∧ loads .ldbu 1 false ∧ loads .ldh 2 true ∧ loads .ldhu 2 false ∧ loads .ldw 4 true ∧ loads .ldwu 4 false ∧
  loads .ldd 8 false ∧ (∀ w z c d a s, load (.lda w z c d a) w d a 0 (bytes z) false s) ∧
  stores .stb 1 ∧ stores .sth 2 ∧ stores .stw 4 ∧ stores .std 8 ∧ (∀ w z c d a s, store (.stl w z c d a) w d a 0 (bytes z) s)

/-- A load, store, AMO or CAS whose address is no multiple of its width traps misaligned, 0x05, with the address; a space
that does not hold the address or does not admit the kind of access traps 0x06: addresses between the spaces, the
deque region, atomics on accumulator memory; in the global space a failed translation or a page that forbids the
access traps 0x07 for a load and 0x08 for a store or atomic. Whatever the checks answer, the instruction takes that
trap in place of its effect (R84, R85, R94). [R84, R85, R94, R96] -/
def Obligations.AccessTraps : Prop :=
  let addrs (s : State) (k : Kind) (n : Nat) (addr : Word) (i : Instr) (w : Pre) (u : Uses) : Prop :=
    (addr.toNat % n ≠ 0 → Traps i w u s 0x05 addr) ∧
    (∀ c v, (s.opened u).checkAccess addr.toNat n k = .error (.trap c v) → Traps i w u s c v)
  let load (f : Pre → GReg → GReg → BitVec 10 → Instr) (n : Nat) : Prop := ∀ w d a imm s, let u := Uses.g2 d a true
    addrs s .load n (s.val u 0 + immS w imm) (f w d a imm) w u
  let store (f : Pre → GReg → GReg → BitVec 10 → Instr) (n : Nat) : Prop := ∀ w d a imm s, let u := Uses.a2 a d
    addrs s .store n (s.val u 0 + immS w imm) (f w d a imm) w u
  load .ldb 1 ∧ load .ldbu 1 ∧ load .ldh 2 ∧ load .ldhu 2 ∧ load .ldw 4 ∧ load .ldwu 4 ∧ load .ldd 8 ∧
  store .stb 1 ∧ store .sth 2 ∧ store .stw 4 ∧ store .std 8 ∧
  (∀ w z c d a s, let u := Uses.g2 d a true
    addrs s .load (match z with | .b => 1 | .h => 2 | .w => 4 | .d => 8) (s.val u 0) (.lda w z c d a) w u) ∧
  (∀ w z c d a s, let u := Uses.a2 a d
    addrs s .store (match z with | .b => 1 | .h => 2 | .w => 4 | .d => 8) (s.val u 0) (.stl w z c d a) w u) ∧
  (∀ w o d a b s, let u := Uses.g3 d a b true
    addrs s .atomic (match o with | .addw => 4 | _ => 8) (s.val u 0) (.amo w o d a b) w u) ∧
  (∀ w dbl d a b s, let c := srcOr w d
    let u : Uses := { srcs := [a, b, c], dst := some d, reads := a.refs ++ b.refs ++ c.refs, writes := d.refs, long := true }
    addrs s .atomic (if dbl then 8 else 4) (s.val u 0) (.cas w dbl d a b) w u) ∧
  -- what the checks answer
  (∀ (s : State) a n k, k ≠ .fetch → a % n = 0 → a < 2 ^ 64 →
    (2 ^ 56 ≤ a → a < 0xFFF0000000000000 → s.checkAccess a n k = .error (.trap 0x06 (BitVec.ofNat 64 a))) ∧
    (0xFFF0000000800000 ≤ a → a < 0xFFF8000000000000 → s.checkAccess a n k = .error (.trap 0x06 (BitVec.ofNat 64 a))) ∧
    (0xFFF8000000020000 ≤ a → a < 0xFFF9000000000000 → s.checkAccess a n k = .error (.trap 0x06 (BitVec.ofNat 64 a))) ∧
    (0xFFFA000000040000 ≤ a → s.checkAccess a n k = .error (.trap 0x06 (BitVec.ofNat 64 a))) ∧
    (0 < n → 0xFFF8000000000000 ≤ a → a < 0xFFF8000000020000 → 0x1F800 ≤ a % 0x20000 →
      s.checkAccess a n k = .error (.trap 0x06 (BitVec.ofNat 64 a))) ∧
    (0 < n → 0xFFF0000000000000 ≤ a → a < 0xFFF0000000800000 → 0x1F800 ≤ a % 0x20000 →
      s.checkAccess a n k = .error (.trap 0x06 (BitVec.ofNat 64 a))) ∧
    (k = .atomic → 0xFFFA000000000000 ≤ a → a < 0xFFFA000000040000 →
      s.checkAccess a n k = .error (.trap 0x06 (BitVec.ofNat 64 a))) ∧
    (a < 2 ^ 56 → s.mMode = false → ∀ c, s.translate s.turn.core s.regs.tag a = .error (.code c) →
      s.checkAccess a n k = .error (.trap (if k = .load then 0x07 else 0x08) (BitVec.ofNat 64 a))) ∧
    (a < 2 ^ 56 → s.mMode = false → ∀ l, s.translate s.turn.core s.regs.tag a = .ok l →
      (match k with | .load => l.r | .store => l.w | _ => l.r && l.w) = false →
        s.checkAccess a n k = .error (.trap (if k = .load then 0x07 else 0x08) (BitVec.ofNat 64 a))))

/-- AMO and CAS that pass their checks, with the store buffer drained and the location readable, complete with the old
value in gD, a 4-byte value sign-extended. AMO leaves the combined value of its code; CAS leaves opB where the
location held the compare value, PFX.R's register or gD, and else leaves the location. On bytes of the own scratchpad
that a window in force grants, the location then holds exactly the new bytes and no other byte of memory changes. A
FENCE completes once its conditions hold: for REL and FULL the store buffer drained and no verification pending; ACQ
lets merged WC stores leave, and with them the earlier stores that they must not pass. At CLUSTER scope and wider a pending guard fault raises 0x09 at it and it is not
performed, the fault staying pending while the trap waits for the run's MLSF results; REL and FULL wait, with nothing of their effect, while a verification is pending. CMIT with neither pending
and the outbox empty is a commit point: the undo log is cleared and the activation is restorable. [R47, R64, R89, R91,
R94, R95, R96, R97, R98, R176, R229] -/
def Obligations.AtomicAndFenceResults : Prop :=
  (let combine (o : AmoOp) (x y : Word) : Word := match o with
    | .add => x + y | .swp => y | .and => x &&& y | .or => x ||| y | .xor => x ^^^ y
    | .min => if x.toInt ≤ y.toInt then x else y | .max => if x.toInt ≤ y.toInt then y else x
    | .minu => if x.toNat ≤ y.toNat then x else y | .maxu => if x.toNat ≤ y.toNat then y else x
    | .addw => ((x + y).extractLsb' 0 32).setWidth 64
  (∀ w o d a b s l t old, let u := Uses.g3 d a b true
    let n := match o with | .addw => 4 | _ => 8
    (s.opened u).checkAccess (s.val u 0).toNat n .atomic = .ok l →
      (s.opened u).atomicLoc l n (MemOrd.releases (chainOrd w.chain).1)
        (fun old => some (combine o (BitVec.ofNat 64 old) (s.val u 1)).toNat) = .ok (t, old) →
      Gives (.amo w o d a b) w u s (t.writeG d (((BitVec.ofNat 64 old).setWidth (8 * n)).signExtend 64))) ∧
  (∀ w dbl d a b s l t old, let c := match chainSrc w.chain with | some c => (greg? c).getD d | none => d
    let u : Uses := { srcs := [a, b, c], dst := some d, reads := a.refs ++ b.refs ++ c.refs, writes := d.refs, long := true }
    let n := if dbl then 8 else 4
    (s.opened u).checkAccess (s.val u 0).toNat n .atomic = .ok l →
      (s.opened u).atomicLoc l n (MemOrd.releases (chainOrd w.chain).1)
        (fun old => if old = (s.val u 2).toNat % 2 ^ (8 * n) then some ((s.val u 1).toNat % 2 ^ (8 * n)) else none) = .ok (t, old) →
      Gives (.cas w dbl d a b) w u s (t.writeG d (((BitVec.ofNat 64 old).setWidth (8 * n)).signExtend 64))) ∧
  (∀ (s : State) addr o n rel f, (n = 4 ∨ n = 8) → OwnBytes s addr o n true true → Safe.memories s → (rel = true → s.me.verifs = []) →
    let old := (List.range n).foldr (fun i x => (s.byteAt (.scratch s.turn.core (o + i))).toNat + 256 * x) 0
    ∃ l t, s.checkAccess addr.toNat n .atomic = .ok l ∧ s.atomicLoc l n rel f = .ok (t, old) ∧ t.regs = s.regs ∧
      (∀ v, f old = some v → Stored s.byteAt t.byteAt (.scratch s.turn.core o) (leBytes n v)) ∧
      (f old = none → ∀ p, t.byteAt p = s.byteAt p))) ∧
  ((∀ w k c s, s.me.verifs = [] → s.me.storeBuf = [] → (c = .core ∨ s.regs.guardPending = false) →
    ∃ e, Gives (.fence w k c) w {} s e ∧ OnlyMine s e ∧ e.regs = s.regs ∧ e.me.storeBuf = []) ∧
  (∀ w c s, s.mMode = false → (c = .core ∨ s.regs.guardPending = false) →
    (s.wcFree s.me = true → ∃ e, Gives (.fence w .acq c) w {} s e ∧ e.regs = s.regs ∧
      e.me.storeBuf = s.me.storeBuf.filter (fun st => !st.wc)) ∧
    (s.wcFree s.me = false → s.me.storeBuf.all (s.leaves s.me) = true →
      ∃ e, Gives (.fence w .acq c) w {} s e ∧ e.regs = s.regs ∧ e.me.storeBuf = []) ∧
    (s.wcFree s.me = false → s.me.storeBuf.all (s.leaves s.me) = false → Waits (.fence w .acq c) w {} s)) ∧
  (∀ w k c s, (k = .rel ∨ k = .full) → s.me.verifs ≠ [] → Waits (.fence w k c) w {} s) ∧
    (∀ w k c s, s.me.verifs = [] → s.me.storeBuf = [] → c ≠ .core → s.regs.guardPending = true → Runs (.fence w k c) w {} s →
    (s.trapWaits = false → exec (.fence w k c) s =
      .next ((s.updRegs (fun r => { r with guardPending := false, gfa := s.regs.gfa })).takeTrap 0x09 0)) ∧
    (s.trapWaits = true → exec (.fence w k c) s = .next (s.block (.reissue false)))) ∧
  (∀ w s, s.me.verifs = [] → s.regs.guardPending = false → s.me.outbox = [] → Gives (.cmit w) w {} s
    (s.updMe (fun x => { x with undo := [], restorable := true, restore := none, rolledBack := false }))))

/-- From every state whose physical memory, scratchpads, accumulator memories, stage-manager SRAMs and peer area are in
canonical form (addresses rising, no zero byte listed), a step that goes on leaves all of them so: two memories that
read alike stay equal data through loads, stores, atomics, engine jobs, scrubs, kills, checkpoints and resets. [R5,
R86, R154, R222, R343] -/
def Obligations.MemoriesKept : Prop :=
  ∀ s s' : State, Safe.memories s → step s = .next s' → Safe.memories s'

/-- The state after reset lists no byte of any memory, so that each is in canonical form; DRAM, the vaults and the
scratchpads read as zeros, the contents bringup leaves (R343); every other byte, host memory among them, reads as zero by the
model's choice (log 5). After core reset every accumulator element and mismatch
flag is 0 and every tile unowned, engine sequence numbers start at 0, table pairs are invalid and handles FREE;
barriers are free with count 0; board entries, pend and guard bitmaps are 0, fpsup names the core's own address and
channel 59, spbud is 6580, no injection is armed, and the first theft tries north. The error logs hold no record and
the clock starts at 0. [R15, R28, R111, R154, R158, R163, R184, R189, R193, R194, R221, R227] -/
def Obligations.ResetState : Prop :=
  (Safe.memories State.reset ∧ (∀ a, State.reset.mem.read a = 0) ∧ (∀ c o, (State.reset.core c).scratch.read o = 0) ∧
  ∀ t o, (State.reset.troupe t).acc.read o = 0) ∧
  (let s := State.reset
  (∀ t : TroupeId, let q := s.troupe t
    (∀ o, q.acc.read o = 0) ∧ (∀ i : Fin 16, q.flags[i] = 0 ∧ q.owners[i] = none) ∧ q.matSeq = 0 ∧ q.copySeq = 0 ∧
    (∀ i : Fin 4, q.pairs[i].a.valid = false ∧ q.pairs[i].b.valid = false) ∧
    (∀ i : Fin 32, q.handles[i].state = .free ∧ q.handles[i].held = false)) ∧
  (∀ l : ClusterId, ∀ i : Fin 32, (s.cluster l).barriers[i].tag = none ∧ (s.cluster l).barriers[i].count = 0) ∧
  (∀ (c : CoreId) a, let d := s.dom c a
    (∀ i : Fin 64, d.board[i] = 0) ∧ d.pend = 0 ∧ d.guard = 0 ∧ d.deque = [] ∧ d.fpsup = BitVec.ofNat 64 (64 * c.val + 59)) ∧
  (∀ c : CoreId, (s.core c).spbud = 6580 ∧ (s.core c).einjArm = false ∧ (s.core c).dead = false ∧ (s.core c).lastSteal.next = .north) ∧
  (∀ d : DieId, s.dies[d].log.count = 0 ∧ s.dies[d].log.read = 0) ∧ s.clock = 0)

/-- FADD to FSQRT and the fused forms compute in the format the instruction names, round once in the mode of frm, write fD
with zeros above the format, OR their flags into fflg and make an FP event where an enabled flag is raised. The
special cases are those of the arithmetic rules: infinities of opposite sign and 0·∞ give the canonical NaN and NV, a
finite number divided by 0 gives ∞ and DZ, the square root of a negative number the canonical NaN and NV, an exact
zero sum +0 but −0 when rounding down; the first NaN operand is returned quieted. A sum, difference, product, quotient, root or
fused result of finite numbers that is not zero is the exact one rounded by the mode: no value of the format is nearer, or the
value is the first on the side the mode names, with NX, OF and UF as the rounding outcomes give them. FP64 results, FDIV and FSQRT are
pending for the rest of the run. [R47, R100, R107, R108, R109, R110, R111, R117, R118] -/
def Obligations.FloatArithmetic : Prop :=
  let fmt (dbl : Bool) : Fmt := if dbl then fp64 else fp32
  let arith (f : Pre → Bool → FReg → FReg → FReg → Instr) (long : Bool → Bool) (op : Fmt → Nat → Nat → Nat → Fp) : Prop :=
    ∀ w dbl d a b (s : State), let x := s.regs.f[a]
      let y := s.regs.f[b]
      let r := op (fmt dbl) s.regs.frm.toNat x.toNat y.toNat
      Gives (f w dbl d a b) w (.rw (rf a ++ rf b) (rf d) (long dbl)) s
        ((s.updRegs (fun q => { q with f := q.f.set d (BitVec.ofNat 64 r.bits) })).raiseFlags r.flags x y)
  let fused (f : Pre → Bool → FReg → FReg → FReg → Instr) (negP negC : Bool) : Prop :=
    ∀ w dbl d a b (s : State), let c : FReg := match chainSrc w.chain with | some c => Fin.ofNat 32 c.toNat | none => d
      let x := s.regs.f[a]
      let y := s.regs.f[b]
      let r := (fmt dbl).fma s.regs.frm.toNat negP negC x.toNat y.toNat s.regs.f[c].toNat
      Gives (f w dbl d a b) w (.rw (rf a ++ rf b ++ rf c) (rf d) dbl) s
        ((s.updRegs (fun q => { q with f := q.f.set d (BitVec.ofNat 64 r.bits) })).raiseFlags r.flags x y)
  arith .fadd id Fmt.add ∧ arith .fsub id Fmt.sub ∧ arith .fmul id Fmt.mul ∧ arith .fdiv (fun _ => true) Fmt.div ∧
  arith .fmin id (fun t _ x y => t.pick false x y) ∧ arith .fmax id (fun t _ x y => t.pick true x y) ∧
  fused .fma false false ∧ fused .fms false true ∧ fused .fnma true false ∧ fused .fnms true true ∧
  (∀ w dbl d a (s : State), let x := s.regs.f[a]
    let r := (fmt dbl).sqrt s.regs.frm.toNat x.toNat
    Gives (.fsqrt w dbl d a) w (.rw (rf a) (rf d) true) s
      ((s.updRegs (fun q => { q with f := q.f.set d (BitVec.ofNat 64 r.bits) })).raiseFlags r.flags x 0)) ∧
  -- flags and events
  (∀ (s : State) fl x y, let t := s.raiseFlags fl x y
    t.regs = { s.regs with fflg := s.regs.fflg ||| fl } ∧ (fl &&& s.regs.fen = 0 → t.me.event = s.me.event) ∧
    (fl &&& s.regs.fen ≠ 0 → s.me.event = none →
      t.me.event = some { flags := fl &&& s.regs.fen, addr := s.regs.pc, opA := x, opB := y, sent := false, again := 0 })) ∧
  -- special cases, in both formats
  (∀ dbl rm, rm < 5 → let t := fmt dbl
    t.add rm (t.inf false) (t.inf true) = ⟨t.canonical, 16⟩ ∧ t.sub rm (t.inf false) (t.inf false) = ⟨t.canonical, 16⟩ ∧
    t.mul rm (t.zero false) (t.inf true) = ⟨t.canonical, 16⟩ ∧ t.div rm (t.zero false) (t.zero true) = ⟨t.canonical, 16⟩ ∧
    t.div rm (t.inf false) (t.inf true) = ⟨t.canonical, 16⟩ ∧ t.sqrt rm (t.inf true) = ⟨t.canonical, 16⟩ ∧
    t.sqrt rm (t.zero true) = ⟨t.zero true, 0⟩ ∧ t.add rm (t.zero false) (t.zero true) = ⟨t.zero (decide (rm = 3)), 0⟩ ∧
    t.div rm (t.bias * 2 ^ t.mb) (t.zero true) = ⟨t.inf true, 8⟩ ∧
    t.fma rm false false (t.zero false) (t.inf false) (t.canonical) = ⟨t.canonical, 16⟩ ∧
    t.pick true (t.zero true) (t.zero false) = ⟨t.zero false, 0⟩ ∧ t.pick false (t.zero false) (t.zero true) = ⟨t.zero true, 0⟩) ∧
  (∀ dbl rm neg f y, let t := fmt dbl
    0 < f → f < 2 ^ t.mb → (t.value y).isNan = false →
            (t.add rm (t.inf neg + f) y).bits = t.inf neg + (f ||| 2 ^ (t.mb - 1)) ∧
        (t.add rm (t.inf neg + f) y).flags = (if f < 2 ^ (t.mb - 1) then 16 else 0)) ∧
  -- results of finite numbers
    (∀ t ∈ [fp64, fp32, fp16, bf16], ∀ rm x y n m e n' m' e',
    rm < 5 → t.value x = .fin n m e → t.value y = .fin n' m' e' →
    let a := (t.value x).num
    let b := (t.value y).num
    (a + b ≠ 0 → RoundsNum t rm (a + b) (t.add rm x y)) ∧ (a - b ≠ 0 → RoundsNum t rm (a - b) (t.sub rm x y)) ∧
    (a + b = 0 → t.add rm x y = ⟨t.zero (if n = n' then n else decide (rm = 3)), 0⟩) ∧
    (a - b = 0 → t.sub rm x y = ⟨t.zero (if n ≠ n' then n else decide (rm = 3)), 0⟩) ∧
    (a * b ≠ 0 → RoundsNum t rm (a * b) (t.mul rm x y)) ∧ (a * b = 0 → t.mul rm x y = ⟨t.zero (n != n'), 0⟩) ∧
    (b ≠ 0 → a ≠ 0 → RoundsNum t rm (a / b) (t.div rm x y)) ∧ (b ≠ 0 → a = 0 → t.div rm x y = ⟨t.zero (n != n'), 0⟩) ∧
    (0 < a → Rounds t rm (fun z => if z < 0 then .lt else cmp (z * z) a) false (t.sqrt rm x)) ∧
    (a < 0 → t.sqrt rm x = ⟨t.canonical, 16⟩) ∧
    (∀ z n'' m'' e'' negP negC, t.value z = .fin n'' m'' e'' →
      let s := (if negP then -1 else 1) * (a * b) + (if negC then -1 else 1) * (t.value z).num
      (s ≠ 0 → RoundsNum t rm s (t.fma rm negP negC x y z)) ∧
      (s = 0 → let p := (n != n') != negP
        t.fma rm negP negC x y z = ⟨t.zero (if p = (n'' != negC) then p else decide (rm = 3)), 0⟩)))

/-- FCMP writes to its predicate whether the values meet the condition, −0 equal to +0, and raises NV for any NaN with LT
and LE and for a signalling NaN with the others; FCLS writes a word with the one bit of the class of the pattern; the
moves copy, invert, clear or take over the sign bit of the pattern, quiet no NaN and raise no flag; FCVT writes the
converted value, the exact one rounded by the mode, with 2^63 − 1, 2^64 − 1, −2^63 or 0 and NV for NaNs and integers out of
range, a NaN quieted with the top of its payload; SCAL writes the
exponent field, 127 for 0 and 0xFF for infinities and NaNs. [R47, R64, R100, R110, R119, R120, R121, R122, R126] -/
def Obligations.FloatTestsAndMoves : Prop :=
  let fmt (dbl : Bool) : Fmt := if dbl then fp64 else fp32
  let move (f : Pre → Bool → FReg → FReg → Instr) (op : Fmt → Nat → Nat) : Prop := ∀ w dbl d a (s : State),
    let x := s.regs.f[a]
    Gives (f w dbl d a) w (.rw (rf a) (rf d) false) s
      ((s.updRegs (fun q => { q with f := q.f.set d (BitVec.ofNat 64 (op (fmt dbl) x.toNat)) })).raiseFlags 0 x 0)
  (∀ w dbl c p a b (s : State), let x := (fmt dbl).value s.regs.f[a].toNat
    let y := (fmt dbl).value s.regs.f[b].toNat
    let o := cmpVal x y
    let holds : Bool := match c with
      | .eq => decide (o = some .eq) | .lt => decide (o = some .lt) | .le => decide (o = some .lt ∨ o = some .eq)
      | .un => decide (o = none) | .ne => decide (o ≠ some .eq)
    let nv : Bool := match c with | .lt | .le => x.isNan || y.isNan | _ => x.isSig || y.isSig
    Gives (.fcmp w dbl c p a b) w (.rw (rf a ++ rf b) (rp p) dbl) s
      ((s.updRegs (fun q => q.setP p holds)).raiseFlags (if nv then 16 else 0) s.regs.f[a] s.regs.f[b])) ∧
  (∀ dbl, let t := fmt dbl
    cmpVal (t.value (t.zero true)) (t.value (t.zero false)) = some .eq ∧ cmpVal (t.value (t.inf true)) (t.value (t.inf false)) = some .lt ∧
        cmpVal (t.value t.canonical) (t.value 0) = none ∧ cmpVal (t.value 0) (t.value 1) = some .lt) ∧
  (∀ x y : Val, cmpVal x y = numOrder x y) ∧
  (∀ w dbl d (a : FReg) (s : State), let u := Uses.g1 d (rf a)
    let t := fmt dbl
    let x : Nat := (s.opened u).regs.f[a].toNat
    let neg : Bool := x.testBit (t.eb + t.mb)
    let e := x / 2 ^ t.mb % 2 ^ t.eb
    let f := x % 2 ^ t.mb
    let k := if e = 2 ^ t.eb - 1 then (if f = 0 then (if neg then 0 else 7) else if f < 2 ^ (t.mb - 1) then 8 else 9)
      else if e = 0 then (if f = 0 then (if neg then 3 else 4) else if neg then 2 else 5) else if neg then 1 else 6
    Gives (.fcls w dbl d a) w u s ((s.opened u).writeG d (BitVec.ofNat 64 (2 ^ k)))) ∧
  (move .fmv (fun t x => x % 2 ^ t.width) ∧ move .fneg (fun t x => (x ^^^ t.signBit) % 2 ^ t.width) ∧
      move .fabs (fun t x => x % t.signBit)) ∧
  (∀ w dbl d a b (s : State), let x := s.regs.f[a]
    let y := s.regs.f[b]
    let t := fmt dbl
    let z := x.toNat % t.signBit + (if y.toNat / t.signBit % 2 = 1 then t.signBit else 0)
    Gives (.fcpys w dbl d a b) w (.rw (rf a ++ rf b) (rf d) false) s
      ((s.updRegs (fun q => { q with f := q.f.set d (BitVec.ofNat 64 z) })).raiseFlags 0 x y)) ∧
  (∀ w k d a (s : State),
    let long : Bool := match k with | .f32f64 | .f64f32 | .i64f64 | .u64f64 | .f64i64 | .f64u64 => true | _ => false
    let u : Uses := { srcs := a.srcs, dst := d.gdst, reads := a.refs, writes := d.refs, long := long }
    let o := s.opened u
    let x := a.read (s.val u 0) o
    let rm := o.regs.frm.toNat
    let r : Fp := match k with
      | .f32f64 => convert fp32 fp64 rm x.toNat | .f64f32 => convert fp64 fp32 rm x.toNat
      | .f16f32 => convert fp16 fp32 rm x.toNat | .f32f16 => convert fp32 fp16 rm x.toNat
      | .bf16f32 => convert bf16 fp32 rm x.toNat | .f32bf16 => convert fp32 bf16 rm x.toNat
      | .i64f64 => toInteger fp64 rm true 64 x.toNat | .i64f32 => toInteger fp32 rm true 64 x.toNat
      | .u64f64 => toInteger fp64 rm false 64 x.toNat | .u64f32 => toInteger fp32 rm false 64 x.toNat
      | .f64i64 => ofInteger fp64 rm x.toInt | .f32i64 => ofInteger fp32 rm x.toInt
      | .f64u64 => ofInteger fp64 rm x.toNat | .f32u64 => ofInteger fp32 rm x.toNat
      | .wf19f32 => convert wf19 fp32 rm x.toNat | .f32wf19 => convert fp32 wf19 rm x.toNat
    Gives (.fcvt w k d a) w u s ((o.writeScalar d (BitVec.ofNat 64 r.bits)).raiseFlags r.flags x 0)) ∧
  (∀ dbl rm, let t := fmt dbl
    toInteger t rm true 64 t.canonical = ⟨2 ^ 63 - 1, 16⟩ ∧ toInteger t rm false 64 t.canonical = ⟨2 ^ 64 - 1, 16⟩ ∧
    toInteger t rm true 64 (t.inf true) = ⟨2 ^ 63, 16⟩ ∧ toInteger t rm true 64 (t.inf false) = ⟨2 ^ 63 - 1, 16⟩ ∧
        toInteger t rm false 64 (t.inf true) = ⟨0, 16⟩ ∧ toInteger t rm false 64 (t.inf false) = ⟨2 ^ 64 - 1, 16⟩) ∧
  -- the rounded conversions, of finite numbers, infinities and NaNs
  (∀ dst src : Fmt, (dst = fp64 ∧ src = fp32) ∨ (dst = fp32 ∧ src ∈ [fp64, fp16, bf16, wf19]) ∨ (dst ∈ [fp16, bf16, wf19] ∧ src = fp32) →
    ∀ rm x, rm < 5 → Converts dst src rm x (convert dst src rm x)) ∧
  (∀ dbl rm (v : Int), let t := fmt dbl
    rm < 5 → -(2 ^ 63) ≤ v → v < 2 ^ 64 → (v ≠ 0 → RoundsNum t rm v (ofInteger t rm v)) ∧ ofInteger t rm 0 = ⟨t.zero false, 0⟩) ∧
  (∀ dbl rm signed x, rm < 5 → ConvertsInt (fmt dbl) rm signed 64 x (toInteger (fmt dbl) rm signed 64 x)) ∧
  (∀ w d (a : FReg) (s : State), let u := Uses.g1 d (rf a)
    let x : Nat := (s.opened u).regs.f[a].toNat % 2 ^ 32
    let e : Nat := x / 2 ^ 23 % 256
    let r : Nat := if e = 255 then 255 else if x % 0x80000000 = 0 then 127 else e
    let fl : Fl := if e = 255 then (if x % 0x800000 < 0x400000 then 16 else 0) else 0
    Gives (.scal w d a) w u s (((s.opened u).writeG d (BitVec.ofNat 64 r)).raiseFlags fl (s.opened u).regs.f[a] 0))

/-- TBLD whose image can be read loads the slot it names with the low 19 bits of the image's 256 words, the width of word
0 and the mode of the form, and an address that is no multiple of 64 traps 0x05. ENC and DEC whose table is valid
complete with the code of fA in gD and its flags, and with the FP32 value of the code in fD; an invalid slot traps
0x0F with the table number. In E4M3, −9.6 encodes as 0xD2 with NX, 416 as 0x7D exactly, 464 overflows to 0x7E, and
0xD2 decodes to −10. [R47, R103, R104, R105, R106, R123, R124, R125] -/
def Obligations.CodeTables : Prop :=
  (∀ w slotB twos a s, let u : Uses := { srcs := [a], reads := a.refs, writes := [if slotB then ⟨6, 1⟩ else ⟨6, 0⟩], long := true }
    (∀ t bs, (s.opened u).readImage (s.val u 0) = .ok (t, bs) → Gives (.tbld w slotB twos a) w u s
      (t.updRegs (fun r => if slotB then { r with tb := tableOf bs twos } else { r with ta := tableOf bs twos }))) ∧
    ((s.val u 0).toNat % 64 ≠ 0 → Traps (.tbld w slotB twos a) w u s 0x05 (s.val u 0))) ∧
  (∀ bs twos, let t := tableOf bs twos
    (∀ i : Fin 256, t.entries[i] = BitVec.ofNat 19 (leNat ((bs.drop (4 * i.val)).take 4))) ∧
    t.w4 = (leNat (bs.take 4)).testBit 31 ∧ t.twos = twos) ∧
  (∀ w t inf d a s, let tab := (s.regs.codes t)
    let u : Uses := { Uses.g1 d (rf a) with tables := match t with | .ta => [⟨6, 0⟩] | .tb => [⟨6, 1⟩] | _ => [] }
    (tab.valid = true → Gives (.enc w t inf d a) w u s
      (((s.opened u).writeG d (BitVec.ofNat 64 (tab.enc inf s.regs.f[a].toNat).bits)).raiseFlags
        (tab.enc inf s.regs.f[a].toNat).flags s.regs.f[a] 0)) ∧
    (tab.valid = false → Traps (.enc w t inf d a) w u s 0x0F
      (match t with | .e4m3 => 0 | .e5m2 => 1 | .int8 => 2 | .e2m1 => 3 | .ta => 4 | .tb => 5))) ∧
  (∀ w t d a s, let tab := (s.regs.codes t)
    let u : Uses := { Uses.aw a (rf d) with tables := match t with | .ta => [⟨6, 0⟩] | .tb => [⟨6, 1⟩] | _ => [] }
    (tab.valid = true → Gives (.dec w t d a) w u s
      ((s.opened u).updRegs (fun r => { r with f := r.f.set d (BitVec.ofNat 64 (tab.dec (s.val u 0).toNat)) }))) ∧
    (tab.valid = false → Traps (.dec w t d a) w u s 0x0F
      (match t with | .e4m3 => 0 | .e5m2 => 1 | .int8 => 2 | .e2m1 => 3 | .ta => 4 | .tb => 5))) ∧
  (∀ r : Regs, (r.codes .e4m3).enc false 0xC119999A = ⟨0xD2, 1⟩ ∧ (r.codes .e4m3).enc false 0x43D00000 = ⟨0x7D, 0⟩ ∧
    (r.codes .e4m3).enc false 0x43E80000 = ⟨0x7E, 5⟩ ∧ (r.codes .e4m3).dec 0xD2 = 0xC1200000)

/-- VADD to VSAR, VFMA, VABS and VNEG whose sources can be read complete with the operation's result in every active
element of vD, 0 or the old element elsewhere, and the flags of the active elements in fflg; no other register
changes. Integer elements wrap modulo 2^width, shifts take the low bits of the B element; float elements follow the
scalar rules of their format. The B operand is a vector or one scalar in every element. A destination in stream mode
raises illegal instruction, before other traps of the instruction (log 131); a source out of stream mode reads its register, and a finished stream reads zeros. [R47,
R127, R128, R129, R131, R132, R149] -/
def Obligations.VectorElements : Prop :=
  let fmt (t : ElemTy) : Fmt := match t with | .bf16 => bf16 | .fp16 => fp16 | .f64 => fp64 | _ => fp32
  let signed (t : ElemTy) (x : Nat) : Int := if x < 2 ^ (8 * t.bytes - 1) then (x : Int) else (x : Int) - ((2 ^ (8 * t.bytes) : Nat) : Int)
  let int (f : Nat → Nat → Nat) (x y : Nat) : Fp := ⟨f x y, 0⟩
  let elem (f : Pre → ElemTy → VReg → VReg → VSrc → Instr) (op : ElemTy → Nat → Nat → Nat → Fp) : Prop := ∀ w t d a b (s : State),
    let u : Uses := { srcs := b.srcs, reads := rv a ++ b.refs, writes := rv d, long := s.regs.streaming a || b.streaming s.regs }
    let n := t.bytes
    (s.regs.streaming d = true → Traps (f w t d a b) w u s 0x01 (f w t d a b).baseWord) ∧
    (s.regs.streaming d = false → ∀ s1 x s2 y, (s.opened u).readV a = .ok (s1, x) → s1.readB b (s.val u 0) n = .ok (s2, y) →
      ∃ e, Gives (f w t d a b) w u s e ∧ Lanes s2 e w n d (fun j => op t s2.regs.frm.toNat (lane x n j) (lane y n j)))
  let elem1 (f : Pre → ElemTy → VReg → VReg → Instr) (op : ElemTy → Nat → Nat) : Prop := ∀ w t d a (s : State),
    let u : Uses := { reads := rv a, writes := rv d, long := s.regs.streaming a }
    (s.regs.streaming d = true → Traps (f w t d a) w u s 0x01 (f w t d a).baseWord) ∧
    (s.regs.streaming d = false → ∀ s1 x, s.readV a = .ok (s1, x) →
      ∃ e, Gives (f w t d a) w u s e ∧ Lanes s1 e w t.bytes d (fun j => ⟨op t (lane x t.bytes j), 0⟩))
  elem .vadd (fun t rm x y => if t.isInt then ⟨x + y, 0⟩ else (fmt t).add rm x y) ∧
  elem .vsub (fun t rm x y => if t.isInt then ⟨x + 2 ^ (8 * t.bytes) - y, 0⟩ else (fmt t).sub rm x y) ∧
  elem .vmul (fun t rm x y => if t.isInt then ⟨x * y, 0⟩ else (fmt t).mul rm x y) ∧
  elem .vmin (fun t _ x y => if t.isInt then ⟨if signed t x < signed t y then x else y, 0⟩ else (fmt t).pick false x y) ∧
  elem .vmax (fun t _ x y => if t.isInt then ⟨if signed t x < signed t y then y else x, 0⟩ else (fmt t).pick true x y) ∧
  elem .vand (fun _ _ => int (fun x y => x &&& y)) ∧ elem .vor (fun _ _ => int (fun x y => x ||| y)) ∧
  elem .vxor (fun _ _ => int (fun x y => x ^^^ y)) ∧
  elem .vshl (fun t _ => int (fun x y => x * 2 ^ (y % (8 * t.bytes)))) ∧
  elem .vshr (fun t _ => int (fun x y => x / 2 ^ (y % (8 * t.bytes)))) ∧
  elem .vsar (fun t _ => int (fun x y =>
    ((signed t x / ((2 ^ (y % (8 * t.bytes)) : Nat) : Int)) % ((2 ^ (8 * t.bytes) : Nat) : Int)).toNat)) ∧
  elem1 .vabs (fun t x => if t.isInt then (signed t x).natAbs else x % (fmt t).signBit) ∧
  elem1 .vneg (fun t x => if t.isInt then 2 ^ (8 * t.bytes) - x else (x ^^^ (fmt t).signBit) % 2 ^ (fmt t).width) ∧
  (∀ w t d a b (s : State), let c : VReg := match chainSrc w.chain with | some c => Fin.ofNat 32 c.toNat | none => d
    let u : Uses := { srcs := b.srcs, reads := rv a ++ b.refs ++ rv c, writes := rv d, long := true }
    let n := t.bytes
    s.regs.streaming d = false → ∀ s1 x s2 y s3 z, (s.opened u).readV a = .ok (s1, x) → s1.readB b (s.val u 0) n = .ok (s2, y) →
      s2.readV c = .ok (s3, z) → ∃ e, Gives (.vfma w t d a b) w u s e ∧
        Lanes s3 e w n d (fun j => (fmt t).fma s3.regs.frm.toNat false false (lane x n j) (lane y n j) (lane z n j))) ∧
  (∀ (s : State) (n : VReg), (s.regs.streaming n = false → s.readV n = .ok (s, s.regs.v[n])) ∧
    (s.regs.streaming n = true → let q := s.regs.streams[(⟨(n.val - 28) % 4, by omega⟩ : Fin 4)]
      q.inner.toNat * q.outer.toNat ≤ q.popped → s.readV n = .ok (s, 0))) ∧
  (∀ (s : State) (x : Scalar) g (t : ElemTy) j, j < 64 / t.bytes → ∃ y, s.readB (.bcast x) g t.bytes = .ok (s, y) ∧
    lane y t.bytes j = (match x with | .gx _ => g | .fx n => s.regs.f[n]).toNat % 2 ^ (8 * t.bytes))

/-- With sources that can be read and a destination out of stream mode: VBC writes a scalar to every active element; VPERM
element j from the element of A that element j of B numbers, 0 where it numbers none; VSLD element j from element j +
opB, 0 outside the register; VINS one element, masked or not, and nothing where opB numbers none; VEXT one element,
sign-extended in a g register, 0 where opB numbers none; VSEL elements of A where the mask holds and of B elsewhere;
VDEC the values of codes. Elements that are not active are 0 under zeroing or as they were. [R64, R104, R127, R128,
R134, R137, R138, R139, R140, R146] -/
def Obligations.VectorMoves : Prop :=
  (∀ w t d a s, let u : Uses := { srcs := a.srcs, reads := a.refs, writes := rv d }
    s.regs.streaming d = false → ∃ e, Gives (.vbc w t d a) w u s e ∧
      Lanes (s.opened u) e w t.bytes d (fun _ => ⟨(a.read (s.val u 0) (s.opened u)).toNat, 0⟩)) ∧
  (∀ w t d a b (s : State), let u : Uses :=
      { reads := rv a ++ rv b, writes := rv d, long := s.regs.streaming a || s.regs.streaming b }
    let n := t.bytes
    s.regs.streaming d = false → ∀ s1 x s2 y, s.readV a = .ok (s1, x) → s1.readV b = .ok (s2, y) →
      ∃ e, Gives (.vperm w t d a b) w u s e ∧
        Lanes s2 e w n d (fun j => ⟨if lane y n j < 64 / n then lane x n (lane y n j) else 0, 0⟩)) ∧
  (∀ w t d a b (s : State), let u : Uses := { srcs := [b], reads := rv a ++ b.refs, writes := rv d, long := s.regs.streaming a }
    let n := t.bytes
    s.regs.streaming d = false → ∀ s1 x, (s.opened u).readV a = .ok (s1, x) →
      ∃ e, Gives (.vsld w t d a b) w u s e ∧ Lanes s1 e w n d (fun j => let k : Int := (s.val u 0).toInt + (j : Int)
        ⟨if 0 ≤ k ∧ k < ((64 / n : Nat) : Int) then lane x n k.toNat else 0, 0⟩)) ∧
  (∀ w t d a b (s : State), let u : Uses := { srcs := a.srcs ++ [b], reads := a.refs ++ b.refs, writes := rv d }
    let n := t.bytes
    let o := s.opened u
    s.regs.streaming d = false → ∃ e, Gives (.vins w t d a b) w u s e ∧ OnlyMine o e ∧
      { e.regs with v := s.regs.v } = s.regs ∧ (∀ k : VReg, k ≠ d → e.regs.v[k] = s.regs.v[k]) ∧
      ∀ j < 64 / n, lane e.regs.v[d] n j =
        if j = ((s.vals u).getLastD 0).toNat then (a.read (s.val u 0) o).toNat % 2 ^ (8 * n) else lane s.regs.v[d] n j) ∧
  (∀ w t d a b (s : State), let u : Uses :=
      { srcs := [b], dst := d.gdst, reads := rv a ++ b.refs, writes := d.refs, long := s.regs.streaming a }
    let n := t.bytes
    let k := (s.val u 0).toNat
    ∀ s1 x, (s.opened u).readV a = .ok (s1, x) → Gives (.vext w t d a b) w u s (s1.writeScalar d
      (if k < 64 / n then
        (if t.isInt then ((BitVec.ofNat 64 (lane x n k)).setWidth (8 * n)).signExtend 64 else BitVec.ofNat 64 (lane x n k))
        else 0))) ∧
  (∀ w t d a b (s : State), let u : Uses :=
      { srcs := b.srcs, reads := rv a ++ b.refs, writes := rv d, long := s.regs.streaming a || b.streaming s.regs }
    let n := t.bytes
    s.regs.streaming d = false → ∀ s1 x s2 y, (s.opened u).readV a = .ok (s1, x) → s1.readB b (s.val u 0) n = .ok (s2, y) →
      ∃ e, Gives (.vsel w t d a b) w u s e ∧ OnlyMine s2 e ∧ { e.regs with v := s2.regs.v } = s2.regs ∧
        (∀ k : VReg, k ≠ d → e.regs.v[k] = s2.regs.v[k]) ∧
        ∀ j < 64 / n, lane e.regs.v[d] n j = if bit (s2.regs.getM w.mask.1) (n * j) then lane x n j else lane y n j) ∧
  (∀ w t d a (s : State), let tab := (s.regs.codes t)
    let u : Uses := { reads := rv a, tables := selRefs t, writes := rv d, long := s.regs.streaming a }
    s.regs.streaming d = false →
      (tab.valid = true → ∀ s1 x, s.readV a = .ok (s1, x) → ∃ e, Gives (.vdec w t d a) w u s e ∧
        Lanes s1 e w 4 d (fun j => ⟨tab.dec (if tab.w4 then x.toNat / 2 ^ (4 * j) % 16 else lane x 1 j), 0⟩)) ∧
      (tab.valid = false → Traps (.vdec w t d a) w u s 0x0F (BitVec.ofNat 64 (selNumber t))))

/-- VCMP writes to its mask bits the outcome of each active element, in all bits of the element, and 0 or the old bits
elsewhere: integers by signed and unsigned value, floats by the number they are, with NV for any NaN with LT, GE and LE and for a
signalling NaN with the others; VMSK combines mask registers, a write to m0 is discarded and m0 reads all ones. VCVT converts the elements
of the narrower count, floats rounded once by the mode, integers widened with their sign or cut, and writes 0 behind them; VRED reduces
the active elements by pairs in a tree of six levels, an absent element giving way to its partner, with the neutral value where
none is active; VTOPK writes the indices of the greatest active elements that are no NaN, one byte each, greatest first and the lower
index first among equals, 0xFF behind them, with NV for a signalling NaN; VENC writes the codes of the elements, packed in the width of the table. [R14, R127, R128, R133, R135, R136,
R145, R146, R150] -/
def Obligations.VectorTests : Prop :=
  let fmt (t : ElemTy) : Fmt := match t with | .bf16 => bf16 | .fp16 => fp16 | .f64 => fp64 | _ => fp32
  (∀ w t c m a b (s : State), let u : Uses :=
      { srcs := b.srcs, reads := rv a ++ b.refs, writes := rm m, long := s.regs.streaming a || b.streaming s.regs }
    let n := t.bytes
    ∀ s1 x s2 y, (s.opened u).readV a = .ok (s1, x) → s1.readB b (s.val u 0) n = .ok (s2, y) →
      ∃ e, Gives (.vcmp w t c m a b) w u s e ∧ OnlyMine s2 e ∧ (m = 0 → e.regs.m = s2.regs.m) ∧
        (m ≠ 0 → ∀ l < 64, (e.regs.m[m]).getLsbD l =
          if bit (s2.regs.getM w.mask.1) (n * (l / n)) then decide ((vcmpElem t c (lane x n (l / n)) (lane y n (l / n))).bits = 1)
          else !w.mask.2 && (s2.regs.getM m).getLsbD l) ∧
        { e.regs with m := s2.regs.m, fflg := s2.regs.fflg } = s2.regs) ∧
  (∀ t x y, ElemTy.isInt t = true → x < 2 ^ (8 * t.bytes) → y < 2 ^ (8 * t.bytes) →
    let test (c : VCond) : Bool := decide ((vcmpElem t c x y).bits = 1)
    test .eq = decide (x = y) ∧ test .ne = decide (x ≠ y) ∧ test .ltu = decide (x < y) ∧ test .geu = decide (y ≤ x) ∧
        test .lt = decide ((BitVec.ofNat (8 * t.bytes) x).toInt < (BitVec.ofNat (8 * t.bytes) y).toInt) ∧
    test .ge = decide ((BitVec.ofNat (8 * t.bytes) y).toInt ≤ (BitVec.ofNat (8 * t.bytes) x).toInt) ∧
    test .le = decide ((BitVec.ofNat (8 * t.bytes) x).toInt ≤ (BitVec.ofNat (8 * t.bytes) y).toInt)) ∧
  (∀ t c x y, ElemTy.isInt t = false → let v := (fmt t).value x
    let z := (fmt t).value y
    let o := numOrder v z
    vcmpElem t c x y = ⟨if (show Bool from match c with
        | .eq => decide (o = some .eq) | .ne => decide (o ≠ some .eq) | .lt => decide (o = some .lt)
        | .ge => decide (o = some .gt ∨ o = some .eq) | .le => decide (o = some .lt ∨ o = some .eq) | .un => decide (o = none)
        | .ltu | .geu => false) then 1 else 0,
      if (show Bool from match c with | .lt | .ge | .le => v.isNan || z.isNan | _ => v.isSig || z.isSig) then 16 else 0⟩) ∧
  (∀ w o d a b s, Gives (.vmsk w o d a b) w (.rw (rm a ++ rm b) (rm d) false) s (s.updRegs (fun r =>
    let x := r.getM a
    let y := r.getM b
    r.setM d (match o with | .and => x &&& y | .or => x ||| y | .xor => x ^^^ y | .andn => x &&& ~~~y | .not => ~~~x | .mov => x)))) ∧
  (∀ (r : Regs) n m x, r.getM 0 = BitVec.allOnes 64 ∧ r.setM 0 x = r ∧ (n ≠ 0 → m ≠ 0 → (r.setM n x).getM m = if m = n then x else r.getM m)) ∧
  (∀ w dst src d a (s : State), let u : Uses := { reads := rv a, writes := rv d, long := s.regs.streaming a }
    s.regs.streaming d = false → ∀ s1 x, s.readV a = .ok (s1, x) →
            let n := 64 / max src.bytes dst.bytes
      let act (j : Nat) : Bool := bit (s1.regs.getM w.mask.1) (dst.bytes * j)
      let r (j : Nat) : Fp := vcvtElem dst src s1.regs.frm.toNat (lane x src.bytes j)
      ∃ e, Gives (.vcvt w dst src d a) w u s e ∧ OnlyMine s1 e ∧
        (∀ j < n, lane e.regs.v[d] dst.bytes j = if act j then (r j).bits % 2 ^ (8 * dst.bytes)
          else if w.mask.2 then 0 else lane s1.regs.v[d] dst.bytes j) ∧
        (∀ j, n ≤ j → j < 64 / dst.bytes → lane e.regs.v[d] dst.bytes j = 0) ∧
        e.regs.fflg = ((List.range n).filter act).foldl (fun f j => f ||| (r j).flags) s1.regs.fflg ∧
        { e.regs with v := s1.regs.v, fflg := s1.regs.fflg } = s1.regs ∧ (∀ k : VReg, k ≠ d → e.regs.v[k] = s1.regs.v[k])) ∧
  (∀ dst src rm x, rm < 5 → x < 2 ^ (8 * src.bytes) → let r := vcvtElem dst src rm x
    let v : Int := (BitVec.ofNat (8 * src.bytes) x).toInt
    (dst = src → r = ⟨x, 0⟩) ∧
    (dst ≠ src → ElemTy.isInt dst = false → ElemTy.isInt src = false → Converts (fmt dst) (fmt src) rm x r) ∧
    (ElemTy.isInt dst = false → ElemTy.isInt src = true → (v ≠ 0 → RoundsNum (fmt dst) rm v r) ∧ (v = 0 → r = ⟨0, 0⟩)) ∧
    (ElemTy.isInt dst = true → ElemTy.isInt src = false → ConvertsInt (fmt src) rm true (8 * dst.bytes) x r) ∧
    (dst ≠ src → ElemTy.isInt dst = true → ElemTy.isInt src = true → r = ⟨(v % 2 ^ (8 * dst.bytes)).toNat, 0⟩)) ∧
  (∀ w t o d a (s : State), let u : Uses := { dst := d.gdst, reads := rv a, writes := d.refs, long := true }
    let n := t.bytes
    ∀ s1 x, (s.opened u).readV a = .ok (s1, x) →
      let r := vred t o s1.regs.frm.toNat ((List.range (64 / n)).map (fun j =>
        if bit (s1.regs.getM w.mask.1) (n * j) then some (lane x n j) else none))
      Gives (.vred w t o d a) w u s ((s1.writeScalar d (elemScalar t r.bits)).raiseFlags r.flags (x.setWidth 64) 0)) ∧
  (∀ t rm (l : List Nat), ElemTy.isInt t = true → (∀ x ∈ l, x < 2 ^ (8 * t.bytes)) → l.length ≤ 64 →
    (vred t .sum rm (l.map some)).bits = l.foldr (fun x y => x + y) 0 % 2 ^ (8 * t.bytes) ∧
        (vred t .or rm (l.map some)).bits = l.foldr (fun x y => x ||| y) 0) ∧
  (∀ t o rm (l : List (Option Nat)), l.length = 64 / ElemTy.bytes t → (∀ a, some a ∈ l → a < 2 ^ (8 * t.bytes)) →
    let sg (x : Nat) : Int := (BitVec.ofNat (8 * t.bytes) x).toInt
    let op (a b : Nat) : Fp := match o with
      | .sum => if t.isInt then ⟨(a + b) % 2 ^ (8 * t.bytes), 0⟩ else (fmt t).add rm a b
      | .max => if t.isInt then ⟨if sg a < sg b then b else a, 0⟩ else (fmt t).pick true a b
      | .min => if t.isInt then ⟨if sg a < sg b then a else b, 0⟩ else (fmt t).pick false a b
      | .and => ⟨a &&& b, 0⟩ | .or => ⟨a ||| b, 0⟩
    let empty : Nat := match o with
      | .sum | .or => 0 | .and => 2 ^ (8 * t.bytes) - 1
      | .max => if t.isInt then 2 ^ (8 * t.bytes - 1) else (fmt t).inf true
      | .min => if t.isInt then 2 ^ (8 * t.bytes - 1) - 1 else (fmt t).inf false
    ∃ node : Nat → Nat → Option Nat × Fl, (∀ j, node 0 j = (l.getD j none, 0)) ∧
      (∀ k j, node (k + 1) j = match node k (2 * j), node k (2 * j + 1) with
        | (some a, f), (some b, g) => (some (op a b).bits, f ||| g ||| (op a b).flags)
        | (some a, f), (none, g) => (some a, f ||| g)
        | (none, f), (b, g) => (b, f ||| g)) ∧
      vred t o rm l = match node 6 0 with | (some a, f) => ⟨a, f⟩ | (none, _) => ⟨empty, 0⟩) ∧
  (∀ w t d a b (s : State), let u : Uses := { srcs := [b], reads := rv a ++ b.refs, writes := rv d, long := true }
    let n := t.bytes
    s.regs.streaming d = false → ∀ s1 x, (s.opened u).readV a = .ok (s1, x) →
      let act := (List.range (64 / n)).filter (fun j => bit (s1.regs.getM w.mask.1) (n * j) &&
        (t.isInt || !((fmt t).value (lane x n j)).isNan))
      ∃ (e : State) (top : List Nat), Gives (.vtopk w t d a b) w u s e ∧ OnlyMine s1 e ∧ top.length = min act.length (min (s.val u 0).toNat 64) ∧
                (∀ j ∈ top, j ∈ act) ∧ top.Nodup ∧ (∀ j < 64, lane e.regs.v[d] 1 j = top.getD j 255) ∧
        (let order (i j : Nat) : Ordering := if t.isInt then cmp (BitVec.ofNat (8 * n) (lane x n i)).toInt (BitVec.ofNat (8 * n) (lane x n j)).toInt
            else (numOrder ((fmt t).value (lane x n i)) ((fmt t).value (lane x n j))).getD .eq
        let before (i j : Nat) : Prop := order i j = .gt ∨ (order i j = .eq ∧ i < j)
        (∀ i j, i < j → j < top.length → before (top.getD i 0) (top.getD j 0)) ∧ (∀ j ∈ act, j ∉ top → ∀ i ∈ top, before i j)) ∧
        e.regs.fflg = s1.regs.fflg ||| (if (List.range (64 / n)).any (fun j => bit (s1.regs.getM w.mask.1) (n * j) && !t.isInt &&
          ((fmt t).value (lane x n j)).isSig) then 16 else 0) ∧
        { e.regs with v := s1.regs.v, fflg := s1.regs.fflg } = s1.regs ∧ (∀ k : VReg, k ≠ d → e.regs.v[k] = s1.regs.v[k])) ∧
  (∀ w t inf d a (s : State), let tab := (s.regs.codes t)
    let u : Uses := { reads := rv a, tables := selRefs t, writes := rv d, long := s.regs.streaming a }
    s.regs.streaming d = false →
      (tab.valid = true → ∀ s1 x, s.readV a = .ok (s1, x) → ∃ e, Gives (.venc w t inf d a) w u s e ∧ OnlyMine s1 e ∧
        let bits := if tab.w4 then 4 else 8
        ∀ j < 16, bit (s1.regs.getM w.mask.1) (4 * j) = true →
          e.regs.v[d].toNat / 2 ^ (bits * j) % 2 ^ bits = (tab.enc inf (lane x 4 j)).bits % 2 ^ bits) ∧
      (tab.valid = false → Traps (.venc w t inf d a) w u s 0x0F (BitVec.ofNat 64 (selNumber t))))

/-- VLD, VLDS and VGTH complete where the checks of every active element pass and the bytes can be read, VST, VSTS and
VSCT where they can be stored; element addresses are opA + w·i, opA + i·opB, opA + w·(element i of B). An opA of VLD
or VST that is no multiple of 64 traps 0x05 with opA whatever the mask; else the first active element whose check
fails decides the trap. Over bytes of the own scratchpad that a window in force grants, a load puts the bytes in the
active elements and a store joins the store buffer once for each active element, in index order, and memory stands as
it was. [R47, R84, R86, R128, R141] -/
def Obligations.VectorMemory : Prop :=
  let unit (a b : Word) (y : BitVec 512) (n i : Nat) : Word := a + BitVec.ofNat 64 (n * i)
  let stride (a b : Word) (y : BitVec 512) (n i : Nat) : Word := a + b * BitVec.ofNat 64 i
  let index (a b : Word) (y : BitVec 512) (n i : Nat) : Word :=
    a + BitVec.ofInt 64 ((n : Int) * (BitVec.ofNat (8 * n) (lane y n i)).toInt)
  let active (s : State) (w : Pre) (n j : Nat) : Bool := bit (s.regs.getM w.mask.1) (n * j)
  let load (i : Instr) (w : Pre) (u : Uses) (t : ElemTy) (d : VReg) (s s1 : State) (addr : Nat → Word) : Prop :=
    (∀ e, s1.vload w t.bytes d addr = .ok e → Gives i w u s e) ∧
    (∀ j c v, j < 64 / t.bytes → active s1 w t.bytes j = true →
      (∀ k < j, active s1 w t.bytes k = true → ∃ l, s1.checkAccess (addr k).toNat t.bytes .load = .ok l) →
      s1.checkAccess (addr j).toNat t.bytes .load = .error (.trap c v) → Traps i w u s c v)
  let store (i : Instr) (w : Pre) (u : Uses) (t : ElemTy) (s s1 : State) (x : BitVec 512) (addr : Nat → Word) (whole : Bool) : Prop :=
    (∀ e, s1.vstore w t.bytes x addr whole = .ok e → Gives i w u s e) ∧
    (∀ j c v, j < 64 / t.bytes → active s1 w t.bytes j = true →
      (∀ k < j, active s1 w t.bytes k = true → ∃ l, s1.checkAccess (addr k).toNat t.bytes .store = .ok l) →
      s1.checkAccess (addr j).toNat t.bytes .store = .error (.trap c v) → Traps i w u s c v)
  (∀ w t d a (s : State), let u : Uses := { srcs := [a], reads := a.refs, writes := rv d, long := true }
    let x := s.val u 0
    s.regs.streaming d = false → (x.toNat % 64 ≠ 0 → Traps (.vld w t d a) w u s 0x05 x) ∧
      (x.toNat % 64 = 0 → load (.vld w t d a) w u t d s (s.opened u) (unit x 0 0 t.bytes))) ∧
  (∀ w t d a b (s : State), let u : Uses := { srcs := [a, b], reads := a.refs ++ b.refs, writes := rv d, long := true }
    s.regs.streaming d = false →
      load (.vlds w t d a b) w u t d s (s.opened u) (stride (s.val u 0) (s.val u 1) 0 t.bytes)) ∧
  (∀ w t d a b (s : State), let u : Uses := { srcs := [a], reads := a.refs ++ rv b, writes := rv d, long := true }
    s.regs.streaming d = false → ∀ s1 y, (s.opened u).readV b = .ok (s1, y) →
      load (.vgth w t d a b) w u t d s s1 (index (s.val u 0) 0 y t.bytes)) ∧
  (∀ w t d a (s : State), let u : Uses := { srcs := [a], reads := a.refs ++ rv d }
    let p := s.val u 0
    (p.toNat % 64 ≠ 0 → Traps (.vst w t d a) w u s 0x05 p) ∧
    (p.toNat % 64 = 0 → ∀ s1 x, (s.opened u).readV d = .ok (s1, x) → store (.vst w t d a) w u t s s1 x (unit p 0 0 t.bytes) true)) ∧
  (∀ w t d a b (s : State), let u : Uses := { srcs := [a, b], reads := a.refs ++ b.refs ++ rv d }
    ∀ s1 x, (s.opened u).readV d = .ok (s1, x) →
      store (.vsts w t d a b) w u t s s1 x (stride (s.val u 0) (s.val u 1) 0 t.bytes) false) ∧
  (∀ w t d a b (s : State), let u : Uses := { srcs := [a], reads := a.refs ++ rv b ++ rv d }
    ∀ s1 y s2 x, (s.opened u).readV b = .ok (s1, y) → s1.readV d = .ok (s2, x) →
      store (.vsct w t d a b) w u t s s2 x (index (s.val u 0) 0 y t.bytes) false) ∧
  -- own scratchpad bytes
  (∀ (s : State) w (t : ElemTy) d addr (o : Nat → Nat), s.me.verifs.length ≤ 32 →
    (∀ j < 64 / t.bytes, active s w t.bytes j = true → OwnBytes s (addr j) (o j) t.bytes true false) →
    ∃ e, s.vload w t.bytes d addr = .ok e ∧ OnlyMine s e ∧ (∀ k : VReg, k ≠ d → e.regs.v[k] = s.regs.v[k]) ∧
      ∀ j < 64 / t.bytes, lane e.regs.v[d] t.bytes j = if active s w t.bytes j
        then (List.range t.bytes).foldr (fun i x => (s.byteAt (.scratch s.turn.core (o j + i))).toNat + 256 * x) 0
        else if w.mask.2 then 0 else lane s.regs.v[d] t.bytes j) ∧
  (∀ (s : State) w (t : ElemTy) x addr (o : Nat → Nat) whole,
    (∀ j < 64 / t.bytes, active s w t.bytes j = true → OwnBytes s (addr j) (o j) t.bytes false true) →
    s.me.fenced = false → s.mMode = false →
    ∃ e l, s.vstore w t.bytes x addr whole = .ok e ∧ OnlyMine s e ∧ e.regs = s.regs ∧ e.me.storeBuf = s.me.storeBuf ++ l ∧
      l.map (fun st => (st.place, st.bytes)) = ((List.range (64 / t.bytes)).filter (active s w t.bytes)).map
        (fun j => (Place.scratch s.turn.core (o j), leBytes t.bytes (lane x t.bytes j))))

/-- VDOTQQ, VDOTHH and VDOTNN whose sources can be read, with a valid table of the width they use, add to the FP32 value
of fD the groups of 32 active products in order: each group summed in the window of ALW and truncated, then added and
rounded once. The flags go to fflg, and the result is outstanding with the lost-significance bit of fD where a nonzero
bit was discarded. An invalid table, or one of the other width, traps 0x0F with its number. [R47, R102, R104, R127,
R130, R142, R143] -/
def Obligations.DotProducts : Prop :=
  let dot (i : Instr) (w : Pre) (u : Uses) (d : FReg) (s : State) (a b : VReg)
      (groups : State → BitVec 512 → BitVec 512 → List (List Prod')) : Prop :=
    ∀ s1 x s2 y, s.readV a = .ok (s1, x) → s1.readV b = .ok (s2, y) →
      let r := dotGroups (24 + 8 * s2.regs.valw.toNat) s2.regs.frm.toNat (s2.regs.f[d].toNat % 2 ^ 32) (groups s2 x y)
      ∃ e, Gives i w u s e ∧ OnlyMine s2 e ∧ e.regs = { s2.regs with
          f := s2.regs.f.set d (BitVec.ofNat 64 r.1.bits), fflg := s2.regs.fflg ||| r.1.flags } ∧
        e.me.outstanding = s2.me.outstanding ++ [{ lsf := if r.2 then 1#32 <<< d.val else 0 }]
  let cut (act : Nat → Bool) (p : Nat → Prod') (g : Nat) : List Prod' :=
    ((List.range 32).filter (fun j => act (32 * g + j))).map (fun j => p (32 * g + j))
  let on (s : State) (w : Pre) (n k : Nat) : Bool := bit (s.regs.getM w.mask.1) (n * k)
  let byte (x : Word) (k : Nat) : Nat := x.toNat / 2 ^ (8 * k) % 256
  let scale (x y : Nat) : Option Int := if x = 255 ∨ y = 255 then none else some ((x : Int) + (y : Int) - 254)
  let reg (w : Pre) (d : FReg) : FReg := match chainSrc w.chain with | some c => Fin.ofNat 32 c.toNat | none => d
  let uses (a b : VReg) (r tables : List RegRef) (d : FReg) : Uses :=
    { reads := rv a ++ rv b ++ r, tables := tables, writes := rf d, long := true, own := true }
  (∀ w t d a b (s : State), let tab := (s.regs.codes t)
    let c := reg w d
    let u := uses a b (rf c ++ rf d) (selRefs t) d
    (tab.valid = true → tab.w4 = false → dot (.vdotqq w t d a b) w u d s a b (fun s x y =>
      let sc := s.regs.f[c]
      (List.range 2).map (cut (on s w 1) (fun k => {
        a := wf19.value (tab.entry (lane x 1 k)), b := wf19.value (tab.entry (lane y 1 k))
        scale := scale (byte sc (k / 16)) (byte sc (4 + k / 16)) })))) ∧
    (tab.valid = false ∨ tab.w4 = true → s.regs.streaming a = false → s.regs.streaming b = false →
      Traps (.vdotqq w t d a b) w u s 0x0F (BitVec.ofNat 64 (selNumber t)))) ∧
  (∀ w d a b (s : State), let u := uses a b (rf d) [] d
    dot (.vdothh w d a b) w u d s a b (fun s x y =>
      [cut (on s w 2) (fun k => { a := bf16.value (lane x 2 k), b := bf16.value (lane y 2 k), scale := some 0 }) 0])) ∧
  (∀ w t d a b (s : State), let tab := (s.regs.codes t)
    let c := reg w d
    let c1 : FReg := Fin.ofNat 32 (c.val + 1)
    let u := uses a b (rf c ++ rf c1 ++ rf d) (selRefs t) d
    (tab.valid = true → tab.w4 = true → dot (.vdotnn w t d a b) w u d s a b (fun s x y =>
      (List.range 4).map (cut (fun k => on s w 1 (k / 2)) (fun k => {
        a := wf19.value (tab.entry (x.toNat / 2 ^ (4 * k) % 16)), b := wf19.value (tab.entry (y.toNat / 2 ^ (4 * k) % 16))
        scale := scale (byte s.regs.f[c] (k / 16)) (byte s.regs.f[c1] (k / 16)) })))) ∧
    (tab.valid = false ∨ tab.w4 = false → s.regs.streaming a = false → s.regs.streaming b = false →
      Traps (.vdotnn w t d a b) w u s 0x0F (BitVec.ofNat 64 (selNumber t))))

/-- VSFU writes the special function of each active FP32 element with its flags: NaNs quieted, EXP2 of ∞ and 0, LOG2 of 0
−∞ with DZ, LOG2 and RSQ of a negative number the canonical NaN with NV, RCP of 0 ∞ with DZ, SIN and COS of ∞ NaN with
NV, exact values at exact points. STRM.ON over a readable pattern of its own cluster, with base and strides multiples
of 64, puts its register in stream mode with nothing popped; STRM.OFF ends it and the register reads 0; an address
that is no multiple of 32 traps 0x05, one outside the own scratchpads 0x06. That STRM.ON and STRM.OFF write the register for the hazard check
is log 130. [R127, R147, R148, R149] -/
def Obligations.SpecialFunctions : Prop :=
  let slot (s : State) (o k : Nat) : Nat :=
    (List.range 8).foldr (fun i x => (s.byteAt (.scratch s.turn.core (o + 8 * k + i))).toNat + 256 * x) 0
  (∀ w fn d a (s : State), let u : Uses := { reads := rv a, writes := rv d, long := true }
    s.regs.streaming d = false → ∀ s1 x, s.readV a = .ok (s1, x) →
      ∃ e, Gives (.vsfu w fn d a) w u s e ∧ Lanes s1 e w 4 d (fun j => sfu fn (lane x 4 j))) ∧
  (sfu .exp2 0x7F800000 = ⟨0x7F800000, 0⟩ ∧ sfu .exp2 0xFF800000 = ⟨0, 0⟩ ∧ sfu .exp2 0 = ⟨0x3F800000, 0⟩ ∧
    sfu .exp2 0x40400000 = ⟨0x41000000, 0⟩ ∧ sfu .log2 0 = ⟨0xFF800000, 8⟩ ∧ sfu .log2 0xBF800000 = ⟨0x7FC00000, 16⟩ ∧
    sfu .log2 0x41000000 = ⟨0x40400000, 0⟩ ∧ sfu .rcp 0x80000000 = ⟨0xFF800000, 8⟩ ∧ sfu .rcp 0x40000000 = ⟨0x3F000000, 0⟩ ∧
    sfu .rsq 0xBF800000 = ⟨0x7FC00000, 16⟩ ∧ sfu .rsq 0x40800000 = ⟨0x3F000000, 0⟩ ∧ sfu .sin 0x7F800000 = ⟨0x7FC00000, 16⟩ ∧
    sfu .cos 0 = ⟨0x3F800000, 0⟩ ∧ sfu .tanh 0x80000000 = ⟨0x80000000, 0⟩ ∧ sfu .erf 0xFF800000 = ⟨0xBF800000, 0⟩) ∧
  (∀ w d a (s : State), let u := Uses.aw a (rv ⟨28 + d.val, by omega⟩)
    let p := s.val u 0
    (p.toNat % 32 ≠ 0 → Traps (.strmOn w d a) w u s 0x05 p) ∧
    (p.toNat % 32 = 0 → ¬(0xFFF0000000000000 ≤ p.toNat ∧ p.toNat < 0xFFF0000000800000) →
      ¬(0xFFF8000000000000 ≤ p.toNat ∧ p.toNat < 0xFFF8000000020000) → Traps (.strmOn w d a) w u s 0x06 p) ∧
    (∀ o, OwnBytes (s.opened u) p o 32 true false →
      let word := slot s o
      word 0 % 64 = 0 → word 2 % 64 = 0 → word 2 / 2 ^ 32 % 64 = 0 → ∃ e, Gives (.strmOn w d a) w u s e ∧
        (∀ q, e.byteAt q = s.byteAt q) ∧ e.regs = { s.regs with streams := s.regs.streams.set d { on := true, base := BitVec.ofNat 64 (word 0), inner := BitVec.ofNat 32 (word 1), outer := BitVec.ofNat 32 (word 1 / 2 ^ 32), istride := BitVec.ofNat 32 (word 2), ostride := BitVec.ofNat 32 (word 2 / 2 ^ 32), popped := 0, ahead := [] } })) ∧
  (∀ w d s, let v : VReg := ⟨28 + d.val, by omega⟩
    ∃ e, Gives (.strmOff w d) w (.rw [] (rv v) false) s e ∧ OnlyMine s e ∧ e.regs.streaming v = false ∧ e.regs.v[v] = 0)

/-- A call outside M mode, on a core whose M bank is free and has no entry of a cause up to 0x20 waiting, enters M mode with
cause 0x20, the address after the word, the call number and the caller, the M bank READY at mtvec, and no register of the caller
changed but for what its returning results set (R213, R214, R215); a call in M mode is illegal; while the M bank is busy, an entry
goes before it or an MLSF of the run has not returned the call waits. The monitor's service then leaves M mode, and the caller
stands at mepc with a status in g1. MVER answers the version in g2 and the measurement's
low word in g3. GPUB of an even, nonzero entry, an index up to 255, a ceiling below 2^62 and a policy list in the
caller's own scratchpad that keeps R288's rules, where the tag has a table and the gate is free, writes the table
entry, raises its generation and answers the handle in g2; a gate that is published, or revoked with calls inside, is denied. GREV of
a published gate makes it revoked. SPGD sets or
clears the guard bits of its granules. Any other number answers all ones. Arguments out of range answer 1 and change nothing else;
a caller that has ended or been saved meanwhile is left alone. What the monitor's code does is
the model's reading of R215 (log 32), the table's place log 33. [R213, R214, R215, R216, R227, R287, R288, R289, R370] -/
def Obligations.MonitorCalls : Prop :=
  let calls (w : Pre) (n : BitVec 10) : List (Instr × Uses × Nat) :=
    let g (l : List (Fin 32)) : List RegRef := l.map (fun k => ⟨0, k.val⟩)
    [(.mver w, { writes := g [1, 2, 3] }, 0), (.gpub w, { reads := g [1, 2, 3, 4], writes := g [1, 2] }, 1),
      (.grev w, { reads := g [1], writes := g [1] }, 2), (.spgd w, { reads := g [1, 2, 3], writes := g [1] }, 3),
      (.mcall w n, { writes := g [1] }, n.toNat)]
  (∀ (w : Pre) (s : State) (n : BitVec 10), ∀ x ∈ calls w n, let e := s.mcallEntry w x.2.2
    (s.mMode = false → s.myCore.callWaits = false → s.me.flagsOut = false → Gives x.1 w x.2.1 s e) ∧
    (s.mMode = true → Traps x.1 w x.2.1 s 0x01 x.1.baseWord) ∧
    (s.mMode = false → s.myCore.callWaits = true ∨ s.me.flagsOut = true → Waits x.1 w x.2.1 s)) ∧
  (∀ (w : Pre) (n : Nat) (s : State), s.mMode = false → let e := s.mcallEntry w n
    (∃ x, e.myCore.mmode = some x ∧ x.cause = 0x20 ∧ x.core = false ∧ x.ctx = s.myCtx) ∧ (e.ctx s.turn.core mBank).state = .ready ∧
    (e.ctx s.turn.core mBank).regs.pc = s.myCore.mtvec ∧
    e.myCore.mcause = 0x20 ∧ e.myCore.mepc = s.regs.pc + BitVec.ofNat 64 w.size ∧ e.myCore.mtval = BitVec.ofNat 64 n ∧
    e.myCore.mctx = s.myCtx ∧ e.myCore.tdom = s.regs.tag ∧ e.myCore.tdsp = BitVec.ofNat 4 s.regs.dom.length ∧
    { e.regs with lsf := 0 } = { s.regs with lsf := 0 } ∧ e.me.outstanding = [] ∧ e.me.pending = s.me.pending ∧
    (∀ p, e.byteAt p = s.byteAt p) ∧ ∀ c k, ¬(c = s.turn.core ∧ (k = s.turn.ctx ∨ k = mBank)) → e.ctx c k = s.ctx c k) ∧
  (∀ (c : CoreId) (x : MEntry) (s : State), (s.core c).mmode = some x → x.cause = 0x20 → x.core = false →
    (s.ctx c mBank).state = .ready → (s.ctx c mBank).regs.pc = (s.core c).mtvec → (s.core c).dead = false → (s.core c).retired = false →
    let b := bank x.ctx
    let r := (s.ctx c b).regs
    let t0 := s.onBank c b
    let n := (s.core c).mtval.toNat
    let idx := (r.getG 1).toNat
    let done (g : Regs) (t : State) : Prop := (t.core c).mmode = none ∧ (t.ctx c b).regs = { g with pc := (s.core c).mepc } ∧
      (t.ctx c b).state = (s.ctx c b).state
    let only (st : Word) : Prop := s.act (.serve c) = .next ((t0.updRegs (fun r => r.setG 1 st)).leaveM c)
    ((s.ctx c b).gone = true → s.act (.serve c) = .next (s.leaveM c)) ∧
    ((s.ctx c b).gone = false →
      (n = 0 → ∃ t, s.act (.serve c) = .next t ∧ (∀ p, t.byteAt p = s.byteAt p) ∧
        done (((r.setG 2 Config.monitorVersion).setG 3 (Config.monitorMeasurement.setWidth 64)).setG 1 0) t) ∧
      (4 ≤ n → only (BitVec.allOnes 64)) ∧
      (n = 3 → 0 < (r.getG 2).toNat → (r.getG 1).toNat % 64 = 0 → (r.getG 3).toNat ≤ 1 →
        (r.getG 1).toNat + 64 * (r.getG 2).toNat ≤ 0x1F800 → ∃ t, s.act (.serve c) = .next t ∧ (∀ p, t.byteAt p = s.byteAt p) ∧ done (r.setG 1 0) t ∧
          ∀ i < 2048, (t.dom c r.tag).guard.getLsbD i =
            if (r.getG 1).toNat / 64 ≤ i ∧ i < (r.getG 1).toNat / 64 + (r.getG 2).toNat then r.getG 3 == 1
            else (s.dom c r.tag).guard.getLsbD i) ∧
      (n = 3 → ((r.getG 1).toNat % 64 ≠ 0 ∨ r.getG 2 = 0 ∨ 1 < (r.getG 3).toNat ∨ 0x1F800 < (r.getG 1).toNat + 64 * (r.getG 2).toNat) →
        only 1) ∧
      (∀ pa, n = 2 → idx ≤ 255 → s.gateEntry r.tag idx = some pa → fld (s.slot pa 1) 24 2 = 1 →
        s.mem.wf = true → ∃ t, s.act (.serve c) = .next t ∧ done (r.setG 1 0) t ∧ fld (t.slot pa 1) 24 2 = 2 ∧
          fld (t.slot pa 1) 0 24 = fld (s.slot pa 1) 0 24) ∧
      (∀ pa, n = 2 → idx ≤ 255 → s.gateEntry r.tag idx = some pa → fld (s.slot pa 1) 24 2 ≠ 1 →
        ∃ t, s.act (.serve c) = .next t ∧ done (r.setG 1 1) t ∧ t.mem = s.mem) ∧
      (n = 2 → 255 < idx ∨ s.gateEntry r.tag idx = none → only 1) ∧
      (n = 1 → 255 < idx ∨ bit (r.getG 2) 0 = true ∨ r.getG 2 = 0 ∨ 2 ^ 62 ≤ (r.getG 3).toNat → only 1) ∧
      (∀ pa o, n = 1 → idx ≤ 255 → r.getG 2 ≠ 0 → bit (r.getG 2) 0 = false →
        (r.getG 3).toNat ≤ 0x3FFFFFFFFFFFFFFF → OwnBytes t0 (r.getG 4) o 64 true false →
        let list := slotsOf ((s.core c).scratch.readN o 64) 8
        let st := fld (s.slot pa 1) 24 2
        (policyOk list = false → ∃ t, s.act (.serve c) = .next t ∧ done (r.setG 1 1) t ∧ t.mem = s.mem) ∧
        (policyOk list = true → s.gateEntry r.tag idx = some pa → s.mem.wf = true →
          (st = 1 ∨ (st = 2 ∧ fld (s.slot pa 1) 32 32 ≠ 0) → ∃ t, s.act (.serve c) = .next t ∧ done (r.setG 1 2) t ∧ t.mem = s.mem) ∧
          (st ≠ 1 → (st = 2 → fld (s.slot pa 1) 32 32 = 0) → fld (s.slot pa 1) 0 24 ≠ 0 →
            let gen := fld (s.slot pa 1) 0 24
            let new := if gen = 0xFFFFFF then 1 else gen + 1
            ∃ t h, s.act (.serve c) = .next t ∧ done ((r.setG 2 h).setG 1 0) t ∧
              fld h 0 16 = r.tag.toNat ∧ fld h 16 8 = idx ∧ fld h 24 24 = new ∧ fld h 48 16 = (s.partOf r.tag).val ∧
              t.slot pa 0 = r.getG 2 ∧ fld (t.slot pa 1) 0 24 = new ∧ fld (t.slot pa 1) 24 2 = 1 ∧
              fld (t.slot pa 1) 26 5 = (s.partOf r.tag).val ∧ (t.slot pa 2).setWidth 63 = (r.getG 3).setWidth 63 ∧
              bit (t.slot pa 2) 63 = (r.getG 3 != 0) ∧ ∀ k < 5, t.slot pa (3 + k) = list.getD k 0)))))

/-- The next entry of a core is the one of the lowest cause that waits, a stop request's among them, which ends the request.
A core whose M bank is free and that waits for an entry enters it, once the served context's MLSF results have returned: mcause, mtval, mctx, tdsp and tdom hold what
the entry gives, mepc the instruction the served context has reached (what the entry gives for a core entry, or where that context
has ended or been saved since), and the M bank starts at mtvec (R213, R214). MRET frees the M bank and sets the served context to
mepc, unless that context was saved or has ended or the entry serves none (R216, R273); with the entry of a stop request STOPPED is
cleared where no other request runs (log 124). HALT halts every context but
the served one, once none of them has an outstanding result; while one has it stops their issue and waits (R217). HREL clears the halt
of the contexts it names; a HELD one goes on, and with the kill bit they become DORMANT once their stores have performed (log 107); reserved bits are illegal and
another core's number is an access violation (R217). INVPG removes the cached translations of its cluster that its
address and tag cover, and keeps the others, once the stores and the engine jobs that may have used them have performed (R218, R234, R235). [R213, R214, R216, R217, R218, R234, R235, R273] -/
def Obligations.MonitorModeEntry : Prop :=
  (∀ (q : Core), (q.stopDue = none → q.nextEntry = match q.mqueue with | x :: rest => some (x, { q with mqueue := rest }) | [] => none) ∧
    ∀ d, q.stopDue = some d → (∀ x ∈ q.mqueue.head?, d.cause < x.cause) →
      q.nextEntry = some (d, { q with pmreq := { q.pmreq with stop := 0 }, stopClock := none, stopBudget := false })) ∧
  (∀ (c : CoreId) (x : MEntry) (q : Core) (s : State), (s.core c).mmode = none → (s.core c).nextEntry = some (x, q) → (s.core c).dead = false →
    (s.core c).retired = false → (x.core = true ∨ (s.ctx c (bank x.ctx)).flagsOut = false) →
    ∃ t, exec (.mmodeEntry c) s = .next t ∧ (t.core c).mmode = some x ∧ (t.core c).mqueue = q.mqueue ∧ (t.core c).pmreq = q.pmreq ∧
      (t.core c).mcause = x.cause ∧ (t.core c).mepc = (if x.core = true ∨ (s.ctx c (bank x.ctx)).gone = true then x.epc else (s.ctx c (bank x.ctx)).regs.pc) ∧
      (t.core c).mtval = x.val ∧ (t.core c).mctx = x.ctx ∧
      (t.core c).tdom = (s.ctx c (bank x.ctx)).regs.tag ∧ (t.core c).tdsp = BitVec.ofNat 4 (s.ctx c (bank x.ctx)).regs.dom.length ∧
      (t.ctx c mBank).state = .ready ∧ (t.ctx c mBank).regs = { (s.ctx c mBank).regs with pc := (s.core c).mtvec } ∧
      (x.core = false → (t.ctx c (bank x.ctx)).outstanding = [])) ∧
  (∀ w (x : MEntry) (s : State), s.mMode = true → s.myCore.mmode = some x → ∃ e, Goes (.mret w) w { priv := true, jumps := true } s e ∧
    e.myCore.mmode = none ∧ (∀ p, e.byteAt p = s.byteAt p) ∧
    e.myCore.pmreq = (if x.core = true ∧ (x.cause = 0x15 ∨ (x.cause = 0x14 ∧ bit x.val 63 = false)) ∧ s.myCore.pmreq.stop = 0
      then { s.myCore.pmreq with stopped := 0 } else s.myCore.pmreq) ∧
    ∀ k : CtxId, e.ctx s.turn.core (bank k) =
      if k = x.ctx ∧ x.core = false ∧ (s.ctx s.turn.core (bank k)).gone = false then
        { s.ctx s.turn.core (bank k) with regs := { (s.ctx s.turn.core (bank k)).regs with pc := s.myCore.mepc } }
      else s.ctx s.turn.core (bank k)) ∧
  (∀ w (x : MEntry) (s : State), s.mMode = true → s.myCore.mmode = some x → s.myCore.halted = false →
    let other (k : CtxId) : Prop := x.core = true ∨ k ≠ x.ctx
    ((∀ k, other k → (s.ctx s.turn.core (bank k)).outstanding = []) → ∃ e, Gives (.halt w) w { priv := true } s e ∧
      ∀ k : CtxId, (other k → e.ctx s.turn.core (bank k) = { s.ctx s.turn.core (bank k) with halted := true }) ∧
        (¬ other k → e.ctx s.turn.core (bank k) = s.ctx s.turn.core (bank k))) ∧
    ((∃ k, other k ∧ (s.ctx s.turn.core (bank k)).outstanding ≠ []) → Runs (.halt w) w { priv := true } s → exec (.halt w) s =
      .next ((s.updCore s.turn.core (fun q => { q with halting := true })).block (.reissue false))) ∧
    (∀ k, (s.core s.turn.core).halting = true → s.ctxIssues s.turn.core k = false)) ∧
  (∀ w a (x : MEntry) (s : State), s.mMode = true → s.myCore.mmode = some x → let u : Uses := { Uses.a1 a with priv := true }
    let v := s.val u 0
    let named (k : CtxId) : Prop := (bit v 3 = true ∨ fld v 0 3 = k.val) ∧ (x.core = true ∨ k ≠ x.ctx)
    (bit v 5 = false → v.toNat < 0x80000 → fld v 6 13 = s.turn.core.val → ∃ e, Gives (.hrel w a) w u s e ∧
      ∀ k, named k → (e.ctx s.turn.core (bank k)).halted = false ∧
        (bit v 4 = true → (s.ctx s.turn.core (bank k)).isDying = false →
          (∀ st ∈ (s.ctx s.turn.core (bank k)).storeBuf, s.tileHeld st = false) → (e.ctx s.turn.core (bank k)).state = .dormant) ∧
        (bit v 4 = true → (s.ctx s.turn.core (bank k)).state ≠ .dormant →
          (∃ st ∈ (s.ctx s.turn.core (bank k)).storeBuf, s.tileHeld st = true) → (e.ctx s.turn.core (bank k)).isDying = true) ∧
        (bit v 4 = false → (s.ctx s.turn.core (bank k)).state ≠ .held →
          (e.ctx s.turn.core (bank k)).state = (s.ctx s.turn.core (bank k)).state) ∧
        (bit v 4 = false → (s.ctx s.turn.core (bank k)).state = .held → (e.ctx s.turn.core (bank k)).event = none ∧
          (e.ctx s.turn.core (bank k)).state = if (s.ctx s.turn.core (bank k)).wait.isSome then .blocked else .ready)) ∧
    ((bit v 5 = true ∨ 0x80000 ≤ v.toNat) → Traps (.hrel w a) w u s 0x01 (Instr.hrel w a).baseWord) ∧
    (bit v 5 = false → v.toNat < 0x80000 → fld v 6 13 ≠ s.turn.core.val → Traps (.hrel w a) w u s 0x06 v)) ∧
  (∀ w a b (s : State), s.mMode = true → let u : Uses := { Uses.a2 a b with priv := true }
    let cl := clusterOf s.turn.core
    let va := (s.val u 0).toNat
    let covers (t : Tag) : Bool := bit (s.val u 1) 16 || t = (s.val u 1).setWidth 16
    let tag : Option Tag := if bit (s.val u 1) 16 then none else some ((s.val u 1).setWidth 16)
    ((s.val u 1).toNat < 0x20000 → (s.opened u).clusterLeaves cl tag = false → Waits (.invpg w a b) w u s) ∧
    ((s.val u 1).toNat < 0x20000 → (∀ c k, clusterOf c = cl → (s.ctx c (bank k)).storeBuf = []) →
      (∀ q, troupeCluster q = cl → (s.troupe q).begun tag = false) → ∃ e, Gives (.invpg w a b) w u s e ∧
      (∀ c, clusterOf c = cl →
        (e.core c).tlb = (s.core c).tlb.filter (fun x => !(covers x.tag && va / x.size * x.size = x.va))) ∧
      (∀ q, troupeCluster q = cl →
        (e.troupe q).tlb = (s.troupe q).tlb.filter (fun x => !(covers x.tag && va / x.size * x.size = x.va))) ∧
      (e.cluster cl).walk = (s.cluster cl).walk.filter
        (fun x => !(covers x.tag && va / walkSpan x.level * walkSpan x.level = x.va)) ∧
      (∀ c, clusterOf c ≠ cl → (e.core c).tlb = (s.core c).tlb)) ∧
    (0x20000 ≤ (s.val u 1).toNat → Traps (.invpg w a b) w u s 0x01 (Instr.invpg w a b).baseWord))

/-- KEYLD of a 64-byte aligned block in HBM or the vault, bytes 0x62 to 0x7F zero, loads the slot's tag and keys from it,
with the slot's counter at 0, and the die's engines hold the tag's keys; a slot number above 63 is illegal and an
unaligned address misaligned (R219, R284). KEYZ empties a slot and with bit 8 the engines' keys of its tag (R219).
CTXSV of a halted or HELD context with nothing pending saves one frame for each level at 16 KiB steps from the
address, counters rising, and leaves the context SAVED with every register cleared; with a verification, an MLSF, a store that cannot
leave or a kill pending it waits; CTXLD into a DORMANT context
restores the frames of a whole save of resident domains, or a whole copy of them, halted; the frames stay, and verify again. An
address outside DRAM and the vaults is an access fault (log 61). A frame that has been
written over, or whose domain's slot holds another stream key, kills the frame's fault domain with a FRAME_BAD record;
where no frame stands the context stays as it was and the record is written. A context number above 7, a served context, or one in the wrong
state is illegal (R220, R291). That frames stand as records is log 3. [R219, R220, R283, R284, R285, R291] -/
def Obligations.KeysAndFrames : Prop :=
  (∀ w a b (s : State), s.mMode = true → let u : Uses := { Uses.a2 a b with priv := true }
    let pa := (s.val u 1).toNat
    let c := s.turn.core
    (∀ n : Fin 64, s.val u 0 = BitVec.ofNat 64 n.val → pa % 64 = 0 → (homeOf pa = .dram ∨ homeOf pa = .vault) → s.me.storeBuf = [] →
      (∀ c, (s.core c).einjArm = false) → poisonedIn s.poison pa 128 = none →
      (∀ i < 128, s.frameAt (pa + i) = none ∧ lookup s.lines ((pa + i) / 64 * 64) = none) →
      (∀ i < 0x80, 0x62 ≤ i → s.mem.read (pa + i) = 0) →
      let k : KeySlot := { tag := BitVec.ofNat 16 (leNat (s.mem.readN (pa + 0x60) 2)), loaded := true, halted := false, used := 0, data := BitVec.ofNat 256 (leNat (s.mem.readN pa 32)), tweak := BitVec.ofNat 256 (leNat (s.mem.readN (pa + 32) 32)), stream := BitVec.ofNat 256 (leNat (s.mem.readN (pa + 64) 32)) }
      ∃ e, Gives (.keyld w a b) w u s e ∧ e.myCore.keys[n] = k ∧ (∀ j : Fin 64, j ≠ n → e.myCore.keys[j] = s.myCore.keys[j]) ∧
        e.dies[dieOf c].keys = { tag := k.tag, data := k.data, tweak := k.tweak } :: s.dies[dieOf c].keys.filter (fun x => x.tag ≠ k.tag)) ∧
    (64 ≤ (s.val u 0).toNat → Traps (.keyld w a b) w u s 0x01 (Instr.keyld w a b).baseWord) ∧
    ((s.val u 0).toNat < 64 → pa % 64 ≠ 0 → Traps (.keyld w a b) w u s 0x05 (s.val u 1))) ∧
  (∀ w a (s : State), s.mMode = true → let u : Uses := { Uses.a1 a with priv := true }
    let c := s.turn.core
    (∀ (n : Fin 64) (g : Bool), s.val u 0 = BitVec.ofNat 64 (n.val + if g then 0x100 else 0) → ∃ e, Gives (.keyz w a) w u s e ∧
      e.myCore.keys[n].loaded = false ∧ e.myCore.keys[n].data = 0 ∧ e.myCore.keys[n].tweak = 0 ∧ e.myCore.keys[n].stream = 0 ∧
      (∀ j : Fin 64, j ≠ n → e.myCore.keys[j] = s.myCore.keys[j]) ∧
      e.dies[dieOf c].keys = if g then s.dies[dieOf c].keys.filter (fun x => x.tag ≠ s.myCore.keys[n].tag) else s.dies[dieOf c].keys) ∧
    (bit (s.val u 0) 6 = true → Traps (.keyz w a) w u s 0x01 (Instr.keyz w a).baseWord)) ∧
  (∀ w a b (k : CtxId) (s : State), s.mMode = true → let u : Uses := { Uses.a2 a b with priv := true }
    let c := s.turn.core
    let x := s.ctx c (bank k)
    let base := if s.val u 1 = 0 then s.myCore.dstkb.toNat * 4096 + 147456 * k.val else (s.val u 1).toNat
    let served := ∃ m, s.myCore.mmode = some m ∧ m.core = false ∧ m.ctx = k
    s.val u 0 = BitVec.ofNat 64 k.val → base % 64 = 0 → (homeOf base = .dram ∨ homeOf base = .vault) →
    (¬ served → (x.halted = true ∨ x.state = .held) → x.verifs = [] → x.storeBuf = [] → x.flagsOut = false → x.safe = none → x.regs.gstat.inGang = false →
      x.isDying = false → ∃ e, Gives (.ctxsv w a b) w u s e ∧ (e.ctx c (bank k)).state = .saved ∧ (e.ctx c (bank k)).regs = .clear ∧
        e.myCore.saveCounter = s.myCore.saveCounter + BitVec.ofNat 64 (x.regs.dom.length + 1) ∧
        (∀ j ≤ x.regs.dom.length, ∃ f, lookup e.frames (base + 16384 * j) = some f ∧ f.core = c ∧ f.level = j ∧ f.base = base ∧
          f.counter = s.myCore.saveCounter + BitVec.ofNat 64 j ∧ f.region = x.regs.region) ∧
        ∃ f r, lookup e.frames (base + 16384 * x.regs.dom.length) = some f ∧ f.tag = x.regs.tag ∧ f.regs = some r ∧
          r.g = x.regs.g ∧ r.f = x.regs.f ∧ r.v = x.regs.v ∧ r.p = x.regs.p ∧ r.m = x.regs.m ∧ r.pc = x.regs.pc) ∧
    ((served ∨ ¬(x.halted = true ∨ x.state = .held)) → Traps (.ctxsv w a b) w u s 0x01 (Instr.ctxsv w a b).baseWord) ∧
    (¬ served → (x.halted = true ∨ x.state = .held) → x.isDying = true ∨ x.verifs ≠ [] ∨ x.flagsOut = true ∨
      (∃ st ∈ x.storeBuf, s.leaves x st = false) → Runs (.ctxsv w a b) w u s → exec (.ctxsv w a b) s = .next (s.block (.reissue false))) ∧
    (∀ (fs : List Frame) (inner : Frame) (r : Regs) (b0 : Nat) (n0 : Word), ¬ served → x.state = .dormant → fs.getLast? = some inner →
      inner.regs = some r → (∀ c, (s.core c).einjArm = false) → (∀ p ∈ s.poison, p < base ∨ base + 16384 * fs.length ≤ p) →
      (∀ j, (h : j < fs.length) → s.frameHere (base + 16384 * j) = some fs[j] ∧ fs[j].base = b0 ∧ fs[j].level = j ∧
        fs[j].counter = n0 + BitVec.ofNat 64 j ∧
        fs[j].core = c ∧ fs[j].depth + 1 = fs.length ∧ fs[j].overlaid = [] ∧ fs[j].key = s.myCore.streamKey fs[j].tag ∧
        s.myCore.resident fs[j].tag = true) →
      ∃ e, Gives (.ctxld w a b) w u s e ∧ (∀ f ∈ e.frames, f.2.base = b0 → f.2.live = false) ∧ (e.ctx c (bank k)).halted = true ∧
        (e.ctx c (bank k)).state = inner.state ∧ (e.ctx c (bank k)).regs = { r with
          link := (fs.reverse.map (fun f => f.link)).flatten
          loops := (fs.reverse.map (fun f => f.loops)).flatten
          dom := (fs.filterMap (fun f => f.entry)).reverse }) ∧
    (∀ f, ¬ served → x.state = .dormant → lookup s.frames base = some f → s.myCore.resident f.tag = true →
      (f.overlaid ≠ [] ∨ f.key ≠ s.myCore.streamKey f.tag) → (∀ c, (s.core c).einjArm = false) → ∃ r : Rec, r.kind = 0x0C ∧ r.cls = 2 ∧
        Gives (.ctxld w a b) w u s ((((s.opened u).eraseFrames base).killFaultDomain f.region).log (dieOf c) r)) ∧
    (¬ served → x.state = .dormant → s.frameHere base = none → ∃ e, Gives (.ctxld w a b) w u s e ∧ e.ctx c (bank k) = x ∧
      e.frames = s.frames ∧ e.dies[dieOf c].log.count = s.dies[dieOf c].log.count + 1) ∧
    ((served ∨ x.state ≠ .dormant) → Traps (.ctxld w a b) w u s 0x01 (Instr.ctxld w a b).baseWord)) ∧
  (∀ w a b (s : State), s.mMode = true → let u : Uses := { Uses.a2 a b with priv := true }
    (8 ≤ (s.val u 0).toNat → Traps (.ctxsv w a b) w u s 0x01 (Instr.ctxsv w a b).baseWord ∧
      Traps (.ctxld w a b) w u s 0x01 (Instr.ctxld w a b).baseWord) ∧
    (∀ k : CtxId, s.val u 0 = BitVec.ofNat 64 k.val →
      let base := if s.val u 1 = 0 then s.myCore.dstkb.toNat * 4096 + 147456 * k.val else (s.val u 1).toNat
      (base % 64 ≠ 0 → Traps (.ctxsv w a b) w u s 0x05 (s.val u 1) ∧ Traps (.ctxld w a b) w u s 0x05 (s.val u 1)) ∧
      (base % 64 = 0 → homeOf base ≠ .dram → homeOf base ≠ .vault →
        Traps (.ctxsv w a b) w u s 0x06 (s.val u 1) ∧ Traps (.ctxld w a b) w u s 0x06 (s.val u 1))))

/-- A running context with an enabled event becomes HELD, its results returned, and its notice goes to the FP supervisor
with the core address, context, flags, address and operands (R111, R112); the retry sends a notice that has not been
sent, one that was refused 256 clocks after it. An answer of the held context's own domain at its address resumes it, clearing the flags where asked, or kills
it: an activation outside a gate call ends, once its stores have performed, one inside returns KILLED to its caller (R113, R114);
another answer
changes no context; the answer is the next entry, or the one the core has just entered M mode for. An entry whose LEFT has run out returns CEILING to its caller (R203). A rollback loads the restore
registers of a restorable context once, disbands its gang (R31) and makes an entry of cause 0x12 whose pc is the one restored (log 67),
and kills the fault domain of another (R303, R304); it waits for a store to a busy tile (log 107). The patrol records
corrected words and poisons uncorrectable ones (R300). The monitor's service of an answer is log 32. [R31, R111, R112, R113, R114, R203, R300, R303, R304] -/
def Obligations.HeldContexts : Prop :=
  (∀ (c : CoreId) (k : CtxId) (v : FpEvent) (s : State), let x := s.ctx c (bank k)
    x.event = some v → v.sent = false → v.again ≤ s.clock → (s.core c).streamHalted x.regs.tag = false →
    let sends (t : State) : Prop := (t.ctx c (bank k)).event = some { v with sent := true } ∧ ∃ m, t.net = s.net ++ [.message none m] ∧
      m.dest = ((s.dom c x.regs.tag).fpsup).setWidth 19 ∧ m.region = x.regs.region ∧
      m.payload = [(coreAddr c.val).setWidth 64 ||| at' k.val 19 ||| at' v.flags.toNat 24, v.addr, v.opA, v.opB]
    ((x.state = .ready ∨ x.state = .parked ∨ x.state = .blocked) → x.flagsOut = false → (s.core c).pmreq.stop.getLsbD k.val = false →
      ∃ t, exec (.fpEvent c k) s = .next t ∧ (t.ctx c (bank k)).state = .held ∧ (t.ctx c (bank k)).outstanding = [] ∧ sends t) ∧
    (x.state = .held → ∃ t, exec (.fpNoticeRetry c k) s = .next t ∧ (t.ctx c (bank k)).state = .held ∧ sends t)) ∧
  (∀ (c : CoreId) (k : CtxId) (v : FpEvent) (s : State), (s.ctx c (bank k)).event = some v → s.clock < v.again →
    exec (.fpNoticeRetry c k) s = .next s) ∧
  (∀ (c : CoreId) (x : MEntry) (n : Core) (m : Message) (v : FpEvent) (s : State),
    (((s.core c).mmode = none ∧ (s.core c).nextEntry = some (x, n)) ∨
      ((s.core c).mmode = some x ∧ (s.ctx c mBank).state = .ready ∧ (s.ctx c mBank).regs.pc = (s.core c).mtvec ∧ n = (s.core c).leave)) →
    x.answer = some m → (s.core c).dead = false → (s.core c).retired = false → let q := s.ctx c (bank x.ctx)
    let own : Prop := q.state = .held ∧ q.event = some v ∧ m.tag = q.regs.tag ∧ m.payload.getD 1 0 = v.addr
    let flags := if bit (m.payload.headD 0) 16 then q.regs.fflg &&& ~~~v.flags else q.regs.fflg
    (own → fld (m.payload.headD 0) 0 8 = 0x10 → ∃ t, exec (.fpResume c) s = .next t ∧ (t.core c).mqueue = n.mqueue ∧
      (t.core c).mmode = none ∧ (t.ctx c (bank x.ctx)).state = (if q.wait.isSome then .blocked else .ready) ∧ (t.ctx c (bank x.ctx)).event = none ∧
      (t.ctx c (bank x.ctx)).halted = false ∧ (t.ctx c (bank x.ctx)).regs = { q.regs with fflg := flags }) ∧
    (own → fld (m.payload.headD 0) 0 8 = 0x11 → ∃ t, exec (.fpKill c) s = .next t ∧ (t.core c).mqueue = n.mqueue ∧
      (t.core c).mmode = none ∧
      (q.regs.dom = [] → (∀ st ∈ q.storeBuf, s.tileHeld st = false) → (t.ctx c (bank x.ctx)).state = .dormant) ∧
      (q.regs.dom = [] → (∃ st ∈ q.storeBuf, s.tileHeld st = true) → (t.ctx c (bank x.ctx)).isDying = true) ∧
      ∀ d l, q.regs.dom = d :: l → (t.ctx c (bank x.ctx)).state = .ready ∧ (t.ctx c (bank x.ctx)).regs.dom = l ∧
        (t.ctx c (bank x.ctx)).regs.pc = d.retpc ∧ (d.sreg ≠ 0 → (t.ctx c (bank x.ctx)).regs.g[d.sreg] = 2)) ∧
    ((q.state ≠ .held ∨ m.tag ≠ q.regs.tag ∨ q.event = none ∨ ∃ y, q.event = some y ∧ m.payload.getD 1 0 ≠ y.addr) →
      (fld (m.payload.headD 0) 0 8 = 0x10 →
        ∃ t, exec (.fpResume c) s = .next t ∧ (t.core c).mqueue = n.mqueue ∧ ∀ c k, t.ctx c k = s.ctx c k) ∧
      (fld (m.payload.headD 0) 0 8 = 0x11 →
        ∃ t, exec (.fpKill c) s = .next t ∧ (t.core c).mqueue = n.mqueue ∧ ∀ c k, t.ctx c k = s.ctx c k))) ∧
  (∀ (c : CoreId) (k : CtxId) (depth : Nat) (d : DomEntry) (s : State), let x := s.ctx c (bank k)
    (x.state = .ready ∨ x.state = .parked ∨ x.state = .blocked) → x.regs.dom.reverse[depth]? = some d → d.limited = true → d.left = 0 →
    (∀ j e, j < depth → x.regs.dom.reverse[j]? = some e → (e.limited && e.left == 0) = false) →
    ∃ t, exec (.ceilingExpiry c k) s = .next t ∧ (t.ctx c (bank k)).state = .ready ∧
      (t.ctx c (bank k)).regs.dom = x.regs.dom.drop (x.regs.dom.length - depth) ∧ (t.ctx c (bank k)).regs.tag = d.caller ∧
      (t.ctx c (bank k)).regs.pc = d.retpc ∧ (d.sreg ≠ 0 → (t.ctx c (bank k)).regs.g[d.sreg] = 3)) ∧
  (∀ (c : CoreId) (k : CtxId) (rp : RestorePoint) (s : State), let x := s.ctx c (bank k)
    x.state ≠ .dormant → x.state ≠ .saved → x.isDying = false → (∀ v ∈ x.verifs, v.ok = true) →
    (x.restorable = true → x.rolledBack = false → x.restore = some rp → (∃ st ∈ x.storeBuf, s.tileHeld st = true) →
      exec (.rollback c k false) s = .next s) ∧
    (x.restorable = true → x.rolledBack = false → x.restore = some rp → (∀ st ∈ x.storeBuf, s.tileHeld st = false) → rp.atStart = false →
      ∃ t, exec (.rollback c k false) s = .next t ∧ (t.ctx c (bank k)).state = .ready ∧ (t.ctx c (bank k)).rolledBack = true ∧
        (∃ g, (t.ctx c (bank k)).regs = { rp.regs with guardPending := false, gfa := 0, gstat := g } ∧
          (x.regs.gstat.inGang = false → g = x.regs.gstat) ∧
          (x.regs.gstat.inGang = true → g.inGang = false ∧ g.reason = 2 ∧ g.cause = 0x12)) ∧
        (t.ctx c (bank k)).outbox = [] ∧ ∃ m ∈ (t.core c).mqueue, m.cause = 0x12 ∧ m.ctx = k ∧ m.epc = rp.regs.pc) ∧
    (x.restorable = false ∨ x.rolledBack = true ∨ x.restore = none → ∃ t, exec (.rollback c k false) s = .next t ∧
      ((∀ st ∈ x.storeBuf, s.tileHeld st = false) → (t.ctx c (bank k)).state = .dormant) ∧
      ((∃ st ∈ x.storeBuf, s.tileHeld st = true) → (t.ctx c (bank k)).isDying = true))) ∧
  (∀ (pa b : Nat) (s : State), let u := pa / 8 * 8
    (homeOf u = .dram ∨ homeOf u = .vault) → (∀ c, (s.core c).einjArm = false) →
    exec (.patrolScrub pa .clean) s = .next s ∧
    (∃ t, exec (.patrolScrub pa (.corrected b)) s = .next t ∧ t.poison = s.poison ∧ t.mem = s.mem ∧
      t.dies[lineDie u].log.count = s.dies[lineDie u].log.count + 1) ∧
    (u ∉ s.poison → ∃ t, exec (.patrolScrub pa .uncorrectable) s = .next t ∧ t.poison = u :: s.poison ∧ t.mem = s.mem ∧
      t.dies[lineDie u].log.count = s.dies[lineDie u].log.count + 1))

/-- A request with a mask sets STOP and its clock; requested contexts that are DORMANT, BLOCKED, HELD or SAVED, or PARKED in a
CUE that waits for room, count as stopped at once, and so does a start of this clock (R271, R273, R277, R370); one whose ceiling has
run out or whose item waits redelivered is unwound or started again first (R277). Once all have stopped they are halted and one core
entry of cause 0x15 is due; bits added before it is made join the request. A new start stops with every register live (R277). A READY context with no outstanding result stops at a safe point
within the wait limit, and its live-mask index is kept; past the limit it does not (R270, R273). A
forced stop happens only after the wait limit; it returns the context's results (R273). FREE makes SAVED contexts
DORMANT and nothing else (R271). Contexts whose pool is exhausted are asked to stop with a budget deschedule (R264,
R274). A window's opening sets USED to 0 and moves its start (R263). Folding adds a region's charge to USED of its
pools and to TOTAL of the blocks it passes, which stand unprotected (R263). [R263, R264, R270, R271, R273, R274, R277, R370] -/
def Obligations.StopsAndBudgets : Prop :=
  (∀ (c : CoreId) (mask : BitVec 8) (sm : Bool) (s : State), mask ≠ 0 → (s.core c).pmreq.stop = 0 →
    let i : Instr := if sm then .preemptionNotice c mask else .pmreqStop c mask
    let quiet (k : CtxId) : Bool := s.newStart c k ||
      ((s.ctx c (bank k)).quiet && !(s.ctx c (bank k)).toUnwind && ((s.core c).redelivered k).isNone)
    ∃ t, exec i s = .next t ∧ (t.core c).pmreq.stop = mask ∧ (t.core c).pmreq.smreq = sm ∧ (t.core c).pmreq.forced = false ∧
      (∀ k : CtxId, (t.core c).pmreq.stopped.getLsbD k.val = (mask.getLsbD k.val && quiet k)) ∧
      ((∃ k : CtxId, mask.getLsbD k.val = true ∧ quiet k = false) → (t.core c).stopDue = none) ∧
      ((∀ k : CtxId, mask.getLsbD k.val = true → quiet k = true) →
        (∀ k : CtxId, mask.getLsbD k.val = true → (t.ctx c (bank k)).halted = true) ∧
        ∃ x, (t.core c).stopDue = some x ∧ x.cause = 0x15 ∧ x.core = true)) ∧
  (∀ (c : CoreId) (mask : BitVec 8) (s : State), mask ≠ 0 → (s.core c).pmreq.stop ≠ 0 →
    ∃ t, exec (.pmreqStop c mask) s = .next t ∧ (t.core c).pmreq.stop = (s.core c).pmreq.stop ||| mask ∧
      (t.core c).stopClock = some ((s.core c).stopClock.getD s.clock)) ∧
  (∀ (c : CoreId) (k : CtxId) (s : State), let x := s.ctx c (bank k)
    (s.requested c k = false → exec (.safePointStop c k) s = .next s) ∧
    (s.requested c k = true → x.toUnwind = true → exec (.safePointStop c k) s = .next s) ∧
    (s.requested c k = true → s.newStart c k = false → x.state = .ready → s.stopExpired c = true → exec (.safePointStop c k) s = .next s) ∧
    (s.requested c k = true → x.toUnwind = false → (s.newStart c k = true ∨ (x.quiet = true ∧ x.state ≠ .dormant)) →
      ∃ t, exec (.safePointStop c k) s = .next t ∧
      (t.ctx c (bank k)).safe = none ∧ (t.core c).pmreq.stopped = (s.core c).pmreq.stopped ||| maskBit k) ∧
    (∀ n, s.requested c k = true → s.newStart c k = false → x.toUnwind = false → (∀ m, (s.core c).stopClock = some m → s.clock < m + (s.core c).spbud.toNat) →
      x.state = .ready → x.outstanding = [] → x.event = none → s.atSafe c k = some n →
      ∃ t, exec (.safePointStop c k) s = .next t ∧ (t.ctx c (bank k)).safe = some n ∧ (t.ctx c (bank k)).regs.pc = x.regs.pc ∧
        (t.core c).pmreq.stopped = (s.core c).pmreq.stopped ||| maskBit k ∧
        ((s.core c).pmreq.stop &&& ~~~((s.core c).pmreq.stopped ||| maskBit k) = 0 →
          (∃ m, (t.core c).stopDue = some m ∧ m.core = true) ∧ (t.ctx c (bank k)).halted = true))) ∧
  (∀ (c : CoreId) (k : CtxId) (n : Nat) (s : State), (s.core c).stopClock = some n → let x := s.ctx c (bank k)
    (s.clock < n + (s.core c).spbud.toNat → exec (.forcedStop c) s = .next s) ∧
    (n + (s.core c).spbud.toNat ≤ s.clock → (s.core c).pmreq.stop = maskBit k → (s.core c).pmreq.stopped = 0 →
      x.state = .ready → x.verifs = [] → x.storeBuf = [] → x.flagsOut = false → s.newStart c k = false → x.toUnwind = false → x.event = none →
      x.regs.gstat.inGang = false →
      ∃ t, exec (.forcedStop c) s = .next t ∧ (t.core c).pmreq.forced = true ∧ (t.core c).stopDue.isSome = true ∧
        (t.ctx c (bank k)).halted = true ∧ (t.ctx c (bank k)).outstanding = [] ∧ (t.ctx c (bank k)).regs.pc = x.regs.pc)) ∧
  (∀ (c : CoreId) (mask : BitVec 8) (s : State), ∃ t, exec (.pmreqFree c mask) s = .next t ∧ t.mem = s.mem ∧ ∀ k : CtxId,
    (mask.getLsbD k.val = true → (s.ctx c (bank k)).state = .saved → (t.ctx c (bank k)).state = .dormant ∧
      ∀ f ∈ t.frames, f.2.core = c → f.2.ctx = k → f.2.freed = true) ∧
    (mask.getLsbD k.val = false ∨ (s.ctx c (bank k)).state ≠ .saved → t.ctx c (bank k) = s.ctx c (bank k))) ∧
  (∀ (c : CoreId) (s : State), s.unfolded = [] → (s.core c).pmreq.stop = 0 →
    (∀ k, (s.ctx c (bank k)).state = .ready → (s.ctx c (bank k)).halted = false → s.exhausted (s.ctx c (bank k)).regs.region = true →
      ∃ t, exec (.budgetExhausted c) s = .next t ∧ (t.core c).pmreq.stop.getLsbD k.val = true ∧ (t.core c).stopBudget = true) ∧
    ((∀ k, s.exhausted (s.ctx c (bank k)).regs.region = false) → exec (.budgetExhausted c) s = .next s)) ∧
  (∀ (r : BitVec 32) (pa : Nat) (s : State), s.regionPa r = some pa → s.mem.wf = true →
    let len := 4096 * fld (s.slot pa 3) 32 16
    let start := (s.slot pa 8).toNat
    (bit (s.slot pa 1) 17 = true → len ≠ 0 → start + len ≤ s.clock → ∃ t, exec (.budgetWindowStart r) s = .next t ∧
      t.slot pa 6 = 0 ∧ t.slot pa 8 = BitVec.ofNat 64 (start + len)) ∧
    ((bit (s.slot pa 1) 17 = false ∨ len = 0 ∨ s.clock < start + len) → exec (.budgetWindowStart r) s = .next s) ∧
    (∀ n, lookup s.unfolded r.toNat = some n → (s.chain 8 pa).Pairwise (fun a b => a + 128 ≤ b ∨ b + 128 ≤ a) →
      (∀ p ∈ pa :: s.pools r, s.keyStands p 128 none) → ∃ t, exec (.chargeFold r) s = .next t ∧ t.unfolded = erase s.unfolded r.toNat ∧
        (∀ p ∈ s.pools r, t.slot p 6 = s.slot p 6 + BitVec.ofNat 64 n) ∧
        ∀ p ∈ pa :: s.pools r, t.slot p 7 = s.slot p 7 + BitVec.ofNat 64 n) ∧
    (lookup s.unfolded r.toNat = none → exec (.chargeFold r) s = .next s))

/-- SEND outside M mode with a core address places in the outbox a message with the address, the header of R179, and n
registers as its payload; in M mode it leaves at once under a flight credit (log 108). SPAWN of a record that passes its test,
outside a gate call, places the record; TDEC of an aligned block of the own scratchpad places its decrement. An entry
that does not fit waits at a commit point first (R175, R176). An address above 19 bits is an access violation, a bad
record illegal, an odd handler misaligned, a SPAWN inside a gate call a gate fault, an unaligned TDEC misaligned, one
elsewhere an access violation (R180, R185, R186). [R175, R176, R179, R180, R185, R186] -/
def Obligations.MessagesAndTasks : Prop :=
  (∀ w a (b : Fin 32) (n : Fin 16) (s : State), let u : Uses := { srcs := [a], reads := a.refs ++ rangeRefs b.val (n.val + 1) }
    let v := s.val u 0
    let o := s.opened u
    let isSend (m : Message) : Prop := m.dest = v.setWidth 19 ∧ m.region = s.regs.region ∧ fld m.header 0 6 = fld v 0 6 ∧
      fld m.header 6 13 = s.turn.core.val ∧ fld m.header 19 4 = n.val ∧ fld m.header 32 16 = s.regs.tag.toNat ∧
      m.payload = (List.range (n.val + 1)).map (fun i => s.regs.getG (Fin.ofNat 32 (b.val + i)))
    (v.toNat < 0x80000 → s.mMode = false → s.me.wait ≠ some (.reissue true) → s.me.outboxUsed + 8 * (n.val + 2) ≤ 2048 →
      ∃ m, isSend m ∧ Gives (.send w a b n) w u s (o.updMe (fun x => { x with outbox := x.outbox ++
        [{ body := .message m, region := s.regs.region, tag := s.regs.tag, after := x.storeSeq }] }))) ∧
    (v.toNat < 0x80000 → s.mMode = true → s.myCore.credits ≠ 0 → ∃ e m, isSend m ∧ Gives (.send w a b n) w u s e ∧
      e.net = s.net ++ [.message (some s.turn.core) { m with key := s.sealKey s.turn.core s.regs.tag }] ∧
      e.myCore.credits = s.myCore.credits - 1) ∧
    (v.toNat < 0x80000 → s.mMode = false → 2048 < s.me.outboxUsed + 8 * (n.val + 2) → s.me.verifs = [] → s.regs.guardPending = false →
      Runs (.send w a b n) w u s → exec (.send w a b n) s = .next (s.block (.reissue true))) ∧
    (0x80000 ≤ v.toNat → Traps (.send w a b n) w u s 0x06 v)) ∧
  (∀ w (a : Fin 32) (s : State), let u : Uses := { reads := rangeRefs a.val 4 }
    let r (k : Nat) : Word := s.regs.getG (Fin.ofNat 32 (a.val + k))
    let good : Prop := (r 0).toNat < 0x800000000 ∧ fld (r 0) 0 32 ≠ 0
    (good → bit (r 0) 0 = false → s.regs.dom = [] → s.mMode = false → s.me.wait ≠ some (.reissue true) → s.me.outboxUsed + 32 ≤ 2048 →
      Gives (.spawn w a) w u s (s.updMe (fun x => { x with outbox := x.outbox ++
        [{ body := .task #v[r 0, r 1, r 2, r 3], region := s.regs.region, tag := s.regs.tag, after := x.storeSeq }] }))) ∧
    (¬ good → Traps (.spawn w a) w u s 0x01 (Instr.spawn w a).baseWord) ∧
    (good → bit (r 0) 0 = true → Traps (.spawn w a) w u s 0x05 ((r 0).setWidth 32 |>.setWidth 64)) ∧
    (good → bit (r 0) 0 = false → s.regs.dom ≠ [] → Traps (.spawn w a) w u s 0x0E (BitVec.ofNat 64 s.regs.dom.length))) ∧
  (∀ w a (s : State), let u := Uses.a1 a
    let v := s.val u 0
    let own : Prop := (0xFFF0000000000000 ≤ v.toNat ∧ v.toNat < 0xFFF0000000800000) ∨
      (0xFFF8000000000000 ≤ v.toNat ∧ v.toNat < 0xFFF8000000020000)
    (∀ off, OwnBytes s v off 64 true true → s.me.wait ≠ some (.reissue true) → s.me.outboxUsed + 8 ≤ 2048 →
      Gives (.tdec w a) w u s ((s.opened u).updMe (fun x => { x with outbox := x.outbox ++
        [{ body := .dec s.turn.core off, region := s.regs.region, tag := s.regs.tag, after := x.storeSeq }] }))) ∧
    (v.toNat % 64 ≠ 0 → Traps (.tdec w a) w u s 0x05 v) ∧
    (v.toNat % 64 = 0 → ¬ own → Traps (.tdec w a) w u s 0x06 v))

/-- HDEF of an entry of the running domain with an even handler writes the entry of the channel; an entry without a
handler also withdraws the items that wait on the channel (R183, R21). HEN and HDIS set and clear the enable bit of
every channel named; HSETP waits for the thread's stores, then sets PEND and queues a doorbell for each channel named that has a handler and
none pending, or gives it to a WFM blocked on the channel, and HCLRP takes both back (R184, R246); a domain that is not
installed rings nothing (R280). WFM of a channel with a handler, when a message waits and no context waits before it,
takes the oldest one: the payload goes to g1 to g16 and the header to gD, and a doorbell's PEND is cleared; with none it
waits (R182). Each ends restorability but WFM, which is a commit point (R176). A bad channel or entry is illegal, an odd
handler misaligned, a WFM of a channel without a handler an access violation; that a domain not installed has none is the
model's reading (log 106).
[R21, R176, R182, R183, R184, R246, R280] -/
def Obligations.CallBoard : Prop :=
  (∀ w a b (s : State), let u := Uses.a2 a b
    let c := s.turn.core
    let x := s.val u 1
    let good : Prop := (s.val u 0).toNat ≤ 63 ∧ fld x 42 6 = 0 ∧ fld x 48 16 = s.regs.tag.toNat
    (good → bit x 0 = false → ∃ e, Gives (.hdef w a b) w u s e ∧ e.me.restorable = false ∧ e.me.restore = none ∧
      (e.dom c s.regs.tag).board = (s.dom c s.regs.tag).board.setIfInBounds (s.val u 0).toNat x ∧
      (fld x 0 32 = 0 → ∀ i ∈ e.myCore.inbox, ¬(i.msg.chan.toNat = (s.val u 0).toNat ∧ i.msg.tag = s.regs.tag))) ∧
    (¬ good → Traps (.hdef w a b) w u s 0x01 (Instr.hdef w a b).baseWord) ∧
    (good → bit x 0 = true → Traps (.hdef w a b) w u s 0x05 (x.setWidth 32 |>.setWidth 64))) ∧
  (∀ w a (s : State), let u := Uses.a1 a
    let c := s.turn.core
    let t := s.regs.tag
    let named (n : Nat) : Prop := bit (s.val u 0) n = true
    let waits : Prop := ∃ k i ch n g, (s.ctx c (bank k)).wait = some (.message i ch n g)
    (∀ on : Bool, let i : Instr := if on then .hen w a else .hdis w a
      ∃ e, Gives i w u s e ∧ e.me.restorable = false ∧ ∀ n : Fin 64, (e.dom c t).board[n] =
        if named n.val then setFld (s.dom c t).board[n] 35 1 (if on then 1 else 0) else (s.dom c t).board[n]) ∧
    let mine : Prop := s.myCore.installed = t ∧ s.me.storeBuf = []
    ((∃ st ∈ s.me.storeBuf, s.leaves s.me st = false) → Waits (.hsetp w a) w u s) ∧
    (s.myCore.installed ≠ t → s.me.storeBuf = [] → ∃ e, Gives (.hsetp w a) w u s e ∧ e.me.restorable = false ∧
      (e.dom c t).pend = (s.dom c t).pend ∧ e.myCore.inbox = s.myCore.inbox) ∧
    (∀ n : Fin 64, mine → named n.val → fld (s.dom c t).board[n] 0 32 ≠ 0 → (s.dom c t).pend.getLsbD n.val = false →
      s.wfms c t (BitVec.ofNat 6 n.val) ≠ [] → ∃ e, Gives (.hsetp w a) w u s e ∧ (e.dom c t).pend.getLsbD n.val = false ∧
        ∃ k i q m, (e.ctx c (bank k)).wait = some (.message i (BitVec.ofNat 6 n.val) q (some m)) ∧ m.isDoorbell = true ∧ m.tag = t) ∧
    (mine → ¬ waits → ∃ e, Gives (.hsetp w a) w u s e ∧ e.me.restorable = false ∧ ∀ n : Fin 64,
      (e.dom c t).pend.getLsbD n.val = ((s.dom c t).pend.getLsbD n.val ||
        (bit (s.val u 0) n.val && fld (s.dom c t).board[n] 0 32 != 0)) ∧
      (named n.val → fld (s.dom c t).board[n] 0 32 ≠ 0 → (s.dom c t).pend.getLsbD n.val = false →
        ∃ i ∈ e.myCore.inbox, i.msg.isDoorbell = true ∧ i.msg.chan.toNat = n.val ∧ i.msg.tag = t ∧ i.msg.region = s.regs.region)) ∧
    (∃ e, Gives (.hclrp w a) w u s e ∧ e.me.restorable = false ∧ ∀ n : Fin 64,
      (e.dom c t).pend.getLsbD n.val = ((s.dom c t).pend.getLsbD n.val && !bit (s.val u 0) n.val) ∧
      (named n.val → ∀ i ∈ e.myCore.inbox, ¬(i.msg.isDoorbell = true ∧ i.msg.chan.toNat = n.val ∧ i.msg.tag = t)))) ∧
  (∀ w d a (s : State), let u : Uses := { srcs := [a], dst := some d, reads := a.refs, writes := d.refs ++ payloadRefs, long := true }
    let c := s.turn.core
    let t := s.regs.tag
    let v := s.val u 0
    let mine (i : Item) : Bool := i.msg.chan = v.setWidth 6 && i.msg.tag = t
    let entry := s.entry c t (v.setWidth 6)
    (63 < v.toNat → s.me.wait = none → Traps (.wfm w d a) w u s 0x01 (Instr.wfm w d a).baseWord) ∧
    (v.toNat ≤ 63 → (s.myCore.installed ≠ t ∨ fld entry 0 32 = 0 ∨ fld entry 48 16 ≠ t.toNat) → s.me.wait = none →
      Traps (.wfm w d a) w u s 0x06 ((coreAddr c.val).setWidth 64 ||| v)) ∧
    (v.toNat ≤ 63 → s.myCore.installed = t → fld entry 0 32 ≠ 0 → fld entry 48 16 = t.toNat → s.me.wait = none → s.me.verifs = [] → s.me.outbox = [] →
      s.regs.guardPending = false → (∀ k i ch n g, (s.ctx c (bank k)).wait ≠ some (.message i ch n g)) →
      (∀ i, s.myCore.inbox.find? mine = some i → ∃ e, Gives (.wfm w d a) w u s e ∧ e.me.undo = [] ∧ e.me.restorable = true ∧
        (∀ n : Fin 32, 1 ≤ n.val → n.val ≤ 16 → d ≠ .g n → e.regs.getG n = i.msg.payload.getD (n.val - 1) 0) ∧
        (∀ n : Fin 32, n ≠ 0 → d = .g n → e.regs.getG n = i.msg.header) ∧
        e.myCore.inbox = dropFirst mine s.myCore.inbox ∧
        (i.msg.isDoorbell = true → bit i.msg.header 51 = false → (e.dom c t).pend.getLsbD v.toNat = false)) ∧
      (s.myCore.inbox.find? mine = none → Runs (.wfm w d a) w u s → NextKnown w s.regs.pc s → ∃ e, exec (.wfm w d a) s = .next e ∧ e.me.state = .blocked ∧
        e.me.wait = some (.message (.wfm w d a) (v.setWidth 6) s.fresh none))))

/-- An arrival that is not the last raises the count, takes the total and the domain, and is recorded; the last one flips
the phase, sets the count to 0 and ends the waits of the cluster for the phase (R188, R189). BARA goes on, BAR goes on
from the last arrival and waits otherwise, BARW waits for the recorded phase and goes on where none is open or it has
passed. A barrier of another domain is an access violation; reserved bits, a count outside 1 to 512 and a count other
than the phase's are illegal. [R176, R188, R189] -/
def Obligations.Barriers : Prop :=
  (∀ w a (s : State), let u := Uses.a1 a
    let v := s.val u 0
    let id := barId v
    let n := barCount v
    let b := (s.cluster (clusterOf s.turn.core)).barriers[id]
    let fields : Prop := fld v 5 3 = 0 ∧ v.toNat < 0x40000
    let fits : Prop := fields ∧ 1 ≤ n ∧ n ≤ 512
    let mine : Prop := b.tag = none ∨ b.tag = some s.regs.tag
    let total := if b.count = 0 then n else b.total
    let joins : Prop := fits ∧ mine ∧ (b.count ≠ 0 → b.total = n) ∧ s.me.storeBuf = [] ∧ s.regs.guardPending = false
    let calm : Prop := s.me.verifs = [] ∧ s.me.outbox = [] ∧ s.me.wait = none
    let after (e : State) : Prop := (e.cluster (clusterOf s.turn.core)).barriers[id] =
      { phase := if b.count + 1 = total then !b.phase else b.phase, count := if b.count + 1 = total then 0 else b.count + 1, total := total, tag := some s.regs.tag } ∧
      (b.count + 1 = total → ∀ c k i, clusterOf c = clusterOf s.turn.core → ¬(c = s.turn.core ∧ bank k = s.turn.ctx) →
        (s.ctx c (bank k)).wait = some (.phase i id b.phase false) → (e.ctx c (bank k)).wait = some (.phase i id b.phase true))
    (joins → ∃ e, Gives (.bara w a) w u s e ∧ after e ∧ e.me.restorable = false ∧
      (b.count + 1 ≠ total → e.regs.arrOpen.getLsbD id.val = true ∧ e.regs.arrPhase.getLsbD id.val = b.phase)) ∧
    (joins → calm → b.count + 1 = total → ∃ e, Gives (.bar w a) w u s e ∧ after e) ∧
    (joins → calm → b.count + 1 ≠ total → Runs (.bar w a) w u s → NextKnown w s.regs.pc s → ∃ e, exec (.bar w a) s = .next e ∧ after e ∧
      e.me.state = .blocked ∧ e.me.wait = some (.phase (.bar w a) id b.phase false)) ∧
    (fields → mine → calm → s.regs.guardPending = false →
      (s.regs.arrOpen.getLsbD id.val = false ∨ s.regs.arrPhase.getLsbD id.val ≠ b.phase) →
      ∃ e, Gives (.barw w a) w u s e ∧ e.clusters = s.clusters ∧ e.me.restorable = true ∧ e.me.undo = []) ∧
    (fields → mine → calm → s.regs.guardPending = false → s.regs.arrOpen.getLsbD id.val = true → s.regs.arrPhase.getLsbD id.val = b.phase →
      Runs (.barw w a) w u s → NextKnown w s.regs.pc s → ∃ e, exec (.barw w a) s = .next e ∧ e.me.state = .blocked ∧
        e.me.wait = some (.phase (.barw w a) id b.phase false)) ∧
    (¬ fits → s.me.wait = none → Traps (.bara w a) w u s 0x01 (Instr.bara w a).baseWord ∧
      Traps (.bar w a) w u s 0x01 (Instr.bar w a).baseWord) ∧
    (¬ fields → s.me.wait = none → Traps (.barw w a) w u s 0x01 (Instr.barw w a).baseWord) ∧
    (fits → ¬ mine → s.me.wait = none → s.regs.guardPending = false → Traps (.bara w a) w u s 0x06 (BitVec.ofNat 64 id.val) ∧
      Traps (.bar w a) w u s 0x06 (BitVec.ofNat 64 id.val) ∧ Traps (.barw w a) w u s 0x06 (BitVec.ofNat 64 id.val)) ∧
    (fits → mine → s.regs.guardPending = false → b.count ≠ 0 → b.total ≠ n → Traps (.bara w a) w u s 0x01 (Instr.bara w a).baseWord))

/-- A message for a gated cluster wakes it and waits. One that reaches a core that is retired, does not hold its domain,
whose domain is killed or not in RUN, or whose region is not LIVE, returns to its sender as a refusal with PERM = 1.
One its core's key does not open is discarded and recorded (R285). One of the installed domain on a channel with a
handler, that neither answers the monitor nor fails the record test, goes to a WFM blocked on the channel (R182); else it
starts an activation where its channel is enabled and idle, nothing bars the start, the core has made none in this clock
and a context is DORMANT and not M mode's: the payload stands in g1 to g16, the header in g17, the pc at the handler, a
task's at the handler of its record with the words after it in g1 on. Where nothing can start it joins the inbox within
its quota and the inbox's room, and is refused with PERM = 0 beyond them (R20, R22, R23, R181, R266, R351). A refusal
joins its sender's inbox, and the message's credit returns then; or it is held while the inbox has no room and tried again
256 clocks later (R178, R181); one for a gated cluster wakes it, and waits while its supply settles (R351). [R20, R21, R22, R23, R34, R178, R181, R182, R266, R285, R351] -/
def Obligations.Arrivals : Prop :=
  (∀ (n : Nat) cr (m : Message) (s : State), s.net[n]? = some (.message cr m) →
    let c := m.core
    let cl := clusterOf c
    let e := s.entry c m.tag m.chan
    let alive : Prop := (s.core c).retired = false ∧ (s.core c).resident m.tag = true ∧ s.killedTag m.tag = false ∧
      s.partitions[s.partOf m.tag].state = .run ∧ s.regionLive m.region = true
    let first : Prop := ∀ j < n, ∀ cr' o, s.net[j]? = some (.message cr' o) → ¬(o.dest = m.dest ∧ o.sender = m.sender)
    let open_ : Prop := s.powered = true ∧ (s.cluster cl).gated = false ∧ (s.cluster cl).waking = false ∧ first
    let good : Prop := s.opens c m.tag m.key = true ∧ m.header.setWidth 6 = m.chan ∧ m.isAnswer = false ∧ (m.isTask = true → recordOk (m.payload.headD 0) = true) ∧
      m.tag = (s.core c).installed ∧ fld e 0 32 ≠ 0 ∧ fld e 48 16 = m.tag.toNat
    let noWfm : Prop := s.wfms c m.tag m.chan = []
    let room : Prop := (s.core c).waiting m.tag m.chan < fld e 37 5 ∧ (s.core c).inboxUsed + 8 * (m.payload.length + 1) ≤ 7648
    let vacant (k : CtxId) : Prop := (s.ctx c (bank k)).state = .dormant ∧ (s.core c).served ≠ some k ∧
      ∀ x ∈ (s.core c).mqueue, x.core = true ∨ x.ctx ≠ k
    let busy : Prop := ∀ k : CtxId, ¬ vacant k
    let task : Bool := m.isTask && !m.isRefusal
    let idle : Prop := bit e 35 = true ∧ s.mayStart c m.tag = true ∧ s.regionStarts m.region = true ∧
      (∀ i ∈ (s.core c).inbox, ¬(i.msg.chan = m.chan ∧ i.msg.tag = m.tag)) ∧ (bit e 36 = true → s.serialBusy c m.tag m.chan = false)
    (s.powered = false → exec (.messageArrival n) s = .next s) ∧
    (s.powered = true → (s.cluster cl).gated = true → ∃ t, exec (.messageArrival n) s = .next t ∧ (t.cluster cl).gated = false ∧
      (t.cluster cl).waking = true ∧ t.net = s.net) ∧
    ((s.cluster cl).gated = false → ((s.cluster cl).waking = true ∨ ¬ first) → exec (.messageArrival n) s = .next s) ∧
    (open_ → ¬ alive → m.isNotice = false →
      exec (.messageArrival n) s = .next { s with net := s.net.eraseIdx n ++ [.refusal cr (m.refuse true)] }) ∧
    (open_ → alive → s.opens c m.tag m.key = false → ∃ t, exec (.messageArrival n) s = .next t ∧ t.net = s.net.eraseIdx n ∧
      (t.core c).inbox = (s.core c).inbox ∧ t.dies[dieOf c].log.count = s.dies[dieOf c].log.count + 1) ∧
    (open_ → alive → good → ¬ noWfm → ∃ t, exec (.messageArrival n) s = .next t ∧ t.net = s.net.eraseIdx n ∧
      (t.core c).inbox = (s.core c).inbox ∧ ∃ k i q, (t.ctx c (bank k)).wait = some (.message i m.chan q (some m))) ∧
    (open_ → alive → good → noWfm → (¬ idle ∨ busy) → room → ∃ t, exec (.messageArrival n) s = .next t ∧ t.net = s.net.eraseIdx n ∧
      (t.core c).inbox = (s.core c).inbox ++ [{ msg := m, accepted := s.clock }] ∧ ∀ c k, t.ctx c k = s.ctx c k) ∧
    (open_ → alive → good → noWfm → (¬ idle ∨ busy) → ¬ room → m.isNotice = false →
      exec (.messageArrival n) s = .next { s with net := s.net.eraseIdx n ++ [.refusal cr (m.refuse false)] }) ∧
    (∀ k : CtxId, open_ → alive → good → noWfm → idle → m.isLaunch = false → vacant k →
      (∀ j : CtxId, j.val < k.val → ¬ vacant j) → ∃ t, exec (.messageArrival n) s = .next t ∧
      t.net = s.net.eraseIdx n ∧ (t.core c).inbox = (s.core c).inbox ∧ (t.core c).startClock = some s.clock ∧
      let x := t.ctx c (bank k)
      x.state = .ready ∧ x.restorable = true ∧ x.regs.pc = ((if task then m.payload.headD 0 else e).setWidth 32).setWidth 64 ∧ x.regs.tag = m.tag ∧
      x.regs.region = m.region ∧ x.regs.g[17] = m.header ∧
      ∀ i : Fin 16, x.regs.g[i.val + 1]'(by omega) = (if task then m.payload.drop 1 else m.payload).getD i.val 0)) ∧
  (∀ (n : Nat) cr (m : Message) (s : State), s.net[n]? = some (.refusal cr m) → m.origin = .core → s.powered = true →
    let cl := clusterOf m.core
    ((s.cluster cl).gated = true → ∃ t, exec (.refusalArrival n) s = .next t ∧ (t.cluster cl).gated = false ∧ (t.cluster cl).waking = true ∧ t.net = s.net) ∧
    ((s.cluster cl).gated = false → (s.cluster cl).waking = true → exec (.refusalArrival n) s = .next s) ∧
    ((s.cluster cl).gated = false → (s.cluster cl).waking = false →
    s.killedTag m.tag = false → s.regionLive m.region = true → s.opens m.core m.tag m.key = true → s.wfms m.core m.tag m.chan = [] →
    ((s.core m.core).inboxUsed + 8 * (m.payload.length + 1) ≤ 8192 → ∃ t, exec (.refusalArrival n) s = .next t ∧
      t.net = s.net.eraseIdx n ∧ (t.core m.core).inbox = (s.core m.core).inbox ++ [{ msg := m, accepted := s.clock }] ∧
      ∀ d, cr = some d → (t.core d).credits = min ((s.core d).credits + 1) 16) ∧
    (8192 < (s.core m.core).inboxUsed + 8 * (m.payload.length + 1) → ∃ t, exec (.refusalArrival n) s = .next t ∧
      t.net = s.net.eraseIdx n ∧ (t.core m.core).inbox = (s.core m.core).inbox ∧ (∀ d, (t.core d).credits = (s.core d).credits) ∧
      (t.core m.core).refusals = (s.core m.core).refusals ++ [{ credit := cr, msg := m, again := s.clock + 256 }]))) ∧
  (∀ (c : CoreId) (h : HeldRefusal) l r (s : State), let m := h.msg
    (s.core c).refusals = l ++ h :: r → (∀ y ∈ l, s.clock < y.again) → h.again ≤ s.clock → (s.cluster (clusterOf c)).gated = false → (s.cluster (clusterOf c)).waking = false →
    s.killedTag m.tag = false → s.regionLive m.region = true → s.opens c m.tag m.key = true → s.wfms c m.tag m.chan = [] →
    ((s.core c).inboxUsed + 8 * (m.payload.length + 1) ≤ 8192 → ∃ t, exec (.refusalRetry c) s = .next t ∧
      (t.core c).refusals = l ++ r ∧ (t.core c).inbox = (s.core c).inbox ++ [{ msg := m, accepted := s.clock }] ∧
      ∀ d, h.credit = some d → (t.core d).credits = min ((s.core d).credits + 1) 16) ∧
    (8192 < (s.core c).inboxUsed + 8 * (m.payload.length + 1) → ∃ t, exec (.refusalRetry c) s = .next t ∧
      (t.core c).refusals = l ++ { h with again := s.clock + 256 } :: r ∧ (t.core c).inbox = (s.core c).inbox)) ∧
  (∀ (c : CoreId) (s : State), (∀ y ∈ (s.core c).refusals, s.clock < y.again) → exec (.refusalRetry c) s = .next s)

/-- A core on which nothing bars the start and that has made none in this clock, with a DORMANT context that is not M
mode's, starts what it chooses: a waiting item leaves the inbox, the newest record leaves the deque, and a theft attempt
takes the victim's oldest record or notes that it was made and leaves the clock without another start (R27, R28, R265,
R266, R267). A victim keeps a last record that it pops itself in that clock (R28). A record's handler and three argument
words stand in pc and g1 to g3. An END completes once its outbox has left, its verifications have resolved and its results
have returned, and M mode has served the context: it is DORMANT and nothing of it is kept (R24, R25, R213). A kill that waits for a
busy tile completes once its stores have performed (R25, R156; log 107). [R23, R24, R25,
R27, R28, R156, R213, R265, R266, R267] -/
def Obligations.Activations : Prop :=
  (∀ (c : CoreId) (k : CtxId) (n prio : Nat) (s : State), let t := (s.core c).installed
    let vacant (k : CtxId) : Prop := (s.ctx c (bank k)).state = .dormant ∧ (s.core c).served ≠ some k ∧
      ∀ x ∈ (s.core c).mqueue, x.core = true ∨ x.ctx ≠ k
    s.mayStart c t = true → vacant k → (∀ j : CtxId, j.val < k.val → ¬ vacant j) →
    (∀ i : Item, s.choose c = some (n, .item i, prio) → i.msg.isTask = false → i.msg.isLaunch = false →
      ∃ r, exec (.activationStart c) s = .next r ∧ (r.ctx c (bank k)).state = .ready ∧
        (r.ctx c (bank k)).regs.g[17] = i.msg.header ∧ (r.ctx c (bank k)).regs.region = i.msg.region ∧
        (∀ j : Fin 16, (r.ctx c (bank k)).regs.g[j.val + 1]'(by omega) = i.msg.payload.getD j.val 0) ∧
        (r.core c).inbox = dropFirst (fun x => x.msg.chan = i.msg.chan && x.msg.tag = t) (s.core c).inbox ∧
        r.mayStart c t = false) ∧
    (∀ d : TaskRec, s.choose c = some (n, .record d, prio) → ∃ r, exec (.activationStart c) s = .next r ∧
      (r.dom c t).deque = (s.dom c t).deque.drop 1 ∧ (r.ctx c (bank k)).state = .ready ∧
      (r.ctx c (bank k)).regs.pc = (d.slots[0].setWidth 32).setWidth 64 ∧ (r.ctx c (bank k)).regs.g[1] = d.slots[1] ∧
      (r.ctx c (bank k)).regs.g[2] = d.slots[2] ∧ (r.ctx c (bank k)).regs.g[3] = d.slots[3] ∧
      (r.ctx c (bank k)).regs.region = d.region) ∧
    (∀ (p : Port) (v : CoreId), s.choose c = some (n, .theft, prio) → s.theftPort c = some p → s.neighbour c p = some v → v ≠ c →
      (∀ d, s.victimGives t v = some d → ∃ r, exec (.theftAttempt c) s = .next r ∧
        (r.dom v t).deque = (s.dom v t).deque.dropLast ∧ (r.core c).lastSteal = p ∧ (r.core c).lastTheft = some s.clock ∧
        (r.ctx c (bank k)).state = .ready ∧ (r.ctx c (bank k)).regs.pc = (d.slots[0].setWidth 32).setWidth 64) ∧
      (s.victimGives t v = none → exec (.theftAttempt c) s =
        .next (s.updCore c (fun q => { q with lastSteal := p, lastTheft := some s.clock, startClock := some s.clock }))) ∧
      ((s.dom v t).deque.length = 1 → s.ownerPops v = true → s.victimGives t v = none))) ∧
  (∀ (c : CoreId) (t : Tag) (s : State), (s.core c).startClock = some s.clock → s.mayStart c t = false) ∧
  (∀ (c : CoreId) (s : State), s.mayStart c (s.core c).installed = false →
    exec (.activationStart c) s = .next s ∧ exec (.theftAttempt c) s = .next s) ∧
  (∀ (c : CoreId) (k : CtxId) (s : State), let x := s.ctx c (bank k)
    (x.state = .blocked → x.wait = some .ending → x.outstanding = [] → x.outbox = [] → x.verifs = [] → x.event = none →
      (s.core c).served ≠ some k → ∃ t, exec (.activationEnd c k) s = .next t ∧
      (t.ctx c (bank k)).state = .dormant ∧ (t.ctx c (bank k)).wait = none ∧ (t.ctx c (bank k)).outbox = [] ∧
      (t.ctx c (bank k)).undo = [] ∧ (t.ctx c (bank k)).regs.link = [] ∧ (t.ctx c (bank k)).regs.loops = [] ∧
      (∀ d i h, x.launch = some (d, i) → lookup s.dies[d].shares i = some h →
        lookup t.dies[d].shares i = some { h with left := h.left - 1 })) ∧
    (x.wait ≠ some .dying → (x.wait ≠ some .ending ∨ x.outstanding ≠ [] ∨ x.outbox ≠ [] ∨ x.verifs ≠ [] ∨ (s.core c).served = some k) →
      exec (.activationEnd c k) s = .next s) ∧
    (x.wait = some .dying → ∃ t, exec (.activationEnd c k) s = .next t ∧
      ((∀ st ∈ x.storeBuf, s.tileHeld st = false) → (t.ctx c (bank k)).state = .dormant ∧ (t.ctx c (bank k)).storeBuf = [] ∧
        (t.ctx c (bank k)).undo = []) ∧
      ((∃ st ∈ x.storeBuf, s.tileHeld st = true) → (t.ctx c (bank k)).wait = some .dying)))

/-- The oldest outstanding result returns with its lost-significance bits, and a PARKED context whose last one it was is
READY (R46, R130); an MLSF's returns with the row group's flags once every entry accepted before it that names its tile
has completed (R171). A buffered store that may leave performs: its bytes stand at its place (R86, R89); a younger one
that may not pass does not. A pending verification resolves; a failure kills, queues cause 0x11 and moves the
partition from RUN to ERROR (R91, R292). The oldest entry of a committing context leaves under a flight credit: a
message goes out sealed, a record joins the deque (R176, R178, R185). A key slot that has sealed 2^32 messages halts
(R286). A decrement lowers the counter at its home, and at zero pushes the record that follows it; for a gated cluster it waits (R186, R351). [R46, R86,
R89, R91, R130, R171, R176, R178, R185, R186, R286, R292] -/
def Obligations.CoreReturns : Prop :=
  (∀ (c : CoreId) (k : BankId) o rest (s : State), (s.ctx c k).outstanding = o :: rest →
    let q := s.troupe (troupeOf c)
    let back (f : Regs → Regs) : Host.Outcome State Fault Refusal := .next (s.updCtx c k (fun x => { x with
      outstanding := rest, regs := { f x.regs with lsf := x.regs.lsf ||| o.lsf }, state := if rest = [] ∧ x.state = .parked then .ready else x.state }))
    (o.flags = none → exec (.longResultReturn c k) s = back id) ∧
    (∀ r, o.flags = some r → (∀ x ∈ q.mat, x.order < r.order → x.work.names r.tile.val = false) →
      exec (.longResultReturn c k) s = back (fun y => y.setV r.d (q.flags[r.tile].extractLsb' (512 * r.rg) 512))) ∧
    (∀ r x, o.flags = some r → x ∈ q.mat → x.order < r.order → x.work.names r.tile.val = true → exec (.longResultReturn c k) s = .next s)) ∧
  (∀ (c : CoreId) (k : BankId) (i : Nat) (st : Store) (s : State), let x := s.ctx c k
    x.storeBuf[i]? = some st →
    (Safe.memories s → (∀ pa, st.place = .phys pa → homeOf pa ≠ .dev ∧ s.keyStands pa st.bytes.length (if st.prot then some st.tag else none)) →
      (st.release = true → x.verifs = []) →
      (∀ t off, st.place = .acc t off → (s.troupe t).busy (off / 16384) = false) →
      (i = 0 ∨ st.release = false ∧ ∀ e ∈ x.storeBuf.take i, (e.wc = true ∨ st.wc = true) ∧ e.acquire = false ∧ e.release = false ∧
        e.meets st = false) →
      ∃ t, exec (.storeBufferDrain c k i) s = .next t ∧ Stored s.byteAt t.byteAt st.place st.bytes ∧
        (t.ctx c k).storeBuf = x.storeBuf.eraseIdx i) ∧
    ((i ≠ 0 ∧ (st.release = true ∨ ∃ e ∈ x.storeBuf.take i, e.acquire = true ∨ e.release = true ∨ e.meets st = true ∨ (e.wc = false ∧ st.wc = false))) →
      exec (.storeBufferDrain c k i) s = .next s)) ∧
  (∀ (c : CoreId) (k : CtxId) (v : Verif) rest (s : State), (s.ctx c (bank k)).verifs = v :: rest →
    (v.ok = true → exec (.verificationResolve c k) s = .next (s.updCtx c (bank k) (fun x => Context.endCommitted { x with verifs := rest }))) ∧
    (v.ok = false → ∃ t, exec (.verificationResolve c k) s = .next t ∧
      (∃ x ∈ (t.core c).mqueue, x.cause = 0x11 ∧ x.ctx = k ∧ x.val = BitVec.ofNat 64 v.line) ∧
      (let p := s.partOf (s.ctx c (bank k)).regs.tag
       s.partitions[p].state = .run → t.partitions[p].state = .error))) ∧
  (∀ (c : CoreId) (k : CtxId) (x : OutEntry) rest (s : State), let q := s.ctx c (bank k)
    q.outbox = x :: rest → q.committing = true → (∀ st ∈ q.storeBuf, x.after ≤ st.seq) → (s.core c).streamHalted x.tag = false →
    0 < (s.core c).credits →
    (∀ m, x.body = .message m → ∃ t, exec (.outboxSend c k) s = .next t ∧ (t.ctx c (bank k)).outbox = rest ∧
      t.net = s.net ++ [.message (some c) { m with key := s.sealKey c x.tag }] ∧ (t.core c).credits = (s.core c).credits - 1 ∧
      ∀ n, (s.core c).slotOf x.tag = some n → (t.core c).keys[n].used = (s.core c).keys[n].used + 1) ∧
    (∀ sl, x.body = .task sl → s.regionLive x.region = true → s.killedTag x.tag = false → (s.dom c x.tag).deque.length < 64 → ∃ t,
      exec (.outboxSend c k) s = .next t ∧ (t.ctx c (bank k)).outbox = rest ∧ t.net = s.net ∧
      (t.dom c x.tag).deque = { slots := sl, region := x.region, pushed := s.clock } :: (s.dom c x.tag).deque) ∧
    (∀ h off, x.body = .dec h off → ∃ t, exec (.outboxSend c k) s = .next t ∧ (t.ctx c (bank k)).outbox = rest ∧
      t.net = s.net ++ [.dec c x (s.sealKey c x.tag)] ∧ (t.core c).credits = (s.core c).credits - 1)) ∧
  (∀ (c : CoreId) (n : Fin 64) (s : State), let k := (s.core c).keys[n]
    (k.loaded = true → k.halted = false → 0x100000000 ≤ k.used → ∃ t, exec (.streamHalt c n) s = .next t ∧
      (t.core c).keys[n] = { k with halted := true } ∧ ((s.core c).slotOf k.tag = some n → (t.core c).streamHalted k.tag = true)) ∧
    (k.used < 0x100000000 → exec (.streamHalt c n) s = .next s)) ∧
  (∀ (n : Nat) (src home : CoreId) (off : Nat) (x : OutEntry) key (s : State), s.net[n]? = some (.dec src x key) → x.body = .dec home off → s.powered = true → s.opens home x.tag key = true →
    let m := (s.core home).scratch
    let left := leWord (m.readN off 8) - 1
    let r (k : Nat) : Word := leWord (m.readN (off + 8 * k) 8)
    let cl := clusterOf home
    ((s.cluster cl).gated = true → ∃ t, exec (.tdecHome n) s = .next t ∧ (t.cluster cl).gated = false ∧ (t.cluster cl).waking = true ∧ t.net = s.net) ∧
    ((s.cluster cl).gated = false → (s.cluster cl).waking = true → exec (.tdecHome n) s = .next s) ∧
    (m.wf = true → (s.cluster cl).gated = false → (s.cluster cl).waking = false →
    ∃ t, exec (.tdecHome n) s = .next t ∧ leWord ((t.core home).scratch.readN off 8) = left ∧
      (left ≠ 0 → t.net = s.net.eraseIdx n ∧ ∀ c a, (t.dom c a).deque = (s.dom c a).deque) ∧
      (left = 0 → recordOk (r 1) = true → s.regionLive x.region = true → s.killedTag x.tag = false → (s.dom home x.tag).deque.length < 64 →
        (t.dom home x.tag).deque = { slots := #v[r 1, r 2, r 3, r 4], region := x.region, pushed := s.clock } ::
          (s.dom home x.tag).deque)))

/-- MMA.QQ, MMA.HH and MMA.NN of a descriptor in the own scratchpad that breaks no limit, whose rows an engine may be
given, on a tile of the domain (or one claimed by ZFIRST), queue a job and answer its identifier (R162, R165, R166).
MZERO claims its tile and queues; MST queues the rows it names; MTBL queues the pair its images or presets give (R163,
R164, R170, R172). Each drains the store buffer, ends restorability, and waits while the queue holds 32 entries (R155,
R157). MLSF of a tile of the domain issues, and its result is outstanding behind the entries accepted before it (R171). A tile number above 15, a row group
above 7 and a descriptor that breaks a limit are illegal, a tile of another domain and a row an engine may not be
given access violations. Which of an MMA's failing rows decides tval is log 25, that MST tests opB before DSTRIDE log 86, that slots 4
to 7 of MTBL's header are ignored log 104. [R155, R157, R162, R163, R164, R165, R166, R170, R171, R172] -/
def Obligations.MatrixInstructions : Prop :=
  (∀ (k : MatKind) w d a off (s : State), let u := Uses.g2 d a true
    let i : Instr := match k with | .qq => .mmaqq w d a | .hh => .mmahh w d a | .nn => .mmann w d a
    let q := s.troupe (troupeOf s.turn.core)
    let p := slotsOf (s.myCore.scratch.readN off 64) 8
    OwnBytes s (s.val u 0) off 64 true false →
    (tileDesc k p = none → Traps i w u s 0x01 i.baseWord) ∧
    ∀ t, tileDesc k p = some t → let bad := (t.rows k).findSome? (fun r => s.badRow s.turn.core s.regs.tag .load r.1 r.2)
      (∀ x, bad = some x → Traps i w u s 0x06 x) ∧
      (bad = none → t.zfirst = false → q.owners[t.tile] ≠ some s.regs.tag → Traps i w u s 0x06 (BitVec.ofNat 64 (0xFFFA000000000000 + 16384 * t.tile.val))) ∧
      (bad = none → (t.zfirst = true ∨ q.owners[t.tile] = some s.regs.tag) → (32 ≤ q.mat.length → Waits i w u s) ∧
        (q.mat.length < 32 → ∃ e, Gives i w u s e ∧ e.me.restorable = false ∧
          (∀ n, n ≠ 0 → d = .g n → e.regs.getG n = jobId s.owner (BitVec.ofNat 24 q.matSeq) false) ∧
          (e.troupe (troupeOf s.turn.core)).mat = q.mat ++ [{ owner := s.owner, work := .mma k t s.regs.malw s.regs.gwin s.regs.gbud, seq := BitVec.ofNat 24 q.matSeq, phase := .queued, rg := 0, flags := 0, lsnew := false, stall := 0, left := 0, fault := none, order := q.matOrder, accepted := s.clock }] ∧
          (e.troupe (troupeOf s.turn.core)).matSeq = q.matSeq + 1 ∧ (e.troupe (troupeOf s.turn.core)).matOrder = q.matOrder + 1 ∧
          (e.troupe (troupeOf s.turn.core)).owners[t.tile] = some s.regs.tag))) ∧
  (∀ (k : MatKind) (p : List Word) t, tileDesc k p = some t → t.abase = p.getD 0 0 ∧ t.bbase = p.getD 1 0 ∧ t.ascale = p.getD 2 0 ∧
    t.bscale = p.getD 3 0 ∧ t.astride = fld (p.getD 4 0) 0 32 ∧ t.bstride = fld (p.getD 4 0) 32 32 ∧ t.k = fld (p.getD 5 0) 0 16 ∧
    t.tile.val = fld (p.getD 5 0) 16 8 ∧ t.pair.val = fld (p.getD 5 0) 24 2 ∧ t.zfirst = bit (p.getD 5 0) 26 ∧
    t.notify = bit (p.getD 5 0) 27 ∧ t.chan.toNat = fld (p.getD 5 0) 28 6 ∧ t.k % 32 = 0 ∧ 32 ≤ t.k ∧ t.k ≤ 65504 ∧
    t.abase.toNat % 64 = 0 ∧ t.astride % 64 = 0) ∧
  (∀ w a (s : State), let u := Uses.a1 a
    let v := s.val u 0
    let q := s.troupe (troupeOf s.turn.core)
    (16 ≤ v.toNat → Traps (.mzero w a) w u s 0x01 (Instr.mzero w a).baseWord) ∧
    (∀ t : Fin 16, v = BitVec.ofNat 64 t.val → s.me.storeBuf = [] → (32 ≤ q.mat.length → Waits (.mzero w a) w u s) ∧
      (q.mat.length < 32 → ∃ e, Gives (.mzero w a) w u s e ∧ e.me.restorable = false ∧
        (e.troupe (troupeOf s.turn.core)).owners[t] = some s.regs.tag ∧ (e.troupe (troupeOf s.turn.core)).matSeq = q.matSeq ∧
        ∃ x, (e.troupe (troupeOf s.turn.core)).mat = q.mat ++ [x] ∧ x.work = .zero t ∧ x.owner = s.owner ∧ x.phase = .queued))) ∧
  (∀ w d a b (s : State), let u := Uses.g3 d a b true
    let x := s.val u 0
    let v := s.val u 1
    let q := s.troupe (troupeOf s.turn.core)
    let stride := (x.extractLsb' 32 32).toInt
    let rows : List (Int × Nat) := (List.range (fld x 16 6 + 1)).map
      (fun (r : Nat) => ((v.toNat : Int) + (r : Int) * stride, if fld x 24 2 = 0 then 256 else 128))
    let good : Prop := fld x 4 4 = 0 ∧ fld x 14 2 = 0 ∧ fld x 22 2 = 0 ∧ fld x 26 6 = 0 ∧ fld x 8 6 + fld x 16 6 ≤ 63 ∧ fld x 24 2 ≠ 3
    (¬ good → Traps (.mst w d a b) w u s 0x01 (Instr.mst w d a b).baseWord) ∧
    (good → v.toNat % 64 ≠ 0 → Traps (.mst w d a b) w u s 0x05 v) ∧
    (∀ t : Fin 16, good → fld x 0 4 = t.val → v.toNat % 64 = 0 → stride % 64 = 0 → s.me.storeBuf = [] →
      rows.findSome? (fun r => s.badRow s.turn.core s.regs.tag .store r.1 r.2) = none → q.owners[t] = some s.regs.tag →
      (32 ≤ q.mat.length → Waits (.mst w d a b) w u s) ∧
      (q.mat.length < 32 → ∃ e, Gives (.mst w d a b) w u s e ∧ e.me.restorable = false ∧
        (∀ n, n ≠ 0 → d = .g n → e.regs.getG n = jobId s.owner (BitVec.ofNat 24 q.matSeq) false) ∧
        ∃ y z, (e.troupe (troupeOf s.turn.core)).mat = q.mat ++ [y] ∧ y.work = .st z ∧ z.tile = t ∧ z.first = fld x 8 6 ∧
          z.count = fld x 16 6 + 1 ∧ z.dst = v ∧ z.dstride = stride ∧ z.fmt.toNat = fld x 24 2))) ∧
  (∀ w (pair : Fin 4) a off (s : State), let u := Uses.a1 a
    let q := s.troupe (troupeOf s.turn.core)
    let p := slotsOf (s.myCore.scratch.readN off 64) 8
    let h := p.getD 2 0
    let side (src : Nat) (img : Word) (twos : Bool) (t : Table) : Prop := (1 ≤ src ∧ src ≤ 4 ∧ t = presetTable (src - 1)) ∨
      (src = 0 ∧ img.toNat % 64 = 0 ∧ ∃ o, (∀ n < 16, OwnBytes s (img + BitVec.ofNat 64 (64 * n)) (o + 64 * n) 64 true false) ∧
        t = tableOf (s.myCore.scratch.readN o 1024) twos)
    OwnBytes s (s.val u 0) off 64 true false →
    ((4 < fld h 0 3 ∨ 4 < fld h 4 3 ∨ 0x100 ≤ h.toNat ∨ p.getD 3 0 ≠ 0) → Traps (.mtbl w pair a) w u s 0x01 (Instr.mtbl w pair a).baseWord) ∧
    (∀ ta tb, h.toNat < 0x100 → p.getD 3 0 = 0 → side (fld h 0 3) (p.getD 0 0) (bit h 3) ta → side (fld h 4 3) (p.getD 1 0) (bit h 7) tb →
      (32 ≤ q.mat.length → Waits (.mtbl w pair a) w u s) ∧
      (q.mat.length < 32 → ∃ e, Gives (.mtbl w pair a) w u s e ∧ e.me.restorable = false ∧
        ∃ x, (e.troupe (troupeOf s.turn.core)).mat = q.mat ++ [x] ∧ x.work = .table pair { a := ta, b := tb, tag := s.regs.tag }))) ∧
  (∀ w d a b (t : Fin 16) (s : State), let u : Uses := { srcs := [a, b], reads := a.refs ++ b.refs, writes := rv d, long := true, own := true }
    let q := s.troupe (troupeOf s.turn.core)
    (∀ h : 28 ≤ d.val, (s.regs.streams[d.val - 28]'(by omega)).on = false) → s.val u 0 = BitVec.ofNat 64 t.val →
    (7 < (s.val u 1).toNat → Traps (.mlsf w d a b) w u s 0x01 (Instr.mlsf w d a b).baseWord) ∧
    ((s.val u 1).toNat ≤ 7 → q.owners[t] ≠ some s.regs.tag →
      Traps (.mlsf w d a b) w u s 0x06 (BitVec.ofNat 64 (0xFFFA000000000000 + 16384 * t.val))) ∧
    ((s.val u 1).toNat ≤ 7 → q.owners[t] = some s.regs.tag → Gives (.mlsf w d a b) w u s ((s.opened u).updMe (fun x => { x with
      outstanding := x.outstanding ++ [{ lsf := 0, flags := some { tile := t, rg := (s.val u 1).toNat, d := d, order := q.matOrder } }] }))))

/-- A query answers BADID for an identifier of another kind or domain, whose CORE field is not the asking core's, or not yet given; the phase of a live job of the domain; the status of a completed one (R158, R159, R193). A matrix query sets mrow, and the first answer
of a completed job adds its flags to fflg and its stall clocks to mgst (R169). The poll forms always complete; the
wait forms are commit points that complete on any answer but a live job's and wait for the job otherwise (R169, R176,
R193). [R158, R159, R169, R176, R193] -/
def Obligations.JobQueries : Prop :=
  (∀ (s : State) (id : Word), let q := s.troupe (troupeOf s.turn.core)
    let seq : BitVec 24 := id.setWidth 24
    let mine (o : JobOwner) : Prop := o.tag = s.regs.tag
    let formed (copy : Bool) (next : Nat) : Prop := bit id 30 = copy ∧ id.toNat < 0x80000000 ∧ fld id 24 3 = coreX s.turn.core ∧
      (next < 0x1000000 → seq.toNat < next)
    (¬ formed false q.matSeq → s.viewMat id = .bad) ∧ (¬ formed true q.copySeq → s.viewCopy id = .bad) ∧
    (∀ x, formed false q.matSeq → q.mat.find? (fun x => x.work.hasId && x.seq = seq) = some x →
      (mine x.owner → s.viewMat id = .live (matStatus x.phase.code 0 x.rg x.flags x.lsnew)) ∧ (¬ mine x.owner → s.viewMat id = .bad)) ∧
    (∀ x, formed true q.copySeq → q.copies.find? (fun x => x.seq = seq) = some x →
      (mine x.owner → s.viewCopy id = .live (copyStatus x.phase.code 0 x.rows)) ∧ (¬ mine x.owner → s.viewCopy id = .bad)) ∧
    (∀ x, formed false q.matSeq → (∀ y ∈ q.mat, y.work.hasId = true → y.seq ≠ seq) → q.matDone.find? (fun x => x.seq = seq) = some x →
      (BitVec.ofNat 24 q.matSeq - seq).toNat ≤ 256 → mine x.owner → s.viewMat id = .done x) ∧
    (∀ x, formed true q.copySeq → (∀ y ∈ q.copies, y.seq ≠ seq) → q.copyDone.find? (fun x => x.seq = seq) = some x →
      (BitVec.ofNat 24 q.copySeq - seq).toNat ≤ 256 → mine x.owner → s.viewCopy id = .done x)) ∧
  (∀ w d a (s : State), let u := Uses.g2 d a true
    let id := s.val u 0
    let v := s.viewMat id
    let c := s.viewCopy id
    let calm : Prop := s.me.verifs = [] ∧ s.me.outbox = [] ∧ s.me.wait = none ∧ s.regs.guardPending = false
    let mrow := at' (fld v.word 8 4) 0 ||| at' (fld v.word 0 4) 4 ||| at' (fld id 0 24) 8
    let answers (e : State) : Prop := (∀ n, n ≠ 0 → d = .g n → e.regs.getG n = v.word) ∧ e.regs.mrow = mrow ∧
      (∀ x, v = .done x → x.taken = false → e.regs.fflg = s.regs.fflg ||| x.status.extractLsb' 12 5 ∧
        e.regs.mgst = BitVec.ofNat 64 (min (s.regs.mgst.toNat + x.stall) 0xFFFFFFFFFFFFFFFF)) ∧
      ((∀ x, v = .done x → x.taken = true) → e.regs.fflg = s.regs.fflg ∧ e.regs.mgst = s.regs.mgst)
    (∃ e, Gives (.mpoll w d a) w u s e ∧ answers e) ∧
    (calm → v.final = true → ∃ e, Gives (.mwait w d a) w u s e ∧ answers e ∧ e.me.restorable = true ∧ e.me.undo = []) ∧
    (calm → v.final = false → Runs (.mwait w d a) w u s → NextKnown w s.regs.pc s → ∃ e, exec (.mwait w d a) s = .next e ∧ e.me.state = .blocked ∧
      e.me.wait = some (.job (.mwait w d a) id)) ∧
    Gives (.cpoll w d a) w u s ((s.opened u).writeG d c.word) ∧
    (calm → c.final = true → ∃ e, Gives (.cwait w d a) w u s e ∧ (∀ n, n ≠ 0 → d = .g n → e.regs.getG n = c.word) ∧
      e.me.restorable = true ∧ e.me.undo = []) ∧
    (calm → c.final = false → Runs (.cwait w d a) w u s → NextKnown w s.regs.pc s → ∃ e, exec (.cwait w d a) s = .next e ∧ e.me.state = .blocked ∧
      e.me.wait = some (.job (.cwait w d a) id)))

/-- COPY of a descriptor in the own scratchpad that breaks no limit, whose local rows the domain may reach, queues a job
and answers its identifier; it waits while the queue holds 32 jobs (R190, R191). BSET of a handle that is FREE or of
the domain and not held sets its state and tag; a held one makes it wait. BWAIT is a commit point that completes in
the state it names and waits otherwise; BSTAT answers the state, the hold and the waiting jobs (R194, R195, R196). A
handle number above 31 and a descriptor that breaks a limit are illegal, another domain's handle an access violation.
[R176, R190, R191, R193, R194, R195, R196] -/
def Obligations.CopiesAndHandles : Prop :=
  (∀ w d a off (s : State), let u := Uses.g2 d a true
    let q := s.troupe (troupeOf s.turn.core)
    let p := slotsOf (s.myCore.scratch.readN off 32) 4
    OwnBytes s (s.val u 0) off 32 true false →
    (copyDesc p = none → Traps (.copy w d a) w u s 0x01 (Instr.copy w d a).baseWord) ∧
    (∀ x, copyDesc p = some x →
      let open_ (kind : Kind) (space : Fin 5) (base : Word) (stride : Nat) : Prop := space = 0 ∨ space = 4 ∨
        ∀ r < x.rows, s.badCopyRow kind space.val (base.toNat + r * stride) x.rowBytes = none
      open_ .load x.sspace x.src x.sstride → open_ .store x.dspace x.dst x.dstride →
      (32 ≤ q.copies.length → Waits (.copy w d a) w u s) ∧
      (q.copies.length < 32 → ∃ e, Gives (.copy w d a) w u s e ∧ e.me.restorable = false ∧
        (∀ n, n ≠ 0 → d = .g n → e.regs.getG n = jobId s.owner (BitVec.ofNat 24 q.copySeq) true) ∧
        (e.troupe (troupeOf s.turn.core)).copySeq = q.copySeq + 1 ∧
        (e.troupe (troupeOf s.turn.core)).copies = q.copies ++ [{ owner := s.owner, desc := x, seq := BitVec.ofNat 24 q.copySeq, phase := .queued, rows := 0, fault := none }]))) ∧
  (∀ (p : List Word) x, copyDesc p = some x → x.src = p.getD 0 0 ∧ x.dst = p.getD 1 0 ∧ x.rowBytes = fld (p.getD 2 0) 0 24 ∧
    x.rows = fld (p.getD 2 0) 24 16 ∧ x.sspace.val = fld (p.getD 2 0) 40 3 ∧ x.dspace.val = fld (p.getD 2 0) 43 3 ∧
    x.chan.toNat = fld (p.getD 2 0) 46 6 ∧ x.notify = bit (p.getD 2 0) 52 ∧ x.sstride = fld (p.getD 3 0) 0 32 ∧
    x.dstride = fld (p.getD 3 0) 32 32 ∧ x.rowBytes ≠ 0 ∧ x.rows ≠ 0) ∧
  (∀ w (st : HandleState) d a (h : Fin 32) (s : State), let u1 := Uses.a1 a
    let u2 := Uses.g2 d a true
    let y := (s.troupe (troupeOf s.turn.core)).handles[h]
    let mine : Prop := y.state = .free ∨ y.tag = s.regs.tag
    let calm : Prop := s.me.verifs = [] ∧ s.me.outbox = [] ∧ s.me.wait = none ∧ s.regs.guardPending = false
    (s.val u1 0 = BitVec.ofNat 64 h.val → mine →
      (y.held = true → Waits (.bset w st a) w u1 s) ∧
      (y.held = false → s.me.storeBuf = [] → ∃ e, Gives (.bset w st a) w u1 s e ∧ e.me.restorable = false ∧
        (e.troupe (troupeOf s.turn.core)).handles[h] =
          { state := st, held := false, tag := if st = .free then 0 else s.regs.tag }) ∧
      (calm → y.state = st → ∃ e, Gives (.bwait w st a) w u1 s e ∧ e.troupes = s.troupes ∧ e.me.restorable = true ∧ e.me.undo = []) ∧
      (calm → y.state ≠ st → Runs (.bwait w st a) w u1 s → NextKnown w s.regs.pc s → ∃ e, exec (.bwait w st a) s = .next e ∧ e.me.state = .blocked ∧
        e.me.wait = some (.handle (.bwait w st a) h st))) ∧
    (s.val u2 0 = BitVec.ofNat 64 h.val → mine → Gives (.bstat w d a) w u2 s ((s.opened u2).writeG d
      ((match y.state with | .free => 0#64 | .filling => 1#64 | .full => 2#64 | .draining => 3#64) |||
        (if y.held then 4#64 else 0#64) ||| at' ((s.troupe (troupeOf s.turn.core)).waiters h) 8))) ∧
    (s.val u1 0 = BitVec.ofNat 64 h.val → ¬ mine → s.me.wait = none → Traps (.bset w st a) w u1 s 0x06 (s.val u1 0) ∧
      Traps (.bwait w st a) w u1 s 0x06 (s.val u1 0)) ∧
    (32 ≤ (s.val u1 0).toNat → s.me.wait = none → Traps (.bset w st a) w u1 s 0x01 (Instr.bset w st a).baseWord ∧
      Traps (.bwait w st a) w u1 s 0x01 (Instr.bwait w st a).baseWord))

/-- GCALL of a gate that admits the caller, with a window the caller may use, of a resident domain in RUN, is a commit
point that pushes an entry with the return address, the caller and the stack depths, raises INSIDE and enters the gate
under the callee's tag with g8 to g31, f, v and the flags cleared (R197, R199). A killed callee answers 2 and a
revoked gate or a partition not in RUN 1 at the next address. In a gang it traps 0x10, with eight calls open, a
pending trap, a gate that is not one, one that does not admit the caller or a bad window it is a gate fault. GRET
restores what the entry holds, clears g5 to g31 but the status register, which holds 0, and ends restorability;
outside a call and with messages in the outbox it is a gate fault (R201). That a partition not in RUN answers as a revoked gate does
is log 60; an injection armed on the gate's entry fires first, and the call is issued again (R221). DSR reads a field of the innermost entry
outside M mode, of the entry it numbers in M mode; codes 6 and 7 are illegal (R205). That the registers an entry or a return clears count as written is log 97. [R176, R197, R199, R201, R205,
R287] -/
def Obligations.GateCalls : Prop :=
  (∀ w (d a b : Fin 32) (s : State), let u : Uses := { srcs := [.g a, .g b], dst := some (.g d), reads := rg a ++ rg b, writes := rg d ++ rangeRefs 8 24 ++ clearedRefs, long := true, own := true, jumps := true }
    let h := s.regs.getG a
    let win := s.regs.getG b
    let i : Instr := .gcall w d a b
    let next := s.regs.pc + BitVec.ofNat 64 w.size
    let calm : Prop := s.me.verifs = [] ∧ s.me.outbox = [] ∧ s.regs.guardPending = false ∧ s.me.storeBuf = []
    let unarmed : Prop := ∀ pa, s.gateEntry (h.setWidth 16) (fld h 16 8) = some pa → s.injection pa 64 = none
    (s.regs.gstat.inGang = true → Traps i w u s 0x10 s.regs.gstat.word) ∧
    (s.regs.gstat.inGang = false → 8 ≤ s.regs.dom.length → Traps i w u s 0x0E 8) ∧
    (s.regs.gstat.inGang = false → s.regs.dom.length < 8 → (s.regs.tcause ≠ 0 ∨ (s.gateOf h = none ∧ unarmed)) → Traps i w u s 0x0E h) ∧
    (∀ pa, s.regs.gstat.inGang = false → s.regs.dom.length < 8 → s.regs.tcause = 0 → s.gateEntry (h.setWidth 16) (fld h 16 8) = some pa →
      (s.injection pa 64).isSome = true → Runs i w u s → exec i s = .next (s.fired pa)) ∧
    ∀ g, s.regs.gstat.inGang = false → s.regs.dom.length < 8 → s.regs.tcause = 0 → s.gateOf h = some g → unarmed →
      let t : Tag := h.setWidth 16
      ((s.admits g s.regs.tag = false ∨ s.windowOk win = false ∨ (s.killedTag t = false ∧ s.myCore.resident t = false)) →
        Traps i w u s 0x0E h) ∧
      (s.admits g s.regs.tag = true → s.windowOk win = true → calm →
        (s.killedTag t = true → ∃ e, Goes i w u s e ∧ e.regs = { s.regs.setG d 2 with pc := next } ∧ e.me.restorable = true) ∧
        (s.killedTag t = false → s.myCore.resident t = true → (g.state = 2 ∨ s.partitions[s.partOf t].state ≠ .run) →
          ∃ e, Goes i w u s e ∧ e.regs = { s.regs.setG d 1 with pc := next } ∧ e.me.restorable = true) ∧
        (s.killedTag t = false → s.myCore.resident t = true → g.state ≠ 2 → s.partitions[s.partOf t].state = .run → s.mem.wf = true →
          ∃ e p, Goes i w u s e ∧ e.me.restorable = true ∧ e.me.undo = [] ∧ fld (e.slot g.pa 1) 32 32 = (fld (s.slot g.pa 1) 32 32 + 1) % 0x100000000 ∧
            e.regs.dom = p :: s.regs.dom ∧ e.regs.pc = g.entry ∧ e.regs.tag = t ∧ e.regs.link = s.regs.link ∧ e.regs.loops = s.regs.loops ∧
            (∀ n : Fin 32, e.regs.g[n] = if n.val < 8 then s.regs.g[n] else 0) ∧ (∀ n : Fin 32, e.regs.f[n] = 0 ∧ e.regs.v[n] = 0) ∧
            e.regs.lc = 0 ∧ e.regs.ls = 0 ∧ e.regs.fflg = 0 ∧ e.regs.fen = 0 ∧ e.regs.lsf = 0 ∧
            p.retpc = next ∧ p.caller = s.regs.tag ∧ p.callee = t ∧ p.lc = s.regs.lc ∧ p.ls = s.regs.ls ∧ p.handle = h ∧
            p.lfloor = s.regs.link.length ∧ p.pfloor = s.regs.loops.length ∧ p.sreg = d ∧ p.fflg = s.regs.fflg ∧ p.fen = s.regs.fen ∧
            p.limited = g.limited ∧ (g.limited = true → p.left = g.ceiling)))) ∧
  (∀ w (s : State), let u : Uses := { jumps := true, writes := rangeRefs 5 27 ++ clearedRefs }
    (s.regs.dom = [] → Traps (.gret w) w u s 0x0E 0) ∧
    (s.regs.dom ≠ [] → s.me.outbox ≠ [] → Traps (.gret w) w u s 0x0E (BitVec.ofNat 64 s.regs.dom.length)) ∧
    ∀ p l, s.regs.dom = p :: l → s.me.outbox = [] → s.me.verifs = [] → s.regs.guardPending = false → s.me.storeBuf = [] →
      ∃ e, Goes (.gret w) w u s e ∧ e.me.restorable = false ∧ e.regs.pc = p.retpc ∧ e.regs.tag = p.caller ∧ e.regs.dom = l ∧
        e.regs.lc = p.lc ∧ e.regs.ls = p.ls ∧ e.regs.fflg = p.fflg ∧ e.regs.fen = p.fen ∧ e.regs.lsf = p.lsf ∧ e.regs.tcause = 0 ∧
        (p.lfloor ≤ s.regs.link.length → e.regs.link.length = p.lfloor) ∧
        (p.pfloor ≤ s.regs.loops.length → e.regs.loops.length = p.pfloor) ∧
        (∀ n : Fin 32, n ≠ 0 → e.regs.g[n] = if n = p.sreg then 0 else if n.val < 5 then s.regs.g[n] else 0) ∧
        (∀ n : Fin 32, e.regs.f[n] = 0 ∧ e.regs.v[n] = 0)) ∧
  (∀ w d a (f : BitVec 4) (s : State), let u : Uses := { srcs := [a], dst := some d, reads := a.refs, writes := d.refs, long := true, priv := 8 ≤ f.toNat }
    let i : Instr := .dsr w d a f
    let o := s.opened u
    ((f = 6 ∨ f = 7) → Traps i w u s 0x01 i.baseWord) ∧
    (s.mMode = false → f.toNat < 6 → (∀ p l, s.regs.dom = p :: l → s.val u 0 = 0 → Gives i w u s (o.writeG d
        (match f.toNat with
          | 0 => p.caller.setWidth 64
          | 1 => p.cpart.setWidth 64
          | 2 => p.gate.setWidth 64
          | 3 => at' (fld (p.window.setWidth 64) 17 13) 0 ||| (if p.window.getLsbD 30 then 0x2000#64 else 0#64)
          | 4 => p.left.setWidth 64 ||| (if p.limited then 0x8000000000000000#64 else 0#64)
          | _ => p.region.setWidth 64))) ∧
      ((s.regs.dom = [] ∨ s.val u 0 ≠ 0) → Traps i w u s 0x0E (s.val u 0))) ∧
    (s.mMode = true → f ≠ 6 → f ≠ 7 → (∀ p, s.csrRegs.dom[(s.val u 0).toNat]? = some p → Gives i w u s (o.writeG d (p.field f.toNat))) ∧
      (s.csrRegs.dom.length ≤ (s.val u 0).toNat → Traps i w u s 0x01 i.baseWord)))

/-- CUE of a sequence of the running partition that takes cues appends the four registers to its stream under the next
ordinal and answers the cue's number; it parks while the window of 256 or the retention area is full, and while its stream's journal is
still being read (log 133); in replay a
journalled cue's entry comes back in the registers (R206, R208, R308, R313). EMIT of a durable cue whose low word
matches posts its record and marks it emitted, and waits until it is durable (R209). HPOST posts four registers to a
queue of the own function once the thread's stores and verifications are done (R210, R241); a queue with EN 0 leaves them in the die's
posting buffer (log 82). RNG is R211's generator. A flit leaves with seven cues or after 940 clocks, an
acknowledgement moves ACKORD, a flit without an answer for 94,000 clocks is resent, and after three resends without one that
advances ACKORD the stream is LOST (R309). The ring place is log 31, an unsent ordinal's acknowledgement log 39. [R206, R208, R209, R210, R211,
R308, R309, R313] -/
def Obligations.CuesAndPosts : Prop :=
  (∀ w d (a : Fin 32) (s : State), let u : Uses := { dst := some d, reads := rangeRefs a.val 4, writes := d.refs ++ rangeRefs a.val 4, long := true }
    let r (k : Nat) : Word := s.regs.getG (Fin.ofNat 32 (a.val + k))
    let die := dieOf s.turn.core
    (s.dies[die].sequence ((r 0).setWidth 32) = none → Traps (.cue w d a) w u s 0x06 ((r 0).setWidth 32 |>.setWidth 64)) ∧
    ∀ slot q, s.dies[die].sequence ((r 0).setWidth 32) = some (slot, q) → q.part = s.partOf s.regs.tag → q.ended = false →
      (0x400000000 ≤ (r 1).toNat → Traps (.cue w d a) w u s 0x01 (Instr.cue w d a).baseWord) ∧
      ((r 1).toNat < 0x400000000 →
        ((s.regs.rplyMode = false ∨ q.journal = []) → s.journalDue die slot = false → q.nextOrd - q.ackOrd < 256 → q.cues.length < q.retainSize / 32 →
          ∃ e x, Gives (.cue w d a) w u s e ∧ (∀ n, n ≠ 0 → d = .g n → e.regs.getG n = at' q.nextOrd 0 ||| at' slot 48 ||| at' die.val 60) ∧
            lookup e.dies[die].streams slot = some x ∧ x.nextOrd = q.nextOrd + 1 ∧ x.ackOrd = q.ackOrd ∧ x.ended = bit (r 1) 33 ∧
            (s.regs.rplyMode = true → e.regs.rplyBeyond = true) ∧
            x.cues = q.cues ++ [{ ord := q.nextOrd, entry := #v[r 0, r 1, r 2, r 3], emitted := false, replayed := false }]) ∧
        ((s.regs.rplyMode = false ∨ q.journal = []) → (s.journalDue die slot = true ∨ 256 ≤ q.nextOrd - q.ackOrd ∨ q.retainSize / 32 ≤ q.cues.length) →
          Runs (.cue w d a) w u s → ∃ e, exec (.cue w d a) s = .next e ∧ e.me.state = .parked ∧ e.me.wait = some (.reissue false) ∧
            e.regs = { s.regs with rplyBeyond := s.regs.rplyBeyond || (s.regs.rplyMode && !s.journalDue die slot) }) ∧
        (∀ ord rest c, s.regs.rplyMode = true → q.journal = ord :: rest → q.cues.find? (fun c => c.ord = ord) = some c → a.val < 29 →
          ∃ e x, Gives (.cue w d a) w u s e ∧ lookup e.dies[die].streams slot = some x ∧ x.journal = rest ∧ x.nextOrd = q.nextOrd ∧
            (∀ n, n ≠ 0 → d = .g n → e.regs.getG n = at' ord 0 ||| at' slot 48 ||| at' die.val 60) ∧
            (∀ k : Fin 4, k ≠ 0 → d ≠ .g (Fin.ofNat 32 (a.val + k.val)) → e.regs.getG (Fin.ofNat 32 (a.val + k.val)) = c.entry[k]) ∧
            (c.entry ≠ #v[r 0, r 1, r 2, r 3] → e.regs.rplyMismatch = true)))) ∧
  (∀ w a b (s : State), let u := Uses.a2 a b
    let n := s.val u 0
    let die := dieOf s.turn.core
    (s.cueOf n = none → s.me.wait = none → Traps (.emit w a b) w u s 0x06 n) ∧
    ∀ d slot q c, s.cueOf n = some (d, slot, q, c) → s.me.wait = none →
      ((q.part ≠ s.partOf s.regs.tag ∨ c.emitted = true ∨ fld (s.val u 1) 0 32 ≠ fld c.entry[1] 0 32) → Traps (.emit w a b) w u s 0x06 n) ∧
      (q.part = s.partOf s.regs.tag → c.emitted = false → fld (s.val u 1) 0 32 = fld c.entry[1] 0 32 → s.me.verifs = [] →
        s.me.outbox = [] → s.regs.guardPending = false →
        (c.ord < q.ackOrd → s.me.storeBuf = [] → s.dies[die].posts.length < 64 → ∃ e x, Gives (.emit w a b) w u s e ∧
          lookup e.dies[d].streams slot = some x ∧ (∀ y ∈ x.cues, y.ord = c.ord → y.emitted = true) ∧ x.ackOrd = q.ackOrd ∧
          (s.host.cplq[q.outq].en = true → (s.host.cplq[q.outq].tail - s.host.cplq[q.outq].head).toNat < 2 ^ s.host.cplq[q.outq].log2n.toNat →
            (∀ p ∈ s.dies[die].posts, p.queue ≠ q.outq) → e.host.cplq[q.outq].tail = s.host.cplq[q.outq].tail + 1) ∧
          (s.host.cplq[q.outq].en = false → e.dies[die].posts = s.dies[die].posts ++
            [{ queue := q.outq, slots := #v[c.entry[0], c.entry[1] ||| atB c.replayed 34, n, 0], cue := some n }])) ∧
        (q.ackOrd ≤ c.ord → Runs (.emit w a b) w u s → NextKnown w s.regs.pc s → ∃ e, exec (.emit w a b) s = .next e ∧ e.me.state = .blocked ∧
          e.me.wait = some (.cue (.emit w a b) n (s.val u 1))))) ∧
  (∀ w a (b : Fin 32) (s : State), let u : Uses := { srcs := [a], reads := a.refs ++ rangeRefs b.val 4 }
    let n := s.val u 0
    let die := dieOf s.turn.core
    (32 ≤ n.toNat → Traps (.hpost w a b) w u s 0x01 (Instr.hpost w a b).baseWord) ∧
    ∀ q : QueueId, n = BitVec.ofNat 64 q.val →
      (s.host.cplq[q].func.val ≠ (s.partOf s.regs.tag).val + 1 → Traps (.hpost w a b) w u s 0x06 n) ∧
      (s.host.cplq[q].func.val = (s.partOf s.regs.tag).val + 1 → s.me.verifs ≠ [] → Waits (.hpost w a b) w u s) ∧
      (s.host.cplq[q].func.val = (s.partOf s.regs.tag).val + 1 → s.me.verifs = [] → s.me.storeBuf = [] → s.dies[die].posts.length < 64 →
        ∃ e, Gives (.hpost w a b) w u s e ∧ e.me.restorable = false ∧
          (s.host.cplq[q].en = true → (s.host.cplq[q].tail - s.host.cplq[q].head).toNat < 2 ^ s.host.cplq[q].log2n.toNat →
            (∀ p ∈ s.dies[die].posts, p.queue ≠ q) → e.host.cplq[q].tail = s.host.cplq[q].tail + 1) ∧
          (s.host.cplq[q].en = false → ∃ r : Vector Word 4, (∀ k : Fin 4, r[k] = s.regs.getG (Fin.ofNat 32 (b.val + k.val))) ∧
            e.dies[die].posts = s.dies[die].posts ++ [{ queue := q, slots := r, cue := none }]))) ∧
  Computes3 .rng true (fun seed counter =>
    let z := seed + (counter + 1) * 0x9E3779B97F4A7C15
    let y := (z ^^^ (z >>> 30)) * 0xBF58476D1CE4E5B9
    let x := (y ^^^ (y >>> 27)) * 0x94D049BB133111EB
    x ^^^ (x >>> 31)) ∧
  (∀ (die : DieId) (slot : Nat) q (s : State), lookup s.dies[die].streams slot = some q → q.state ≠ .lost →
    (q.unsent < q.nextOrd → s.host.reaches q.ustudy 0 = true → (q.unsent + 7 ≤ q.nextOrd ∨ q.firstClock + 940 ≤ s.clock) →
      ∃ t x, exec (.cueFlitSend die slot) s = .next t ∧ lookup t.dies[die].streams slot = some x ∧
        x.unsent = min (q.unsent + 7) q.nextOrd ∧ x.flits.length = q.flits.length + 1 ∧ x.cues = q.cues ∧
        ∃ m ∈ t.host.cueSends, m.endpoint = q.ustudy ∧ m.die = die ∧ m.slot = slot) ∧
    (q.unsent < q.nextOrd → s.host.reaches q.ustudy 0 = false → ∃ t x, exec (.cueFlitSend die slot) s = .next t ∧
      lookup t.dies[die].streams slot = some x ∧ x.state = .lost ∧ t.dies[die].log.count = s.dies[die].log.count + 1) ∧
    (∀ m, q.ackOrd ≤ m → m < q.unsent → ∃ t x, exec (.cueAck die slot q.ustudy m) s = .next t ∧
      lookup t.dies[die].streams slot = some x ∧ x.ackOrd = m + 1 ∧ ∀ f ∈ x.flits, m < f.last) ∧
    (∀ m p, (p ≠ q.ustudy ∨ m < q.ackOrd ∨ q.unsent ≤ m) → exec (.cueAck die slot p m) s = .next s) ∧
    (∀ f, q.flits.find? (fun f => f.sent + 94000 ≤ s.clock) = some f →
      ((f.resends < 3 ∨ f.sent < q.acked) → ∃ t x, exec (.cueFlitResend die slot) s = .next t ∧ lookup t.dies[die].streams slot = some x ∧
        { f with sent := s.clock, resends := f.resends + 1 } ∈ x.flits ∧ x.state = q.state) ∧
      (3 ≤ f.resends → q.acked ≤ f.sent → ∃ t x, exec (.cueFlitResend die slot) s = .next t ∧ lookup t.dies[die].streams slot = some x ∧ x.state = .lost)) ∧
    ((∀ f ∈ q.flits, s.clock < f.sent + 94000) → exec (.cueFlitResend die slot) s = .next s))

/-- WAITP answers once the queue has packets beyond the fetch count, or the word in memory meets its test, and goes on at
the next word; until then nothing happens; an unaligned address traps with cause 4, one where nothing answers with
cause 5 (R331; log 55). A walk that finds a leaf enters it in the core's and the troupe's cache, and one that faults
changes nothing (R234). A GO from M mode or the physical function starts a shootdown or waits behind the running one; a domain's GO for another
tag or for all is refused, and a virtual function's for a tag of another partition (R237); a function's for a gated or waking cluster is
held, and wakes a gated one (R351). A shootdown completes once the
buffered stores of the cluster have left and no engine job of the tag that has begun is unfinished, and removes the
translations it covers (R235). [R234, R235, R237, R330, R331, R351] -/
def Obligations.WaitpAndTranslation : Prop :=
  (∀ (rd rs1 rs2 : Fin 32) (s : State), let n := s.host.cmdq[s.turn.hart].tail - s.hart.count
    let a := s.x rs1
    let goes (t : State) (v : Word) : Prop := t.hart.pc = s.hart.pc + 4 ∧ (rd ≠ 0 → t.x rd = v) ∧ (∀ r, r ≠ rd → t.x r = s.x r) ∧ t.mem = s.mem
    let traps (i : Instr) (c : Word) : Prop := ∃ t, exec i s = .next t ∧ t.hart.mcause = c ∧ t.hart.mepc = s.hart.pc ∧ t.hart.mtval = a ∧
      t.hart.pc = s.hart.mtvec &&& ~~~3#64 ∧ t.hart.x = s.hart.x
    (n ≠ 0 → ∃ t, exec (.waitpQ rd) s = .next t ∧ goes t (n.setWidth 64)) ∧
    (n = 0 → exec (.waitpQ rd) s = .next s) ∧
    (a.toNat % 8 ≠ 0 → traps (.waitpGeu rd rs1 rs2) 4 ∧ traps (.waitpNe rd rs1 rs2) 4) ∧
    (a.toNat % 8 = 0 → s.hartRead a.toNat 8 = none → traps (.waitpGeu rd rs1 rs2) 5 ∧ traps (.waitpNe rd rs1 rs2) 5) ∧
    (a.toNat % 8 = 0 → a.toNat + 8 ≤ 0x80000 → let v := leWord (s.dies[s.turn.hartDie].sram.readN a.toNat 8)
      ((s.x rs2).toNat ≤ v.toNat → ∃ t, exec (.waitpGeu rd rs1 rs2) s = .next t ∧ goes t v) ∧
      (v.toNat < (s.x rs2).toNat → exec (.waitpGeu rd rs1 rs2) s = .next s) ∧
      (v ≠ s.x rs2 → ∃ t, exec (.waitpNe rd rs1 rs2) s = .next t ∧ goes t v) ∧
      (v = s.x rs2 → exec (.waitpNe rd rs1 rs2) s = .next s))) ∧
  (∀ (c : CoreId) (tag : Tag) (va : Nat) (s : State),
    (∀ l es, va < 0x100000000000000 → s.walkAll c tag va = .ok (l, es) → ∃ t, exec (.pageWalk c tag va) s = .next t ∧
      (∃ x ∈ (t.core c).tlb, x.tag = tag ∧ x.va = va / l.size * l.size ∧ x.size = l.size ∧ x.pa = l.pa ∧ x.r = l.r ∧ x.w = l.w ∧ x.x = l.x) ∧
      (t.core c).tlb.length ≤ 32 ∧ (t.troupe (troupeOf c)).tlb.length ≤ 512 ∧ (∃ x ∈ (t.troupe (troupeOf c)).tlb, x.tag = tag ∧ x.pa = l.pa) ∧ t.mem = s.mem) ∧
    (∀ e, s.walkAll c tag va = .error e → exec (.pageWalk c tag va) s = .next s)) ∧
  (∀ (cl : ClusterId) (w : Word) (s : State), let x := s.cluster cl
    let q : Shootdown := { va := x.shva.toNat <<< 16, tag := w.setWidth 16, all := bit w 16 }
    (bit w 17 = true → x.running = none → ∃ t, exec (.shootdownGo cl .monitor w) s = .next t ∧ (t.cluster cl).running = some q) ∧
    (∀ r, bit w 17 = true → x.running = some r → ∃ t, exec (.shootdownGo cl .monitor w) s = .next t ∧ (t.cluster cl).running = some r ∧
      (t.cluster cl).waiting = x.waiting ++ [q]) ∧
    (∀ tag : Tag, bit w 17 = true → tag = w.setWidth 16 → bit w 16 = false → x.running = none →
      ∃ t, exec (.shootdownGo cl (.thread tag) w) s = .next t ∧ (t.cluster cl).running = some q) ∧
    (∀ tag : Tag, bit w 17 = true → (tag ≠ w.setWidth 16 ∨ bit w 16 = true) → ∃ t, exec (.shootdownGo cl (.thread tag) w) s = .next t ∧
      (t.cluster cl).refused = true ∧ (t.cluster cl).running = x.running) ∧
    (∀ f : FuncId, x.gated = true ∨ x.waking = true → ∃ t, exec (.shootdownGo cl (.host f) w) s = .next t ∧ (t.cluster cl).running = x.running ∧
      (t.cluster cl).held = x.held ++ [(f, 16, w)] ∧ (t.cluster cl).gated = false ∧ (t.cluster cl).waking = true) ∧
    (∀ f : FuncId, bit w 17 = true → x.running = none → x.gated = false → x.waking = false → ∃ t, exec (.shootdownGo cl (.host f) w) s = .next t ∧
      ((f = 0 ∨ ∃ d, s.domain? (w.setWidth 16) = some d ∧ d.killed = false ∧ d.part.val + 1 = f.val) → (t.cluster cl).running = some q) ∧
      ((f ≠ 0 ∧ ∀ d, s.domain? (w.setWidth 16) = some d → d.killed = true ∨ d.part.val + 1 ≠ f.val) →
        (t.cluster cl).refused = true ∧ (t.cluster cl).running = none))) ∧
  (∀ (cl : ClusterId) (q : Shootdown) (s : State), (s.cluster cl).running = some q →
    (∀ c k, clusterOf c = cl → (s.ctx c (bank k)).storeBuf = []) → (∀ y, troupeCluster y = cl → (s.troupe y).begun (some q.tag) = false) →
    ∃ t, exec (.shootdownComplete cl) s = .next t ∧
      (t.cluster cl).running = (s.cluster cl).waiting.head? ∧ (t.cluster cl).waiting = (s.cluster cl).waiting.drop 1 ∧
      ∀ c, clusterOf c = cl → ∀ x ∈ (t.core c).tlb, ¬(x.tag = q.tag ∧ (q.all = true ∨ q.va / x.size * x.size = x.va))) ∧
  (∀ (cl : ClusterId) (q : Shootdown) (y : TroupeId) (s : State), (s.cluster cl).running = some q → troupeCluster y = cl →
    (s.troupe y).begun (some q.tag) = true → exec (.shootdownComplete cl) s = .next s)

/-- A queued matrix job whose handle is FULL under its tag, or that names none, starts: its handle drains, and an inactive
troupe requests admission; a pair that does not serve it retires it with ERR 4 (R163, R167, R194, R346). The running
job of an active troupe commits its row group to the tile once its issue clocks have passed and no MLSF accepted before it
waits for the tile's flags, counts it and raises its flags (R165; that later entries wait for an MLSF's result is log 26); the eighth retires it with
its status, its handle FREE and its completion to the issuing core (R159, R160, R162, R167); a second residue mismatch
retires it with ERR 3 (R168). MZERO clears its tile and flags, MTBL installs its pair, MST writes its rows and
reports the flags of the rows converted, also where it fails (R164, R170, R172). A completion that came back is sent again
once its 256 clocks have passed (R160). A row group is one step (log 37). [R159, R160, R162,
R163, R164, R165, R167, R168, R170, R172, R194, R346] -/
def Obligations.EngineSteps : Prop :=
  (∀ (q : TroupeId) (x : MatEntry) rest k d alw gw gb (s : State), let tr := s.troupe q
    s.host.railFault = false → tr.mat = x :: rest → x.work = .mma k d alw gw gb →
    let ready : Prop := ∀ h, d.handle = some h → tr.handles[h].state = .full ∧ tr.handles[h].tag = x.owner.tag
    let serves : Prop := k = .hh ∨ (tr.pairs[d.pair].a.valid = true ∧ tr.pairs[d.pair].b.valid = true ∧ tr.pairs[d.pair].tag = x.owner.tag ∧
      tr.pairs[d.pair].a.w4 = decide (k = .nn) ∧ tr.pairs[d.pair].b.w4 = decide (k = .nn))
    let done (t : State) (err : Nat) : Prop := (t.troupe q).mat = rest ∧ ∃ y l, (t.troupe q).matDone = y :: l ∧ y.seq = x.seq ∧
      y.owner = x.owner ∧ fld y.status 0 4 = 3 ∧ fld y.status 4 4 = err ∧ (∀ h, d.handle = some h → (t.troupe q).handles[h].state = .free)
    (x.phase = .queued →
      (ready → serves → ∃ t, exec (.matrixJobStart q) s = .next t ∧ (t.troupe q).mat = { x with phase := .running, left := groupClocks k d.k } :: rest ∧
        (tr.active = false → (t.troupe q).request.isSome = true) ∧
        ∀ h, d.handle = some h → (t.troupe q).handles[h] = { state := .draining, held := true, tag := x.owner.tag }) ∧
      (ready → ¬ serves → ∃ t, exec (.matrixJobStart q) s = .next t ∧ done t 4) ∧
      (¬ ready → exec (.matrixJobStart q) s = .next s)) ∧
    (x.phase = .running → tr.active = false → ∃ t, exec (.rowGroupCommit q 0) s = .next t ∧ (t.troupe q).request.isSome = true ∧
      (t.troupe q).mat = tr.mat) ∧
    (x.phase = .running → tr.active = true → (x.left ≠ 0 ∨ s.flagsRead q x = true) → ∀ n, exec (.rowGroupCommit q n) s = .next s) ∧
    (∀ s1 g, x.phase = .running → tr.active = true → x.left = 0 → s.flagsRead q x = false → s.runGroup q x k d alw = (s1, .ok g) →
      (x.rg < 7 → (s1.troupe q).acc.wf = true → g.accs.length = 512 → ∃ t, exec (.rowGroupCommit q 0) s = .next t ∧
        (t.troupe q).mat = { x with rg := x.rg + 1, flags := x.flags ||| g.flags, lsnew := x.lsnew || g.lost.any id, left := groupClocks k d.k } :: (s1.troupe q).mat.drop 1 ∧
        (∀ i < 512, leNat ((t.troupe q).acc.readN (16384 * d.tile.val + 2048 * x.rg + 4 * i) 4) = g.accs.getD i 0 % 0x100000000)) ∧
      (x.rg = 7 → (s1.troupe q).mat = tr.mat → ∃ t, exec (.rowGroupCommit q 0) s = .next t ∧ done t 0 ∧
        (d.notify = true → ∃ m, t.net = s1.net ++ [.message none m] ∧ m.dest = (BitVec.ofNat 13 x.owner.core.val ++ d.chan : BitVec 19) ∧
          m.region = x.owner.region ∧ m.payload.headD 0 = jobId x.owner x.seq false)) ∧
      ((s1.troupe q).mat = tr.mat → ∃ t, exec (.rowGroupCommit q 2) s = .next t ∧ done t 3 ∧ t.mem = s1.mem ∧ (t.troupe q).acc = (s1.troupe q).acc))) ∧
  (∀ (q : TroupeId) (x : MatEntry) rest (s : State), s.host.railFault = false → (s.troupe q).mat = x :: rest →
    (∀ tile : Fin 16, x.work = .zero tile → s.flagsRead q x = false → ∃ t, exec (.mzeroEntryRun q) s = .next t ∧ (t.troupe q).mat = rest ∧
      (t.troupe q).flags[tile] = 0 ∧ (t.troupe q).matDone = (s.troupe q).matDone ∧
      (∀ i < 16384, (t.troupe q).acc.read (16384 * tile.val + i) = 0) ∧
      (∀ a, (a < 16384 * tile.val ∨ 16384 * tile.val + 16384 ≤ a) → (t.troupe q).acc.read a = (s.troupe q).acc.read a)) ∧
    (∀ i p, x.work = .table i p → ∃ t, exec (.mtblEntryRun q) s = .next t ∧ (t.troupe q).mat = rest ∧ (t.troupe q).pairs[i] = p) ∧
    (∀ (d : StDesc) s1 fl n, x.work = .st d → x.phase ≠ .suspended → s.runSt q x d = (s1, fl, .error (.err n)) → (s1.troupe q).mat = (s.troupe q).mat →
      ∃ t y l, exec (.mstEntryRun q) s = .next t ∧ (t.troupe q).mat = rest ∧ (t.troupe q).matDone = y :: l ∧ y.seq = x.seq ∧
        (n < 16 → fld y.status 4 4 = n) ∧ fld y.status 12 5 = fl.toNat) ∧
    (∀ (d : StDesc) s1 fl, x.work = .st d → x.phase ≠ .suspended → s.runSt q x d = (s1, fl, .ok ()) → (s1.troupe q).mat = (s.troupe q).mat →
      ∃ t y l, exec (.mstEntryRun q) s = .next t ∧ (t.troupe q).mat = rest ∧ t.mem = s1.mem ∧ (∀ c, (t.core c).scratch = (s1.core c).scratch) ∧
        (t.troupe q).matDone = y :: l ∧ y.seq = x.seq ∧ fld y.status 0 4 = 3 ∧ fld y.status 4 4 = 0 ∧ fld y.status 8 4 = 8 ∧ fld y.status 12 5 = fl.toNat) ∧
    (∀ (d : StDesc) (o : Nat), d.count = 1 → d.fmt = 0 → d.dst.toNat = 0xFFF8000000000000 + o → o % 64 = 0 → o + 256 ≤ 0x1F800 →
      poisonedIn (s.troupe q).accPoison (16384 * d.tile.val + 256 * d.first) 256 = none → (s.core x.owner.core).scratch.wf = true →
      ∃ s1, s.runSt q x d = (s1, x.flags, .ok ()) ∧ ∀ i < 256, (s1.core x.owner.core).scratch.read (o + i) =
        (s.troupe q).acc.read (16384 * d.tile.val + 256 * d.first + i))) ∧
  (∀ (q : TroupeId) (m : Message) l n r (s : State), (s.troupe q).completions = l ++ (n, m) :: r → (∀ y ∈ l, s.clock < y.1) → n ≤ s.clock →
    ∃ t, exec (.completionRetry q) s = .next t ∧ (t.troupe q).completions = l ++ r ∧ t.net = s.net ++ [.message none m]) ∧
  (∀ (q : TroupeId) (s : State), (∀ y ∈ (s.troupe q).completions, s.clock < y.1) → exec (.completionRetry q) s = .next s)

/-- A queued copy whose handle is FREE, or that names none, starts and fills it; a running copy writes its rows and
retires with its handle FULL and its completion; where the host link aborts, one with a host side retires with ERR 3
(R190, R192). A running job that meets a translation fault is suspended and its region's fault service told; with no
service it retires with ERR 1 at once (R238). The walk is repeated every 1,024 clocks and a leaf that permits the
access resumes the job, a refused notice goes again after 256; after 1,048,576 clocks it retires with ERR 1 (R239). The copy unit fetches at most four strips
ahead of a stream (R149). A copy is one step (log 37). [R149, R159, R160, R190, R192, R238, R239] -/
def Obligations.EngineFaultsAndCopies : Prop :=
  (∀ (q : TroupeId) (x : CopyEntry) rest (s : State), let tr := s.troupe q
    s.host.railFault = false → tr.copies = x :: rest →
    let ready : Prop := ∀ h, x.desc.handle = some h → tr.handles[h].state = .free
    let done (t : State) (err : Nat) (rows : Nat) : Prop := (t.troupe q).copies = rest ∧ ∃ y l, (t.troupe q).copyDone = y :: l ∧
      y.seq = x.seq ∧ y.owner = x.owner ∧ y.status = at' 3 0 ||| at' err 4 ||| at' rows 8 ∧
      (∀ h, x.desc.handle = some h → (t.troupe q).handles[h].state = if err = 0 then .full else .free)
    (x.phase = .queued → (ready → ∃ t, exec (.copyJobStart q) s = .next t ∧ (t.troupe q).copies = { x with phase := .running } :: rest ∧
        ∀ h, x.desc.handle = some h → (t.troupe q).handles[h] = { state := .filling, held := true, tag := x.owner.tag }) ∧
      (¬ ready → exec (.copyJobStart q) s = .next s)) ∧
    (x.phase = .running →
      (∀ s1 n, s.runCopy x.owner x.desc x.rows = (s1, n, .ok ()) → (s1.troupe q).copies = tr.copies →
        ∃ t, exec (.copyJobRetire q .ok) s = .next t ∧ done t 0 n ∧ t.mem = s1.mem ∧ (∀ c, (t.core c).scratch = (s1.core c).scratch) ∧
          (x.desc.notify = true → ∃ m, t.net = s1.net ++ [.message none m] ∧
            m.dest = (BitVec.ofNat 13 x.owner.core.val ++ x.desc.chan : BitVec 19) ∧ m.payload.headD 0 = jobId x.owner x.seq true)) ∧
      ((x.desc.sspace = 4 ∨ x.desc.dspace = 4) → ∃ t, exec (.copyJobRetire q .abort) s = .next t ∧ done t 3 x.rows ∧ t.mem = s.mem) ∧
      (x.rows = 0 → x.desc.rows = 1 → x.desc.sspace = 1 → x.desc.dspace = 1 → x.desc.src.toNat + x.desc.rowBytes ≤ 0x1F800 →
        x.desc.dst.toNat + x.desc.rowBytes ≤ 0x1F800 → 1 ≤ x.desc.rowBytes →
        poisonedIn (s.core x.owner.core).scratchPoison x.desc.src.toNat x.desc.rowBytes = none → (s.core x.owner.core).scratch.wf = true →
        ∃ s1, s.runCopy x.owner x.desc 0 = (s1, 1, .ok ()) ∧ ∀ i < x.desc.rowBytes,
          (s1.core x.owner.core).scratch.read (x.desc.dst.toNat + i) = (s.core x.owner.core).scratch.read (x.desc.src.toNat + i)))) ∧
  (∀ (q : TroupeId) (x : MatEntry) rest k d alw gw gb s1 va w (code : BitVec 2) (s : State), s.host.railFault = false →
    (s.troupe q).mat = x :: rest → (s1.troupe q).mat = x :: rest →
    x.work = .mma k d alw gw gb → x.phase = .running → s.jobFault q true = none → s.runGroup q x k d alw = (s1, .error (.fault va w code)) →
    (∀ a, s1.regionFsvc x.owner.region = some a → ∃ t m, exec (.enginePageFault q false) s = .next t ∧
      (t.troupe q).mat = { x with phase := .suspended, fault := some { va := va, write := w, code := code, since := s1.clock, noticed := true, again := 0, walked := s1.clock } } :: rest ∧
      t.net = s1.net ++ [.message none m] ∧ m.dest = a ∧ m.region = x.owner.region ∧ m.payload =
        [jobId x.owner x.seq false, BitVec.ofNat 64 va, atB w 0 ||| at' code.toNat 2, (coreAddr x.owner.core.val).setWidth 64 ||| at' x.owner.region.toNat 32]) ∧
    (s1.regionFsvc x.owner.region = none → ∃ t y l, exec (.enginePageFault q false) s = .next t ∧ (t.troupe q).mat = rest ∧
      (t.troupe q).matDone = y :: l ∧ y.seq = x.seq ∧ fld y.status 4 4 = 1)) ∧
  (∀ (q : TroupeId) (copy : Bool) o id (f : JobFault) (s : State), s.jobFault q copy = some (o, id, f) →
    (s.clock < f.walked + 1024 → exec (.faultRewalk q copy) s = .next s) ∧
    (∀ n, f.walked + 1024 ≤ s.clock → s.walk o.core o.tag f.va = .error (.code n) → ∃ t, exec (.faultRewalk q copy) s = .next t ∧
      t.jobFault q copy = some (o, id, { f with walked := s.clock })) ∧
    (∀ l, f.walked + 1024 ≤ s.clock → s.walk o.core o.tag f.va = .ok l → (if f.write then l.w else l.r) = true →
      ∃ t, exec (.faultRewalk q copy) s = .next t ∧ t.jobFault q copy = none ∧
        (copy = false → ∃ x r, (t.troupe q).mat = x :: r ∧ x.phase = .running ∧ x.owner = o) ∧
        (copy = true → ∃ x r, (t.troupe q).copies = x :: r ∧ x.phase = .running ∧ x.owner = o)) ∧
    (s.clock < f.since + 1048576 → exec (.faultTimeout q copy) s = .next s) ∧
    (f.since + 1048576 ≤ s.clock → ∃ t, exec (.faultTimeout q copy) s = .next t ∧
      (copy = false → (t.troupe q).mat = (s.troupe q).mat.drop 1) ∧
      (copy = true → (t.troupe q).copies = (s.troupe q).copies.drop 1 ∧ ∃ y l, (t.troupe q).copyDone = y :: l ∧ fld y.status 4 4 = 1)) ∧
    ((f.noticed = true ∨ s.clock < f.again) → exec (.faultNoticeRetry q copy) s = .next s) ∧
    (∀ a, f.noticed = false → f.again ≤ s.clock → s.regionFsvc o.region = some a → ∃ t m, exec (.faultNoticeRetry q copy) s = .next t ∧
      t.jobFault q copy = some (o, id, { f with noticed := true }) ∧ t.net = s.net ++ [.message none m] ∧ m.dest = a ∧
      m.payload.headD 0 = id)) ∧
  (∀ (c : CoreId) (k : CtxId) (reg : Fin 4) (s : State), let x := s.ctx c (bank k)
    let st := x.regs.streams[reg]
    let here : State := { s with turn := { s.turn with core := c, ctx := bank k } }
    ((st.on = false ∨ 4 ≤ st.ahead.length ∨ st.total ≤ st.popped + st.ahead.length) → exec (.streamStripFetch c k reg) s = .next s) ∧
    (∀ s1 strip, s.host.railFault = false → st.on = true → x.state ≠ .dormant → x.state ≠ .saved → st.ahead.length < 4 →
      st.popped + st.ahead.length < st.total → here.fetchStrip st (st.popped + st.ahead.length) = .ok (s1, strip) →
      ∃ t, exec (.streamStripFetch c k reg) s = .next t ∧ t.turn = s.turn ∧
        (t.ctx c (bank k)).regs.streams[reg] = { st with ahead := st.ahead ++ [strip] }))

/-- A doorbell sets TAIL and a run bit starts the queue (R319). A running queue with packets left has each idle die read
its next packet; a packet whose address the function does not reach stops the queue with reason 4, a poisoned one with
1, an unassigned opcode with 2, a reserved bit with 3; a skipped packet is passed (R320, R322, R324). A HEAD write
lets held records leave while there is room (R328). A due vector sends its interrupt and clears PENDING, a masked one
does not (R329; which bit masks it is the model's, log 116). A host write to device DRAM by the physical function stands
there, one without a window is discarded, and a read without one is answered with the poison indication (R317, R318).
Register writes change the register they name (R319, R328, R329); no host write changes DRBASE (R237). [R237, R317, R318, R319, R320, R322, R324, R328, R329] -/
def Obligations.QueuesAndPackets : Prop :=
  (∀ (q : QueueId) (n : BitVec 32) (s : State), (∃ t, exec (.queueDoorbell q n) s = .next t ∧ t.host.cmdq[q] = { s.host.cmdq[q] with tail := n }) ∧
    (∃ t, exec (.queueRun q) s = .next t ∧ t.host.cmdq[q] = { s.host.cmdq[q] with run := true, stopped := false, reason := 0 })) ∧
  (∀ (d : DieId) (q : QueueId) (s : State), let x := s.host.cmdq[q]
    let h := s.thread d q
    let a := x.base + BitVec.ofNat 64 (128 * (h.count.toNat % 2 ^ x.log2n.toNat))
    let runs : Prop := s.host.boot.stage = 5 ∧ s.host.railFault = false ∧ x.run = true ∧ x.stopped = false ∧ h.count ≠ x.tail ∧ h.state = .idle
    let stops (r : BitVec 4) : Prop := ∃ t, exec (.packetFetch d q) s = .next t ∧ t.host.cmdq[q] =
      { x with run := false, stopped := true, reason := r } ∧ t.thread d q = h
    (¬ runs → exec (.packetFetch d q) s = .next s) ∧
    (runs → 0 < h.skip → ∃ t, exec (.packetFetch d q) s = .next t ∧ t.thread d q = { h with count := h.count + 1, skip := h.skip - 1 }) ∧
    (runs → h.skip = 0 → s.extPa x.func a 128 .load = none → stops 4) ∧
    (∀ pa, runs → h.skip = 0 → (∀ c, (s.core c).einjArm = false) → s.extPa x.func a 128 .load = some pa → poisonedIn s.poison pa 128 ≠ none →
      stops 1) ∧
    (∀ pa (p : Packet), runs → h.skip = 0 → (∀ c, (s.core c).einjArm = false) → s.extPa x.func a 128 .load = some pa → poisonedIn s.poison pa 128 = none →
      p.addr = a.toNat → p.seq = h.count → (∀ i : Fin 16, p.slots[i] = (slotsOf (s.readPlace (.phys pa) none 128) 16).getD i.val 0) →
      (p.fault = none → ∃ t, exec (.packetFetch d q) s = .next t ∧ t.thread d q = { h with count := h.count + 1, state := .fetched p }) ∧
      ((p.opc = 0 ∨ 0x12 < p.opc) → stops 2) ∧
      (1 ≤ p.opc → p.opc ≤ 0x12 → (p.slots[15] ≠ 0 ∨ 0x200 ≤ p.slots[0].toNat) → stops 3))) ∧
  (∀ (q : QueueId) (head : BitVec 32) (s : State), (∀ d : DieId, s.dies[d].posts = []) →
    ∃ t, exec (.completionHeadWrite q head) s = .next t ∧ t.host.cplq[q] = { s.host.cplq[q] with head := head } ∧ t.mem = s.mem) ∧
  (∀ (q : QueueId) (head : BitVec 32) (d : DieId) (p : Post) (s : State), s.dies[d].posts = [p] → (∀ e : DieId, e ≠ d → s.dies[e].posts = []) →
    p.queue = q → s.host.cplq[q].en = true → (s.host.cplq[q].tail - head).toNat < 2 ^ s.host.cplq[q].log2n.toNat →
    ∃ t, exec (.completionHeadWrite q head) s = .next t ∧ t.dies[d].posts = [] ∧ t.host.cplq[q].tail = s.host.cplq[q].tail + 1) ∧
  (∀ (f : FuncId) (v : Fin 64) (s : State), let x := s.vector f v
    let due (m : Bool) : Prop := m = false ∧ 0 < x.pending ∧ (x.count ≤ x.pending ∨ ∃ c, x.since = some c ∧ c + 940 * x.holdoff ≤ s.clock)
    (due x.masked → ∃ t, exec (.vectorFire f v) s = .next t ∧ (t.vector f v).pending = 0 ∧ t.host.msix = s.host.msix ++ [(f, v)]) ∧
    (¬ due x.masked → exec (.vectorFire f v) s = .next s) ∧
    (∃ t, exec (.vectorUnmask f v) s = .next t ∧ (t.vector f v).masked = false ∧
      (due false → t.host.msix = s.host.msix ++ [(f, v)]) ∧ (¬ due false → t.host.msix = s.host.msix ∧ (t.vector f v).pending = x.pending))) ∧
  (∀ (f : FuncId) (pa len : Nat) (bs : List Byte) (s : State),
    (s.mem.wf = true → bs ≠ [] → pa + bs.length ≤ 0xC000000000 → s.keyStands pa bs.length none →
      ∃ t, exec (.hostMemAccess 0 pa (some bs) len) s = .next t ∧ Stored s.byteAt t.byteAt (.phys pa) bs) ∧
    (0xC000000000 ≤ pa → exec (.hostMemAccess f pa (some bs) len) s = .next s ∧ exec (.hostMemAccess f pa none len) s = .next s) ∧
    (pa + bs.length ≤ 0xC000000000 → bs ≠ [] → f ≠ 0 → s.domains = [] → exec (.hostMemAccess f pa (some bs) len) s = .next s) ∧
    (pa + len ≤ 0xC000000000 → 0 < len → (f = 0 → ∀ c, (s.core c).einjArm = false) → (f ≠ 0 → s.domains = []) →
      ∃ t r, exec (.hostMemAccess f pa none len) s = .next t ∧ t.host.reads = s.host.reads ++ [r] ∧ t.mem = s.mem ∧ r.fn = f ∧ r.pa = pa ∧
        r.data.length = len ∧ (r.poison = true ↔ (f ≠ 0 ∨ poisonedIn s.poison pa len ≠ none)) ∧
        (r.poison = false → r.data = s.readPlace (.phys pa) none len))) ∧
  (∀ (q : QueueId) (w : Word) (s : State), let f := s.host.cmdq[q].func
    (∃ t, exec (.registerWrite (.bar f (0x1000 + 64 * q.val)) w) s = .next t ∧ t.host.cmdq[q] = { s.host.cmdq[q] with base := w &&& ~~~127#64 }) ∧
    (∃ t, exec (.registerWrite (.bar f (0x1000 + 64 * q.val + 0x10)) w) s = .next t ∧ t.host.cmdq[q] = { s.host.cmdq[q] with tail := w.setWidth 32 }) ∧
    (∀ g, g ≠ f → exec (.registerWrite (.bar g (0x1000 + 64 * q.val)) w) s = .next s) ∧
    (∀ (g : FuncId), g.val = fld w 0 6 → s.host.cmdq[q].run = false → ∃ t, exec (.registerWrite (.bar 0 (0x800 + 8 * q.val)) w) s = .next t ∧
      t.host.cmdq[q].func = g) ∧
    (∃ t, exec (.registerWrite (.bar 0 0x108) w) s = .next t ∧ t.host.boot.addr = w) ∧
    (∀ g, ∃ t, exec (.registerWrite (.dev (some g) 0x20000000000) w) s = .next t ∧ (t.cluster 0).drbase = (s.cluster 0).drbase) ∧
    (∀ g v, ∃ t, exec (.registerWrite (.msix g v) w) s = .next t ∧ (t.vector g v).masked = bit w 0 ∧
      (bit w 0 = true → t.host.msix = s.host.msix)))

/-- A die that ends its part writes the status word where one is named, counts the part, and the fourth part completes the
command (R321). COND skips where its test fails and records its decision; WAIT polls until its test holds (R324,
R325). A FENCE or SIGNAL adds 1 to the decision once the die's earlier shares are done, and completes at 4; the die
that sets bit 63 of a SIGNAL adds the operand (R325). A decided LAUNCH seeds the die's cores with their ranks and
opens a share; refused messages go out again when they are due; an empty share completes once no store of its
activations is buffered (R249, R256, R258, R259, R260). A die that does not hold the epoch of the decision waits
(R259). COPY_HOST moves a block between host memory and the domain, and is suspended by a translation fault, with its
notice where the region names a fault service (R326). [R249, R256, R258, R259, R260, R321, R322, R324, R325, R326] -/
def Obligations.QueueCommands : Prop :=
  (∀ (d : DieId) (q : QueueId) (p : Packet) (st : CmdStatus) (r : Nat) (s : State), let n := (lookup s.host.cmdq[q].done p.seq.toNat).getD 0
    p.slots[2] = 0 → ((s.endPart d q p st r).thread d q).state = .idle ∧
      lookup (s.endPart d q p st r).host.cmdq[q].done p.seq.toNat = (if n = 3 then none else some (n + 1)) ∧
      (∀ pa, s.extPa (s.fnOf q) p.slots[14] 8 .store = some pa → p.slots[14] ≠ 0 → homeOf pa ≠ .dev → s.mem.wf = true →
        (s.endPart d q p st r).slot pa 0 = BitVec.ofNat 64 (st.code + 256 * r))) ∧
  (∀ (d : DieId) (q : QueueId) (p : Packet) (s : State), s.host.boot.stage = 5 → s.host.railFault = false → (∀ c, (s.core c).einjArm = false) →
    let fn := s.fnOf q
    ((s.thread d q).state = .fetched p →
      (∀ c w x s1, p.opc = 2 → waitCond (fld (p.sl 5) 0 3) = some c → s.extWord fn p.decision = some w → bit w 63 = false →
        s.extWord fn (p.sl 3) = some x → Cond.test c x (p.sl 4) = false →
        s.extWrite fn p.decision (leBytes 8 0x8000000000000000) = some s1 → ∃ t, exec (.cond d q) s = .next t ∧
          (t.thread d q).state = .idle ∧ (t.thread d q).skip = fld (p.sl 5) 8 16) ∧
      (∀ w, p.opc = 2 → fld (p.sl 5) 0 3 ≤ 5 → s.extWord fn p.decision = some w → bit w 63 = true → ∃ t, exec (.cond d q) s = .next t ∧
        (t.thread d q).state = .idle ∧ (t.thread d q).skip = if bit w 0 then 0 else fld (p.sl 5) 8 16) ∧
      (p.opc = 3 → fld (p.sl 5) 0 3 ≤ 5 → ∃ t, exec (.wait d q) s = .next t ∧ (t.thread d q).state = .polling p ∧ t.mem = s.mem) ∧
      (∀ i w s1, ((p.opc = 4 ∧ i = .signal d q) ∨ (p.opc = 5 ∧ i = .queueFence d q)) →
        (s.sharesDone d q = false → ∃ t, exec i s = .next t ∧ (t.thread d q).state = .fencing p false ∧ t.mem = s.mem) ∧
        (s.sharesDone d q = true → s.extWord fn p.decision = some w → s.extWrite fn p.decision (leBytes 8 (w + 1).toNat) = some s1 →
          ∃ t, exec i s = .next t ∧ (t.thread d q).state = .fencing p true ∧ t.mem = s1.mem))) ∧
    ((s.thread d q).state = .polling p → ∀ x c, s.extWord fn (p.sl 3) = some x → waitCond (fld (p.sl 5) 0 3) = some c →
      (Cond.test c x (p.sl 4) = true → exec (.waitConditionMet d q) s = .next (s.endPart d q p .ok 0)) ∧
      (Cond.test c x (p.sl 4) = false → exec (.waitConditionMet d q) s = .next s)) ∧
    ((s.thread d q).state = .fencing p true → ∀ w, s.extWord fn p.decision = some w →
      (fld w 0 3 ≠ 4 → exec (.queueFenceComplete d q) s = .next s) ∧
      (fld w 0 3 = 4 → p.opc = 5 → exec (.queueFenceComplete d q) s = .next (s.endPart d q p .ok 0)) ∧
      (∀ s1 x s2, fld w 0 3 = 4 → p.opc = 4 → bit w 63 = false → Quiet p →
        (s.setThread d q .idle).extWrite fn p.decision (leBytes 8 (w ||| 0x8000000000000000).toNat) = some s1 → (∀ c, (s1.core c).einjArm = false) →
        s1.extWord fn (p.sl 3) = some x → s1.extWrite fn (p.sl 3) (leBytes 8 (x + p.sl 4).toNat) = some s2 →
        exec (.queueFenceComplete d q) s = .next s2))) ∧
  (∀ (d : DieId) (q : QueueId) (p : Packet) (w : Word) (e : Nat × List Nat) (b : List Word) (s s1 : State), s.host.boot.stage = 5 →
    s.host.railFault = false → (∀ c, (s.core c).einjArm = false) → (s.thread d q).state = .fetched p → p.opc = 1 → fld (p.sl 3) 32 4 ≤ 8 → s.regionPa p.region ≠ none →
    foreign (s.fnOf q) (s.regionPart p.region) = false → s.extWord (s.fnOf q) p.decision = some w → bit w 63 = true →
    let tag := s.regionTag p.region
    let all := s1.targets (s1.regionPart p.region) (p.sl 10) e.2
    let mine := all.filter (fun c => dieOf c = d)
    (bit w 61 = true → exec (.launch d q) s = .next (s.endPart d q p .refused 0)) ∧
    (bit w 61 = false → bit w 62 = true → exec (.launch d q) s = .next (s.endPart d q p .noMatch 0)) ∧
    (bit w 61 = false → bit w 62 = false → (∀ e ∈ s.dies[d].epochs, e.1 % 65536 ≠ fld w 32 16) → exec (.launch d q) s = .next s) ∧
    (bit w 61 = false → bit w 62 = false → s.dies[d].epochs.find? (fun e => e.1 % 65536 = fld w 32 16) = some e →
      s.bucket tag (p.sl 8).toNat (fld w 0 16) = (s1, some b) →
      (mine = [] → exec (.launch d q) s = .next (s1.endPart d q p .ok 0)) ∧
      (mine ≠ [] → ∃ t i h l, exec (.launch d q) s = .next t ∧ (t.thread d q).state = .idle ∧ lookup t.dies[d].shares i = some h ∧
        h.left = mine.length ∧ h.region = p.region ∧ h.handler = (b.getD 8 0).setWidth 32 ∧ h.held = [] ∧
        t.net = s1.net ++ l ∧ l.length = mine.length ∧ ∀ f ∈ l, ∃ m rank c, f = .message none m ∧ all[rank]? = some c ∧ dieOf c = d ∧
          m.core = c ∧ m.region = p.region ∧ m.tag = tag ∧ m.payload = [BitVec.ofNat 64 rank, BitVec.ofNat 64 all.length, p.sl 9, at' p.seq.toNat 0 ||| at' q.val 32]))) ∧
  (∀ (d : DieId) (p : Packet) (s : State), let w := (s.launchDecision d p).2
    (s.partitions[s.regionPart p.region].state ≠ .run → bit w 63 = true ∧ bit w 61 = true) ∧
    (s.partitions[s.regionPart p.region].state = .run → (s.chooseBucket (s.regionTag p.region) p).2 = none → bit w 63 = true ∧
      bit w 62 = true ∧ bit w 61 = false)) ∧
  (∀ (d : DieId) (i : Nat) (h : LaunchShare) (s : State), lookup s.dies[d].shares i = some h →
    let due (m : Nat × Message) : Bool := m.1 ≤ s.clock
    (∃ t, exec (.launchRetry d) s = .next t ∧ t.net = s.net ++ ((s.dies[d].shares.map (fun e => e.2.held.filter due)).flatten).map (fun m => .message none m.2) ∧
      lookup t.dies[d].shares i = some { h with held := h.held.filter (fun m => !due m) }) ∧
    let stores : Prop := ∃ e ∈ s.cores, ∃ k : Fin 9, ∃ st ∈ e.2.ctxs[k].storeBuf, st.launch = some (d, i)
    (h.left = 0 → h.held = [] → ¬ stores → ∃ t, exec (.launchShareComplete d i) s = .next t ∧ lookup t.dies[d].shares i = none) ∧
    ((h.left ≠ 0 ∨ h.held ≠ [] ∨ stores) → exec (.launchShareComplete d i) s = .next s)) ∧
  (∀ (d : DieId) (q : QueueId) (p : Packet) (s s1 : State), Performs s d q 6 p s1 → Quiet p →
    let r : BitVec 32 := (p.sl 5).setWidth 32
    let tag := s1.regionTag r
    let host := p.sl 3
    let va := (p.sl 4).toNat
    let n := (p.sl 6).toNat
    (s1.regionPa r = none → exec (.copyHost d q []) s = .next s1) ∧
    (∀ hp pa, s1.regionPa r ≠ none → foreign (s1.fnOf q) (s1.regionPart r) = false → bit host 63 = true → va % 64 = 0 → 0 < n → n ≤ 64 → p.sl 8 = 0 →
      (∀ c, (s1.core c).einjArm = false) → s1.mem.wf = true → hostPa host n = some hp →
      (bit (p.sl 7) 0 = false → poisonedIn s1.poison hp n = none → s1.domPlace tag va .store = (s1, .ok (pa, false)) → ∃ t,
        exec (.copyHost d q []) s = .next t ∧ ∀ i < n, t.mem.read (pa + i) = (s1.readPlace (.phys hp) none n).getD i 0) ∧
      (bit (p.sl 7) 0 = true → poisonedIn s1.poison pa n = none → s1.domPlace tag va .load = (s1, .ok (pa, false)) → ∃ t,
        exec (.copyHost d q []) s = .next t ∧ ∀ i < n, t.mem.read (hp + i) = (s1.readPlace (.phys pa) none n).getD i 0)) ∧
    (∀ code, s1.regionPa r ≠ none → foreign (s1.fnOf q) (s1.regionPart r) = false → bit host 63 = true → va % 64 = 0 → 0 < n → n ≤ 64 →
      s1.domPlace tag va (if bit (p.sl 7) 0 then .load else .store) = (s1, .error (.code code)) →
      (s1.regionFsvc r = none → exec (.copyHost d q []) s = .next s1) ∧
      (∀ a, s1.regionFsvc r = some a → ∃ t m, exec (.copyHost d q []) s = .next t ∧ t.mem = s1.mem ∧ t.net = s1.net ++ [.message none m] ∧
        m.dest = a ∧ ∃ j ∈ t.host.copies, j.packet = p ∧ j.queue = q ∧ j.fault.va = va ∧ j.fault.code = code ∧ j.fault.noticed = true)))

/-- REGION_CREATE checks its block and writes the fields the device gives (R261, R262, R322); REGION_KILL kills the fault
domain of the region (R34, R322). DOMAIN_CREATE makes a domain of the issuer's partition under a tag that is free,
MEASURE extends PMEAS (R293). LOCK writes a nonce and locks, START runs the partition where the nonce is given back
and else is refused and logged, ATTEST writes the report and counts it, TEARDOWN unlocks, kills the domains, drops the
keys and begins the scrub (R292, R294, R295). A scrub goes through its phases, and what it has passed reads 0; a
function-level reset starts it over and drops every key of the device (R295, R296); a rail fault holds the scrub (R335). PARTITION_SET belongs to the physical function (R323). That the
physical function has no partition of its own, that TEARDOWN completes when its scrub has begun, that OVR bit 1 with
WINLEN 0 is BADARG, and that the evidence is taken at DOMAIN_CREATE, with ATTEST counting before it reports, are the
model's (log 47, log 48, log 84, log 46). [R34, R261, R262, R292, R293, R294, R295, R296, R322, R323, R335] -/
def Obligations.RegionAndDomainCommands : Prop :=
  (∀ (d : DieId) (q : QueueId) (p : Packet) (s s1 : State), Performs s d q 7 p s1 → let fn := s1.fnOf q
    let pa := (p.sl 3).toNat
    let ends (st : CmdStatus) : Prop := exec (.regionCreate d q) s = .next (s1.endOne q p.slots st 0)
    let scrubs : Prop := ∃ o, partOfFunc fn = some o ∧ s1.partitions[o].scrubbing = true
    ((pa % 128 ≠ 0 ∨ homeOf pa ≠ .dram) → ends .badArg) ∧
    (pa % 128 = 0 → homeOf pa = .dram → scrubs → ends .refused) ∧
    (pa % 128 = 0 → homeOf pa = .dram → ¬ scrubs → (s1.extRead fn (p.sl 3) 128 = none ∨ s1.extPa fn (p.sl 3) 128 .store = none) → ends .fault) ∧
    (∀ bs, pa % 128 = 0 → homeOf pa = .dram → ¬ scrubs → s1.extRead fn (p.sl 3) 128 = some bs → s1.extPa fn (p.sl 3) 128 .store ≠ none →
      let b := slotsOf bs 16
      let part := blockPart b
      let live : Prop := ∃ n, s1.blockNumber pa = some n ∧ s1.regionLive (BitVec.ofNat 32 n) = true
      let mine : Prop := foreign fn part = false ∧ (blockOvr b 4 = true → foreign fn (s1.partOf ((b.getD 1 0).setWidth 16)) = false)
      let free : Prop := mine ∧ s1.partitions[part].scrubbing = false ∧ ¬ live
      (¬ free → ends .refused) ∧
      (free → blockOvr b 1 = true → fld (b.getD 3 0) 32 16 = 0 → ends .badArg) ∧
      (free → (blockOvr b 1 = true → fld (b.getD 3 0) 32 16 ≠ 0) → s1.blockLevel b = none → ends .refused) ∧
      (∀ level n, free → (blockOvr b 1 = true → fld (b.getD 3 0) 32 16 ≠ 0) → s1.blockLevel b = some level → n = s1.freshRegion →
        s1.mem.wf = true → s1.keyStands pa 128 none → ∃ e : State, exec (.regionCreate d q) s = .next (e.endOne q p.slots .ok n) ∧ lookup e.regions n = some pa ∧
          fld (e.slot pa 0) 0 32 = n % 4294967296 ∧ fld (e.slot pa 0) 36 2 = 1 ∧ fld (e.slot pa 0) 38 3 = level ∧
          fld (e.slot pa 0) 32 4 = fld (s1.slot pa 0) 32 4 ∧ fld (e.slot pa 0) 41 23 = fld (s1.slot pa 0) 41 23 ∧
          e.slot pa 6 = 0 ∧ e.slot pa 7 = 0 ∧ e.slot pa 8 = BitVec.ofNat 64 s1.clock ∧
          ∀ k ∈ [1, 2, 3, 4, 5, 9, 10, 11, 12, 13, 14, 15], e.slot pa k = s1.slot pa k))) ∧
  (∀ (b : List Word) (s : State), (∀ l, s.blockLevel b = some l → blockReserved b = false ∧ l ≤ 7 ∧
      ((b.getD 2 0) = 0 → l = 0 ∧ ∀ i ∈ [0, 1, 2, 3, 4], blockOvr b i = true) ∧
      ((b.getD 2 0) ≠ 0 → ∃ n, s.blockNumber (b.getD 2 0).toNat = some n ∧ fld (s.slot (b.getD 2 0).toNat 0) 36 2 = 1 ∧
        l = fld (s.slot (b.getD 2 0).toNat 0) 38 3 + 1 ∧ fld (s.slot (b.getD 2 0).toNat 0) 41 5 = (blockPart b).val))) ∧
  (∀ (d : DieId) (q : QueueId) (p : Packet) (s s1 : State), Performs s d q 8 p s1 → let fn := s1.fnOf q
    (s1.blockNumber (p.sl 3).toNat = none → exec (.regionKill d q) s = .next (s1.endOne q p.slots .badArg 0)) ∧
    (∀ n, s1.blockNumber (p.sl 3).toNat = some n →
      (foreign fn (s1.regionPart (BitVec.ofNat 32 n)) = true → exec (.regionKill d q) s = .next (s1.endOne q p.slots .refused 0)) ∧
      (foreign fn (s1.regionPart (BitVec.ofNat 32 n)) = false → exec (.regionKill d q) s =
        .next ((s1.killFaultDomain (BitVec.ofNat 32 n)).endOne q p.slots .ok 0)))) ∧
  (∀ (n pa : Nat) (s : State), n < 4294967296 → lookup s.regions n = some pa → s.cores = [] → s.frames = [] → s.mem.wf = true →
    (s.killRegions [n]).slot pa 0 = setFld (s.slot pa 0) 36 2 2) ∧
  (∀ (d : DieId) (q : QueueId) (p : Packet) (tag : Tag) (i : Instr) (s s1 : State), partOfFunc (s1.fnOf q) = none →
    ((i = .domainCreate d q tag ∧ s.tagFree tag = true ∧ Performs s d q 9 p s1) ∨ (i = .measure d q ∧ Performs s d q 10 p s1) ∨
      (Performs s d q 11 p s1 ∧ ((i = .lock d q ∧ fld (p.sl 3) 0 2 = 0) ∨ (i = .start d q ∧ fld (p.sl 3) 0 2 = 1) ∨
        (i = .attest d q ∧ fld (p.sl 3) 0 2 = 2) ∨ (i = .teardown d q ∧ fld (p.sl 3) 0 2 = 3)))) →
    exec i s = .next (s1.endOne q p.slots .refused 0)) ∧
  (∀ (d : DieId) (q : QueueId) (p : Packet) (tag : Tag) (part : PartId) (s s1 : State), partOfFunc (s1.fnOf q) = some part →
    let fn := s1.fnOf q
    let x := s1.partitions[part]
    let n := (p.sl 3).toNat
    let live := (s1.domains.filter (fun e => !e.2.killed)).length
    (s.tagFree tag = false → exec (.domainCreate d q tag) s = .next s) ∧
    (s.tagFree tag = true → Performs s d q 9 p s1 →
      ((x.state ≠ .unlocked ∨ x.scrubbing = true ∨ 512 ≤ live) → exec (.domainCreate d q tag) s = .next (s1.endOne q p.slots .refused 0)) ∧
      (x.state = .unlocked → x.scrubbing = false → live < 512 → (n = 0 ∨ 16 < n) →
        exec (.domainCreate d q tag) s = .next (s1.endOne q p.slots .badArg 0)) ∧
      (∀ bs, x.state = .unlocked → x.scrubbing = false → live < 512 → 1 ≤ n → n ≤ 16 → s1.extRead fn (p.sl 4) (24 * n) = some bs →
        (∀ i < n, fld ((slotsOf bs (3 * n)).getD (3 * i + 2) 0) 0 16 = 0) →
        ∃ e : State, exec (.domainCreate d q tag) s = .next (e.endOne q p.slots .ok tag.toNat) ∧ ∃ y, e.domain? tag = some y ∧ y.part = part ∧
          y.killed = false ∧ y.plan = planOf tag (slotsOf bs (3 * n)) n ∧ (∀ c, e.dom c tag = .reset c.val) ∧
          (∃ m, e.partitions[part].pmeas = extend x.pmeas m) ∧ e.partitions[part].record = e.evidence part)) ∧
    (Performs s d q 10 p s1 →
      (x.state ≠ .unlocked → exec (.measure d q) s = .next (s1.endOne q p.slots .refused 0)) ∧
      (x.state = .unlocked → s1.extRead fn (p.sl 3) (p.sl 4).toNat = none → exec (.measure d q) s = .next (s1.endOne q p.slots .fault 0)) ∧
      (∀ bs, x.state = .unlocked → s1.extRead fn (p.sl 3) (p.sl 4).toNat = some bs →
        ∃ e : State, exec (.measure d q) s = .next (e.endOne q p.slots .ok 0) ∧
          e.partitions[part].pmeas = reg256 (sha256 (bytes256 x.pmeas ++ bytes256 (reg256 (sha256 bs)))))) ∧
    (Performs s d q 11 p s1 →
      (∀ i ∈ [Instr.lock d q, .start d q, .attest d q, .teardown d q],
        i ≠ [Instr.lock d q, .start d q, .attest d q, .teardown d q].getD (fld (p.sl 3) 0 2) i → exec i s = .next s) ∧
      (fld (p.sl 3) 0 2 = 0 → (x.state ≠ .unlocked ∨ x.scrubbing = true) → exec (.lock d q) s = .next (s1.endOne q p.slots .refused 0)) ∧
      (∀ s2, fld (p.sl 3) 0 2 = 0 → x.state = .unlocked → x.scrubbing = false →
        s1.extWrite fn (p.sl 4) (bytes256 (Config.freeBytes32 s1.fresh)) = some s2 →
        ∃ e : State, exec (.lock d q) s = .next (e.endOne q p.slots .ok 0) ∧ e.mem = s2.mem ∧ e.partitions[part].state = .locked ∧
          e.partitions[part].nonce = Config.freeBytes32 s1.fresh ∧ e.fresh = s2.fresh + 1) ∧
      (fld (p.sl 3) 0 2 = 1 → x.state ≠ .locked → exec (.start d q) s = .next (s1.endOne q p.slots .refused 0)) ∧
      (∀ bs, fld (p.sl 3) 0 2 = 1 → x.state = .locked → s1.extRead fn (p.sl 4) 32 = some bs →
        (reg256 bs = x.nonce → ∃ e : State, exec (.start d q) s = .next (e.endOne q p.slots .ok 0) ∧ e.partitions[part].state = .run) ∧
        (reg256 bs ≠ x.nonce → ∃ e : State, exec (.start d q) s = .next (e.endOne q p.slots .refused 0) ∧ e.partitions[part].state = .locked ∧
          e.dies[d].log.count = s1.dies[d].log.count + 1)) ∧
      (∀ bs s2, fld (p.sl 3) 0 2 = 2 → s1.extRead fn (p.sl 4) 32 = some bs →
        s1.extWrite fn (p.sl 5) (s1.report704 part (reg256 bs)) = some s2 →
        ∃ e : State, exec (.attest d q) s = .next (e.endOne q p.slots .ok 0) ∧ e.mem = s2.mem ∧ e.partitions[part].reports = x.reports + 1) ∧
      (fld (p.sl 3) 0 2 = 3 → ∃ e : State, exec (.teardown d q) s = .next (e.endOne q p.slots .ok 0) ∧ e.partitions[part].state = .unlocked ∧
        e.partitions[part].nonce = 0 ∧ e.partitions[part].replay = false ∧ e.partitions[part].phase = 1 ∧
        (∀ die : DieId, ∀ k ∈ e.dies[die].keys, k.tag ∉ s1.tagsOf part)))) ∧
  (∀ (part : PartId) (s : State), let n := s.partitions[part].phase.toNat
    let covered (ws : List Window) (space : Bool) (a : Nat) : Prop :=
      ∃ w ∈ ws, w.v = true ∧ w.space = space ∧ 64 * w.base.toNat ≤ a ∧ a ≤ 64 * w.limit.toNat + 63
    ((n = 0 ∨ 4 < n ∨ s.host.railFault = true) → exec (.scrubPhaseDone part) s = .next s) ∧
    (s.host.railFault = false → 1 ≤ n → n ≤ 4 → ∃ t, exec (.scrubPhaseDone part) s = .next t ∧ t.partitions[part].phase.toNat = n + 1 ∧
      (∀ c o, n = 2 → o < 0x20000 → covered (s.scratchWindows part (clusterOf c)) true (0x20000 * coreN c + o) → (t.core c).scratch.read o = 0) ∧
      (∀ a, n = 3 → homeOf a = .vault → covered (s.partWindows part) false a → t.mem.read a = 0) ∧
      (∀ a, n = 4 → homeOf a = .dram → covered (s.partWindows part) false a → t.mem.read a = 0)) ∧
    (s.partitions[part].scrubbing = false → exec (.functionLevelReset part) s = .next s) ∧
    (s.partitions[part].scrubbing = true → ∃ t, exec (.functionLevelReset part) s = .next t ∧ t.partitions[part].phase = 1 ∧
      (∀ die : DieId, t.dies[die].keys = []) ∧ (∀ c (n : Fin 64), (t.core c).keys[n].loaded = false) ∧
      t.partitions[part].restarts = if s.partitions[part].restarts = 0xFFFF then 0xFFFF else s.partitions[part].restarts + 1)) ∧
  (∀ (d : DieId) (q : QueueId) (p : Packet) (part : PartId) (s s1 : State), Performs s d q 18 p s1 → part.val = fld (p.sl 3) 0 5 →
    let a := fld (p.sl 3) 8 2
    let x := s1.partitions[part]
    let masks : BitVec 128 := p.sl 5 ++ p.sl 4
    let i : Instr := if a = 1 then .setReplay d q else if a = 2 then .clearReplay d q else .assign d q
    let ends (st : CmdStatus) : Prop := exec i s = .next (s1.endOne q p.slots st 0)
    (s1.fnOf q ≠ 0 → ends .refused) ∧
    (s1.fnOf q = 0 → a = 3 → ends .badArg) ∧
    (s1.fnOf q = 0 → a = 0 → (x.state ≠ .unlocked ∨ x.scrubbing = true ∨ s1.domainsOf part ≠ []) → ends .refused) ∧
    (s1.fnOf q = 0 → a = 0 → x.state = .unlocked → x.scrubbing = false → s1.domainsOf part = [] →
      ((masks = 0 ∨ 6 ≤ fld (p.sl 6) 0 3 ∨ 6 ≤ fld (p.sl 6) 4 3) → ends .badArg) ∧
      (masks ≠ 0 → fld (p.sl 6) 0 3 < 6 → fld (p.sl 6) 4 3 < 6 → ∃ e : State, exec i s = .next (e.endOne q p.slots .ok 0) ∧
        e.partitions[part].clusters = masks ∧ e.partitions[part].valw.toNat = fld (p.sl 6) 0 3 ∧
        e.partitions[part].malw.toNat = fld (p.sl 6) 4 3)) ∧
    (s1.fnOf q = 0 → (a = 1 ∨ a = 2) → (x.scrubbing = true → ends .refused) ∧ (x.scrubbing = false → ∃ e : State,
      exec i s = .next (e.endOne q p.slots .ok 0) ∧ e.partitions = s1.partitions.set part { x with replay := decide (a = 1) })))

/-- REGISTER gives a stream the lowest free slot of the die it names (R308), in replay where the partition replays or
the loaded checkpoint holds the sequence, its journal read from behind that checkpoint's ordinal on (R313; log 41). REASSIGN
sends an opening flit and every cue above TRUNCORD again to the new understudy, and a closing flit to the old one it
reaches (R310). TRUNC goes where the checkpoint covers and the host has consumed, and tells the understudy (R312). Both
act on every stream of an endpoint where bit 63 asks for it, TRUNC judging each by itself (R310, R322; log 49). A virtual
function's endpoint is one of its partition's (R322; log 113). A checkpoint asks what still runs to stop, waits for its partitions, writes its image in pieces over its links, is
over when the manifest is answered or its time is up (R315, R316). SUMMARY writes its record where the buffer holds it
(R327). PEER_COPY sends one WRITE or READ per 255 data flits (R333), and a translation fault of its
data suspends it (R326). What completes a PEER_COPY, the layout of SUMMARY
one checkpoint at a time, the refusal of REGISTER from the physical function, the status of a failed CHECKPOINT and the
image's layout are the model's (log 44, log 50, log 51, log 47, log 84, log 3). [R308, R310, R312, R313, R315, R316, R322, R326, R327, R333] -/
def Obligations.StreamsAndCheckpoints : Prop :=
  (∀ (d : DieId) (q : QueueId) (p : Packet) (part : PartId) (d' : DieId) (s s1 : State), Performs s d q 12 p s1 → d'.val = fld (p.sl 3) 37 2 →
    let fn := s1.fnOf q
    let ends (st : CmdStatus) : Prop := exec (.register d q) s = .next (s1.endOne q p.slots st 0)
    let aligned : Prop := (p.sl 5).toNat % 32 = 0 ∧ (p.sl 6).toNat % 32 = 0
    let held : Prop := ∃ e ∈ s1.dies[d'].streams, e.2.seqid = (p.sl 3).setWidth 32 ∧ e.2.ended = false
    (partOfFunc fn = none → ends .refused) ∧
    (partOfFunc fn = some part → ¬ aligned → ends .badArg) ∧
    (partOfFunc fn = some part → aligned → s1.retainOk fn (p.sl 5) (p.sl 6) = false → ends .fault) ∧
    (∀ o : QueueId, partOfFunc fn = some part → aligned → s1.retainOk fn (p.sl 5) (p.sl 6) = true → o.val = fld (p.sl 3) 32 5 →
      ((held ∨ s1.host.cplq[o].func ≠ fn ∨ ∀ i < 4096, lookup s1.dies[d'].streams i ≠ none) → ends .refused) ∧
      (∀ i < 4096, ¬ held → s1.host.cplq[o].func = fn → lookup s1.dies[d'].streams i = none → (∀ j < i, lookup s1.dies[d'].streams j ≠ none) →
        ∃ e : State, exec (.register d q) s = .next (e.endOne q p.slots .ok (i + 4096 * d'.val)) ∧ ∃ x, lookup e.dies[d'].streams i = some x ∧
          x.seqid = (p.sl 3).setWidth 32 ∧ x.part = part ∧ x.outq = o ∧ x.ustudy = (p.sl 4).setWidth 48 ∧ x.nextOrd = 0 ∧ x.cues = [] ∧
          x.retainBase = (p.sl 5).toNat ∧ x.retainSize = (p.sl 6).toNat ∧ x.truncOrd = none ∧
          let ck := s1.checkpointOf ((p.sl 3).setWidth 32)
          let ord := ck.bind (fun e => e.2)
          let replays : Prop := ck ≠ none ∨ s1.partitions[part].replay = true
          x.ckord = ord ∧ x.ckref = (match ck with | some e => e.1 | none => 0) ∧
          (¬ replays → x.state = .active ∧ e.host = s1.host) ∧
          (replays → s1.host.linkTo x.ustudy 0 = none → x.state = .lost) ∧
          (∀ k, replays → s1.host.linkTo x.ustudy 0 = some k → x.state = .replay ∧
            ∃ tr, e.host.transfers = s1.host.transfers ++ [tr] ∧ tr.link = k ∧
              tr.body = .journal d' i (match ord with | some n => n + 1 | none => 0))))) ∧
  (∀ (d : DieId) (q : QueueId) (p : Packet) (d' : DieId) (i : Instr) (s s1 : State), bit (p.sl 3) 63 = false → d'.val = fld (p.sl 3) 12 2 →
    ((i = .reassign d q ∧ Performs s d q 13 p s1) ∨ (i = .trunc d q ∧ Performs s d q 14 p s1)) →
    let ends (st : CmdStatus) : Prop := exec i s = .next (s1.endOne q p.slots st 0)
    (lookup s1.dies[d'].streams (fld (p.sl 3) 0 12) = none → ends .badArg) ∧
    (∀ x, lookup s1.dies[d'].streams (fld (p.sl 3) 0 12) = some x → foreign (s1.fnOf q) x.part = true → ends .refused) ∧
    (∀ x, lookup s1.dies[d'].streams (fld (p.sl 3) 0 12) = some x → foreign (s1.fnOf q) x.part = false →
      (i = .reassign d q → ∃ e : State, exec i s = .next (e.endOne q p.slots .ok 0) ∧ ∃ y, lookup e.dies[d'].streams (fld (p.sl 3) 0 12) = some y ∧
        y.ustudy = (p.sl 4).setWidth 48 ∧ y.state = (if x.ended then .ended else .active) ∧ y.cues = x.cues ∧ y.nextOrd = x.nextOrd ∧
        y.truncOrd = x.truncOrd ∧
        { endpoint := (p.sl 4).setWidth 48, die := d', slot := fld (p.sl 3) 0 12, body := .opening x.ckref x.ckord } ∈ e.host.cueSends ∧
        (s1.host.reaches x.ustudy 0 = true →
          { endpoint := x.ustudy, die := d', slot := fld (p.sl 3) 0 12, body := .closing } ∈ e.host.cueSends) ∧
        (∀ n, (∀ j, (h : j < x.cues.length) → (x.cues[j]).ord = n + j) → x.nextOrd = n + x.cues.length →
          ∀ o, n ≤ o → o < x.nextOrd → ∃ f ∈ y.flits, f.first ≤ o ∧ o ≤ f.last)) ∧
      (i = .trunc d q → let pos := (p.sl 4).toNat
        let l := if x.truncPos.all (· ≤ pos) then x.cues.takeWhile (fun c => fld c.entry[0] 32 32 ≤ pos) else []
        let gone (c : Cue) : Prop := (∃ o, x.ckord = some o ∧ c.ord ≤ o) ∧ ∀ b ∈ l, s1.consumed x.outq b = true
        ((l = [] ∨ ∃ c, l.getLast? = some c ∧ ¬ gone c) → ends .refused) ∧
        (∀ c, l.getLast? = some c → gone c → ∃ e : State, exec i s = .next (e.endOne q p.slots .ok 0) ∧
          e.host.cueSends = s1.host.cueSends ++ [{ endpoint := x.ustudy, die := d', slot := fld (p.sl 3) 0 12, body := .drop c.ord }] ∧
          lookup e.dies[d'].streams (fld (p.sl 3) 0 12) = some { x with
            truncOrd := some c.ord, truncPos := some ((l.map (fun c => fld c.entry[0] 32 32)).foldl max (x.truncPos.getD 0))
            cues := x.cues.drop l.length, journal := x.journal.filter (fun o => c.ord < o), retainFull := false })))) ∧
  (∀ (d : DieId) (q : QueueId) (p : Packet) (s s1 : State), bit (p.sl 3) 63 = true →
    let listed (d' : DieId) (n : Nat) (x : CueStream) : Prop := n < 4096 ∧ lookup s1.dies[d'].streams n = some x
    let mine (x : CueStream) : Prop := x.ustudy = (p.sl 5).setWidth 48 ∧ foreign (s1.fnOf q) x.part = false
    (Performs s d q 13 p s1 → ∃ e : State, exec (.reassign d q) s = .next (e.endOne q p.slots .ok 0) ∧ ∀ d' n x, listed d' n x →
      (mine x → ∃ y, lookup e.dies[d'].streams n = some y ∧ y.ustudy = (p.sl 4).setWidth 48 ∧ y.cues = x.cues ∧ y.truncOrd = x.truncOrd ∧
        y.state = (if x.ended then .ended else .active) ∧
        { endpoint := (p.sl 4).setWidth 48, die := d', slot := n, body := .opening x.ckref x.ckord } ∈ e.host.cueSends) ∧
      (¬ mine x → lookup e.dies[d'].streams n = some x)) ∧
    (Performs s d q 14 p s1 → let pos := (p.sl 4).toNat
      let upTo (x : CueStream) : List Cue := if x.truncPos.all (· ≤ pos) then x.cues.takeWhile (fun c => fld c.entry[0] 32 32 ≤ pos) else []
      let goes (x : CueStream) (c : Cue) : Prop := (upTo x).getLast? = some c ∧ (∃ o, x.ckord = some o ∧ c.ord ≤ o) ∧
        ∀ b ∈ upTo x, s1.consumed x.outq b = true
      ∃ (e : State) (st : CmdStatus), exec (.trunc d q) s = .next (e.endOne q p.slots st 0) ∧ (st = .ok ∨ st = .refused) ∧
        (st = .ok ↔ ∀ d' n x, listed d' n x → mine x → ∃ c, goes x c) ∧ ∀ d' n x, listed d' n x →
          (∀ c, mine x → goes x c → ∃ y, lookup e.dies[d'].streams n = some y ∧ y.truncOrd = some c.ord ∧
            y.cues = x.cues.drop (upTo x).length ∧
            { endpoint := x.ustudy, die := d', slot := n, body := .drop c.ord } ∈ e.host.cueSends) ∧
          ((¬ mine x ∨ ∀ c, ¬ goes x c) → lookup e.dies[d'].streams n = some x))) ∧
  (∀ (d : DieId) (q : QueueId) (p : Packet) (s s1 : State), Performs s d q 15 p s1 → s.host.checkpoint = none → s1.host.checkpoint = none →
    let ends (st : CmdStatus) : Prop := exec (.checkpoint d q) s = .next (s1.endOne q p.slots st 0)
    let beyond : Prop := ∃ o, partOfFunc (s1.fnOf q) = some o ∧ Config.endpointOf o.val ((p.sl 5).setWidth 48) = false
    ((ckptParts (s1.fnOf q) p = none ∨ beyond) → ends .refused) ∧
    (ckptParts (s1.fnOf q) p = some 0 → ¬ beyond → ends .badArg) ∧
    (∀ parts, ckptParts (s1.fnOf q) p = some parts → ¬ beyond → parts ≠ 0 → let links := s1.host.ckptLinks ((p.sl 4).setWidth 16) ((p.sl 5).setWidth 48)
      (links = [] → ∃ e : State, exec (.checkpoint d q) s = .next (e.endOne q p.slots .fault 0) ∧ e.host.checkpoint = none ∧
        e.dies[d].log.count = s1.dies[d].log.count + 1) ∧
      (links ≠ [] → ∃ t, exec (.checkpoint d q) s = .next t ∧ ∃ c, t.host.checkpoint = some c ∧ c.die = d ∧ c.queue = q ∧ c.packet = p ∧
        c.parts = parts ∧ c.phase = .draining s1.clock ∧ c.image = none))) ∧
  (∀ (d : DieId) (q : QueueId) (p : Packet) (c : Checkpoint) (s s1 : State), Performs s d q 15 p s1 → s.host.checkpoint = some c →
    s1.host.checkpoint = some c → ¬ (c.die = d ∧ c.queue = q) → exec (.checkpoint d q) s = .next (s1.endOne q p.slots .refused 0)) ∧
  (∀ (c : Checkpoint) (s : State), s.host.checkpoint = some c →
    (∀ since, c.phase = .draining since → let s' := s.askParts c.parts
      (∀ b (k : CtxId), b ∈ s.listedCores → let x := s.ctx b (bank k)
        ((x.state = .dormant ∧ s.inParts c.parts (s.core b).installed = true) ∨
          (x.state ≠ .dormant ∧ x.state ≠ .saved ∧ s.inParts c.parts x.regs.outerTag = true)) →
        (s'.ctx b (bank k)).halted = true ∨ (s'.core b).pmreq.stop.getLsbD k.val = true) ∧
      (s.up = true → (s'.partsStopped c.parts = false ∨ s'.queuesEmpty c.parts = false) → exec (.checkpoint c.die c.queue) s = .next s') ∧
      (s.up = true → s'.partsStopped c.parts = true → s'.queuesEmpty c.parts = true → s'.host.ckptLinks c.links c.endpoint ≠ [] →
        ∃ t, exec (.checkpoint c.die c.queue) s = .next t ∧ ∃ c', t.host.checkpoint = some c' ∧ c'.phase = .writing ∧ c'.image ≠ none ∧
          c'.packet = c.packet ∧ ∀ k ∈ s'.host.ckptLinks c.links c.endpoint, ∃ tr ∈ t.host.transfers, tr.link = k ∧
            ∃ off len stop, tr.body = .image off len stop ∧ 0 < len ∧ len ≤ 65280 ∧ off + len ≤ stop) ∧
      (s.clock < since + 9400000 → exec .checkpointQueueTimeout s = .next s) ∧
      (s.queuesEmpty c.parts = true → exec .checkpointQueueTimeout s = .next s) ∧
      (since + 9400000 ≤ s.clock → s.queuesEmpty c.parts = false → ∃ e : State, exec .checkpointQueueTimeout s = .next (e.endOne c.queue c.packet.slots .fault 0) ∧
        e.host.checkpoint = none ∧ e.dies[c.die].log.count = s.dies[c.die].log.count + 1)) ∧
    (∀ tr, s.host.transfers.find? (fun t => t.body = .manifest) = some tr →
      (∃ e : State, exec (.checkpointManifestAck false) s = .next (e.endOne c.queue c.packet.slots .fault 0) ∧ e.host.checkpoint = none) ∧
      (∃ e : State, exec (.checkpointManifestAck true) s = .next (e.endOne c.queue c.packet.slots .ok 0) ∧ e.host.checkpoint = none ∧
        ∀ (d : DieId) i x, lookup s.dies[d].streams i = some x → c.parts.getLsbD x.part.val = true →
          ∃ y, lookup e.dies[d].streams i = some y ∧ y.ckref = tr.tag))) ∧
  (∀ (s : State), s.host.checkpoint = none → exec .checkpointQueueTimeout s = .next s ∧ ∀ b, exec (.checkpointManifestAck b) s = .next s) ∧
  (∀ (d : DieId) (q : QueueId) (p : Packet) (s s1 : State), Performs s d q 16 p s1 → let bs := s1.summaryBytes (s1.fnOf q)
    ((p.sl 4).toNat < bs.length → exec (.summary d q) s = .next (s1.endOne q p.slots .refused bs.length)) ∧
    (bs.length ≤ (p.sl 4).toNat → s1.extWrite (s1.fnOf q) (p.sl 3) bs = none → exec (.summary d q) s = .next (s1.endOne q p.slots .fault 0)) ∧
    (∀ s2, bs.length ≤ (p.sl 4).toNat → s1.extWrite (s1.fnOf q) (p.sl 3) bs = some s2 →
      exec (.summary d q) s = .next (s2.endOne q p.slots .ok bs.length))) ∧
  (∀ (d : DieId) (q : QueueId) (p : Packet) (s s1 : State), Performs s d q 17 p s1 → let fn := s1.fnOf q
    let r : BitVec 32 := (p.sl 5).setWidth 32
    let len := (p.sl 6).toNat
    let off := (p.sl 9).toNat
    let n := (len + 65279) / 65280
    let ends (st : CmdStatus) : Prop := exec (.peerCopy d q) s = .next (s1.endOne q p.slots st 0)
    let beyond : Prop := ∃ o, partOfFunc fn = some o ∧ Config.endpointOf o.val ((p.sl 3).setWidth 48) = false
    let open_ : Prop := s1.regionPa r ≠ none ∧ foreign fn (s1.regionPart r) = false ∧ ¬ beyond
    (s1.regionPa r = none → ends .badArg) ∧
    (s1.regionPa r ≠ none → (foreign fn (s1.regionPart r) = true ∨ beyond) → ends .refused) ∧
    (open_ → off % 256 ≠ 0 → ends .badArg) ∧
    (open_ → off % 256 = 0 → s1.host.linkTo ((p.sl 3).setWidth 48) 2 = none → ends .fault) ∧
    (∀ k, open_ → off % 256 = 0 → s1.host.linkTo ((p.sl 3).setWidth 48) 2 = some k →
      (len = 0 → ends .ok) ∧
      (0 < len → bit (p.sl 7) 0 = false → ∃ t l j, exec (.peerCopy d q) s = .next t ∧ t.host.transfers = s1.host.transfers ++ l ∧
        l.length = n ∧ (∀ i, (h : i < l.length) → (l[i]).link = k ∧ (l[i]).body = .read (off + 65280 * i) (min 65280 (len - 65280 * i))) ∧
        t.host.jobs = s1.host.jobs ++ [j] ∧ j.die = d ∧ j.queue = q ∧ j.packet = p ∧ j.failed = 0 ∧ j.tags = l.map (·.tag)) ∧
      (∀ c bs, 0 < len → bit (p.sl 7) 0 = true → s1.peerBytes fn (s1.regionTag r) (p.sl 4).toNat len (p.sl 8) = (c, bs) →
        (c.stop = some .refused → exec (.peerCopy d q) s = .next (c.s.endOne q p.slots .fault c.failed)) ∧
        (∀ i a w code, c.stop = some (.fault i a w code) →
          (c.s.regionFsvc r = none → exec (.peerCopy d q) s = .next (c.s.endOne q p.slots .fault 0)) ∧
          (c.s.regionFsvc r ≠ none → ∃ t, exec (.peerCopy d q) s = .next t ∧ ∃ j ∈ t.host.copies, j.packet = p ∧ j.queue = q ∧ j.work = .peerOut ∧
            j.fault.va = a ∧ j.fault.code = code ∧ j.fault.noticed = true)) ∧
        (c.stop = none → ∃ t l j, exec (.peerCopy d q) s = .next t ∧ t.host.transfers = c.s.host.transfers ++ l ∧ l.length = n ∧
          (∀ i, (h : i < l.length) → (l[i]).link = k ∧
            (l[i]).body = .write (off + 65280 * i) ((bs.drop (65280 * i)).take (min 65280 (len - 65280 * i)))) ∧
          t.host.jobs = c.s.host.jobs ++ [j] ∧ j.die = d ∧ j.queue = q ∧ j.packet = p ∧ j.failed = c.failed ∧ j.tags = l.map (·.tag)))))

/-- A flit that arrives intact advances SEQ and acknowledges, frees what it acknowledges from the replay buffer and returns
the credits it carries; one that fails its CRC is replayed, and the eighth replay takes the link down (R332). A lost link counts, its transfers move to another link to the same endpoint, its
unreachable streams become LOST, and it trains again where AUTO is set (R309, R332, R334, R344, R345). GO, step by
step training, the retry after 10 ms and DISABLE do what R344 and R345 say; the step that runs decides, whatever STEP holds by then. A peer writes the area it
reaches, which is acknowledged with its TAG, and reads it, at most 255 data flits at a time; READ_DATA and DURABLE_ACK complete what they answer (R313, R315, R333). The area and what answers a READ,
how SEQ compares past its wrap, the bytes of a journal, and that PEER_COPY completes at its last answer, are the model's
(log 27, log 127, log 41, log 44). [R309, R313, R315, R332, R333, R334, R344, R345] -/
def Obligations.Links : Prop :=
  (∀ (k : Fin 16) (seq ack : BitVec 16) (head : FlitHead) (s : State), let l := s.host.links[k]
    let n := ((l.replaying.find? (fun e => e.1 = seq)).map (·.2)).getD 0 + 1
    ((l.up = false ∨ 5 < head.kind.toNat) → ∀ ok, exec (.flitReceive k seq ack head ok) s = .next s) ∧
    (l.up = true → head.kind.toNat ≤ 5 → ∃ t, exec (.flitReceive k seq ack head true) s = .next t ∧ let x := t.host.links[k]
      x.up = true ∧ x.rxSeq = (if (seq - l.rxSeq).toNat < 0x8000 then seq else l.rxSeq) ∧ x.txSeq = ack ∧ x.ackClock = s.clock ∧ x.nextSeq = l.nextSeq ∧ x.waiting = l.waiting ∧
      x.replaying = l.replaying.filter (fun e => e.1 ≠ seq) ∧ x.owed[head.vc] = l.owed[head.vc] + 1 ∧
      x.spent[0] = l.spent[0] - head.cred.toNat / 256 ∧ x.spent[1] = l.spent[1] - head.cred.toNat % 256 ∧
      ((∀ f ∈ l.buffer, f.seq ≠ ack) → x.buffer = l.buffer) ∧
      (∀ pre f post, l.buffer = pre ++ f :: post → f.seq = ack → (∀ g ∈ pre, g.seq ≠ ack) → x.buffer = post)) ∧
    (l.up = true → head.kind.toNat ≤ 5 → n < 8 → ∃ t, exec (.flitReceive k seq ack head false) s = .next t ∧ t.host.links[k] =
      { l with replays := min (l.replays + 1) 4294967295, replaying := (seq, n) :: l.replaying.filter (fun e => e.1 ≠ seq) }) ∧
    (l.up = true → head.kind.toNat ≤ 5 → 8 ≤ n → ∃ t, exec (.flitReceive k seq ack head false) s = .next t ∧ t.host.links[k].up = false ∧
      t.host.links[k].downs = min (l.downs + 1) 4294967295)) ∧
  (∀ (k : Fin 16) (s : State), let l := s.host.links[k]
    let trains : Prop := s.host.boot.stage = 5 ∧ l.auto = true ∧ l.disable = false
    (l.up = false → exec (.linkDown k) s = .next s) ∧
    (l.up = true → ∃ t, exec (.linkDown k) s = .next t ∧ t.host.links[k].up = false ∧ t.host.links[k].peer = 0 ∧
      t.host.links[k].downs = min (l.downs + 1) 4294967295 ∧ (trains → t.host.links[k].busy = true ∧ t.host.links[k].step = 1 ∧ t.host.links[k].running = 1) ∧
      (¬ trains → t.host.links[k].busy = false) ∧ t.host.links[k].stated = none ∧ t.host.links[k].buffer = [] ∧
      (∀ j, j ≠ k → { t.host.links[j] with waiting := s.host.links[j].waiting } = s.host.links[j]) ∧
      (∀ tr ∈ s.host.transfers, tr.link = k → tr.body.ofCkpt = false → (∃ j, j ≠ k ∧ s.host.links[j].up = true ∧ s.host.links[j].peer = l.peer) →
        ∃ tr' ∈ t.host.transfers, tr'.tag = tr.tag ∧ tr'.body = tr.body ∧ tr'.link ≠ k ∧ s.host.links[tr'.link].up = true ∧
          s.host.links[tr'.link].peer = l.peer) ∧
      (∀ (d : DieId) i x, lookup s.dies[d].streams i = some x → t.host.reaches x.ustudy 0 = false →
        ∃ y, lookup t.dies[d].streams i = some y ∧ y.state = .lost ∧ y.cues = x.cues)) ∧
    (∃ t, exec (.linkStepGo k) s = .next t ∧ t.host.links[k] =
      (if l.busy = true ∨ l.disable = true ∨ l.step = 0 ∨ l.step = 7 then l else { l with running := l.step, busy := true, fail := false })) ∧
    (∀ pass peer profiles, ∃ t, exec (.linkStepDone k pass peer profiles) s = .next t ∧
      (l.busy = false → t.host.links[k] = l) ∧
      (l.busy = true → pass = false → l.running ≠ 6 → t.host.links[k] = { l with busy := false, fail := true, failedAt := some s.clock }) ∧
      (l.busy = true → l.running = 6 → t.host.links[k] = { l with
        busy := false, fail := false, up := true, rxSeq := 0, txSeq := 0, replaying := [], waiting := .replicate 2 [], buffer := [], nextSeq := 0
        spent := .replicate 2 0, owed := .replicate 2 0, ackClock := s.clock }) ∧
      (l.busy = true → pass = true → l.running ≠ 6 → t.host.links[k].fail = false ∧ t.host.links[k].up = l.up ∧
        t.host.links[k].busy = l.auto ∧ t.host.links[k].step = (if l.auto then l.running + 1 else l.step) ∧ t.host.links[k].running = (if l.auto then l.running + 1 else l.running) ∧
        t.host.links[k].stated = (if l.running = 5 then some (Config.endpointId, Config.ownProfiles) else l.stated) ∧
        t.host.links[k].peer = (if l.running = 5 then peer else l.peer) ∧ t.host.links[k].profiles = (if l.running = 5 then profiles else l.profiles))) ∧
    (∀ c, l.failedAt = some c → l.fail = true → (s.clock < c + 9400000 → exec (.linkTrainRetry k) s = .next s) ∧
      (c + 9400000 ≤ s.clock → trains → l.up = false → l.busy = false → ∃ t, exec (.linkTrainRetry k) s = .next t ∧
        t.host.links[k] = { l with step := 1, running := 1, busy := true, fail := false, failedAt := none })) ∧
    (l.failedAt = none → exec (.linkTrainRetry k) s = .next s) ∧
    (∃ t, exec (.linkDisable k true) s = .next t ∧ t.host.links[k].disable = true ∧ t.host.links[k].up = false ∧ t.host.links[k].busy = false) ∧
    (∃ t, exec (.linkDisable k false) s = .next t ∧ t.host.links[k].disable = false ∧ t.host.links[k].up = l.up ∧
      (s.host.boot.stage = 5 → l.auto = true → l.up = false → t.host.links[k].busy = true))) ∧
  (∀ (k : Fin 16) (tag : Word) (off len : Nat) (data : List Byte) (s : State), let go (n : Nat) : Prop :=
      s.host.links[k].up = true ∧ off % 256 = 0 ∧ n ≤ 255 * 256
    (¬ go data.length → exec (.peerWrite k tag off data) s = .next s) ∧
    (¬ go len → exec (.peerRead k tag off len) s = .next s) ∧
    (go data.length → s.host.area.wf = true → ∃ t, exec (.peerWrite k tag off data) s = .next t ∧ t.host.acks = s.host.acks ++ [(k, tag)] ∧
      (∀ i, (h : i < data.length) → t.host.area.read (off + i) = data[i]) ∧
      ∀ a, (a < off ∨ off + data.length ≤ a) → t.host.area.read a = s.host.area.read a) ∧
    (go len → ∃ t x, exec (.peerRead k tag off len) s = .next t ∧ t.host.transfers = s.host.transfers ++ [x] ∧ x.tag = tag ∧ x.link = k ∧
      x.src = Config.endpointId ∧
      x.body = .answer off (s.host.area.readN off len))) ∧
  (∀ (k : Fin 16) (tag : Word) (data : List Byte) (s : State), (∀ tr ∈ s.host.transfers, tr.link = k → tr.tag ≠ tag) →
    exec (.readData k tag data) s = .next s ∧ exec (.durableAck k tag) s = .next s) ∧
  (∀ (k : Fin 16) (tr : Transfer) (data : List Byte) (s : State), s.host.links[k].up = true → s.host.transfers = [tr] → tr.link = k →
    (∀ off len, tr.body = .read off len → data.length ≠ len → exec (.readData k tr.tag data) s = .next s) ∧
    let s0 := s.dropTransfer tr
    (∀ off j pa, tr.body = .read off data.length → s.host.jobs = [j] → j.tags = [tr.tag] → j.packet.sl 9 = BitVec.ofNat 64 off →
      off < 0x10000000000000000 → j.packet.sl 8 = 0 → 0 < data.length → data.length ≤ 64 → (j.packet.sl 4).toNat % 64 = 0 → s.mem.wf = true →
      s0.domPlace (s0.regionTag ((j.packet.sl 5).setWidth 32)) (j.packet.sl 4).toNat .store = (s0, .ok (pa, false)) →
      ∃ e : State, exec (.readData k tr.tag data) s = .next (e.endOne j.queue j.packet.slots (if j.failed = 0 && !j.fault then .ok else .fault) j.failed) ∧
        e.host.jobs = [] ∧ e.host.transfers = [] ∧ ∀ i, (h : i < data.length) → e.mem.read (pa + i) = data[i]) ∧
    (∀ (d : DieId) slot n x, tr.body = .journal d slot n → lookup s.dies[d].streams slot = some x → let key := bytes256 s.partitions[x.part].journalKey
      (data.take 32 ≠ key → exec (.readData k tr.tag data) s = .next s) ∧
      (∀ rest, data = key ++ rest → ∃ t, exec (.readData k tr.tag data) s = .next t ∧
        t.host.transfers = [] ∧ ∃ y, lookup t.dies[d].streams slot = some y ∧ y.cues.length = (rest.length - 8) / 32 ∧
        y.journal = (List.range ((rest.length - 8) / 32)).map (leNat (rest.take 8) + ·) ∧
        y.nextOrd = leNat (rest.take 8) + (rest.length - 8) / 32 ∧ y.ackOrd = y.nextOrd ∧ y.state = x.state)) ∧
    (∀ off bs, tr.body = .answer off bs → ∃ t, exec (.durableAck k tr.tag) s = .next t ∧ t.host.transfers = [] ∧ t.mem = s.mem) ∧
    (∀ off bs j, tr.body = .write off bs → s.host.jobs = [j] → j.tags.contains tr.tag = true →
      (j.tags = [tr.tag] → ∃ e : State, exec (.durableAck k tr.tag) s = .next (e.endOne j.queue j.packet.slots (if j.failed = 0 && !j.fault then .ok else .fault) j.failed) ∧
        e.host.jobs = [] ∧ e.host.transfers = []) ∧
      (j.tags.filter (· ≠ tr.tag) ≠ [] → ∃ t, exec (.durableAck k tr.tag) s = .next t ∧
        t.host.jobs = [{ j with tags := j.tags.filter (· ≠ tr.tag) }] ∧ t.host.transfers = [])) ∧
    (∀ c off len stop, tr.body = .image off len stop → s.host.checkpoint = some c →
      (off + len < stop → ∃ t x, exec (.durableAck k tr.tag) s = .next t ∧ t.host.checkpoint = some c ∧ t.host.transfers = [x] ∧ x.link = k ∧
        x.body = .image (off + len) (min 65280 (stop - (off + len))) stop) ∧
      (∀ j l, stop ≤ off + len → s.host.ckptLinks c.links c.endpoint = j :: l → ∃ t x,
        exec (.durableAck k tr.tag) s = .next t ∧ t.host.checkpoint = some { c with phase := .manifest } ∧ t.host.transfers = [x] ∧
        x.body = .manifest ∧ x.link = j) ∧
      (stop ≤ off + len → s.host.ckptLinks c.links c.endpoint = [] → ∃ e : State, exec (.durableAck k tr.tag) s = .next (e.endOne c.queue c.packet.slots .fault 0) ∧
        e.host.checkpoint = none)))

/-- An image is accepted where its header, its digest, its key and its version number allow it (R338). A cold start leaves the
machine as after reset but for host memory, flash, fuses, kept training data and the retirement map; the ROM measures and
runs slot A's image, else slot B's, else enters recovery mode with the reason (R293, R335, R337, R338). A warm package reset keeps memory
(R336). A rail fault holds cores, engines and the work of bring-up (R335). In recovery the host's image is judged as the missing one,
and bring-up goes on where it stood (R339). Stage 1 verifies and measures the later images (R337, R338). A step of HBM training runs only behind a passed one, passes on 32 channels, and three failures stop bring-up; the last
trained stack leads to stage 3, or after a warm reset to stage 4 (R340, R341, R342). Stage 3 ends with memory 0 (R343);
stage 4 loads the monitor and starts it on every core not retired (R299, R337). That the signature's verdict and what a
later image's slot is come from outside the bytes, where an image is entered, and what a reset keeps beyond what R336 names
are the model's (log 53, log 54). [R293, R296, R299, R335, R336, R337, R338, R339, R340, R341, R342, R343] -/
def Obligations.BringUp : Prop :=
  (∀ (f : Fuses) (i : Fin 3) (m : BootImage), let word (off n : Nat) : Nat := leNat ((m.bytes.drop off).take n)
    let keyid := reg256 ((m.bytes.drop 0x40).take 32)
    let sound : Prop := word 0x000 4 = 0x4F424D47 ∧ word 0x004 4 = i.val + 1 ∧ 0x280 + word 0x018 8 ≤ m.bytes.length ∧
      sha256 ((m.bytes.drop 0x280).take (word 0x018 8)) = (m.bytes.drop 0x020).take 32 ∧ m.signed = true ∧
      ((keyid = f.vendor ∧ f.ownerOnly = false) ∨ keyid = f.owner)
    (¬ sound → f.judge i m = .bad) ∧ (sound → word 0x008 4 < f.svn[i].toNat → f.judge i m = .lowSvn) ∧
    (sound → f.svn[i].toNat ≤ word 0x008 4 → f.judge i m = .accepted (decide (keyid ≠ f.vendor)))) ∧
  (∀ (s : State), let f := s.host.boot.fuses
    let image (n : Fin 2) : BootImage := s.host.boot.flash[n][0]
    let good (n : Fin 2) : Prop := ∃ o, f.judge 0 (image n) = .accepted o
    let boots (t : State) : Prop := t.host.boot.flash = s.host.boot.flash ∧ t.host.boot.fuses = f ∧ t.host.epochs = s.host.epochs ∧
      t.host.railFault = false ∧ t.host.meas[0] = extend 0 f.rom ∧ t.host.meas[2] = 0 ∧ t.host.meas[3] = 0 ∧
      t.host.meas[4] = extend (extend 0 f.owner) (Config.digestOf (f.svn.toList.map (·.toNat))) ∧
      (∀ (n : Fin 2) o, (n = 0 ∨ ¬ good 0) → f.judge 0 (image n) = .accepted o → t.host.boot.slot = decide (n = 1) ∧ t.host.boot.owner = o ∧
        t.host.boot.stage = 1 ∧ t.host.boot.err = 0 ∧ t.host.boot.recovery = false ∧ t.host.boot.running[0] = (image n).bytes ∧
        t.host.meas[1] = extend 0 (reg256 (sha256 ((image n).bytes.take 0x40)))) ∧
      (¬ good 0 → ¬ good 1 → t.host.boot.stage = 0 ∧ t.host.boot.recovery = true ∧ t.host.meas[1] = 0 ∧
        t.host.boot.err = if f.judge 0 (image 0) = .lowSvn ∨ f.judge 0 (image 1) = .lowSvn then 2 else 1) ∧
      ∀ k : Fin 12, t.host.hbm[k].kept = s.host.hbm[k].kept
    (∃ t, exec .coldStart s = .next t ∧ boots t ∧ t.host.boot.cold = true ∧ t.clock = State.reset.clock ∧
      (∀ a, t.mem.read a = if homeOf a = .host then s.mem.read a else 0) ∧ t.cores = [] ∧ t.troupes = [] ∧
      t.lines = [] ∧ t.domains = [] ∧ t.regions = [] ∧ t.net = [] ∧ t.dies = State.reset.dies ∧ t.partitions = State.reset.partitions ∧
      t.host.links = State.reset.host.links ∧ t.host.cmdq = State.reset.host.cmdq ∧ ∀ k : Fin 12, t.host.hbm[k].passed = 0) ∧
    (s.host.railFault = true → ∃ t, exec .warmPackageReset s = .next t ∧ t.host.railFault = true ∧ t.host.boot.err = 4) ∧
    (s.host.railFault = false → ∃ t, exec .warmPackageReset s = .next t ∧ boots t ∧ t.host.boot.cold = false ∧ (∀ a, t.mem.read a = s.mem.read a) ∧ t.troupes = [] ∧
      t.regions = [] ∧ t.net = [] ∧ (∀ k : Fin 12, t.host.hbm[k].passed = 3) ∧ (∀ c, (t.core c).keys = Core.reset.keys ∧
        (∀ o, (t.core c).scratch.read o = (s.core c).scratch.read o)) ∧ (∀ d : DieId, t.dies[d].keys = []) ∧
      ∀ p : PartId, t.partitions[p].state = .unlocked ∧
        (s.partitions[p].scrubsOn = true → t.partitions[p].phase = 1) ∧ (s.partitions[p].scrubsOn = false → t.partitions[p].phase = s.partitions[p].phase))) ∧
  (∀ (s : State), (∃ t, exec .railFault s = .next t ∧ t.host.railFault = true ∧ t.host.boot.err = 4 ∧ t.cores = [] ∧ t.troupes = [] ∧ t.mem = s.mem ∧
      ∀ (d : DieId) (q : QueueId), t.thread d q = .reset) ∧
    (s.host.railFault = true → (∀ ok, exec (.bootRecoveryGo ok) s = .next s) ∧ exec .memoryClearComplete s = .next s) ∧
    (s.host.boot.recovery = false → ∀ ok, exec (.bootRecoveryGo ok) s = .next s) ∧ (∀ k c, exec (.hbmRetrain k c) s = .next s)) ∧
  (∀ (i : Fin 3) (signed : Bool) (s : State), let b := s.host.boot
    let stays (t : State) (r : BitVec 4) : Prop := t.host.boot.recovery = true ∧ t.host.boot.err = r ∧ t.host.boot.stage = b.stage ∧ t.host.meas = s.host.meas
    s.host.railFault = false → b.recovery = true → b.running[i] = [] → (∀ j : Fin 3, j < i → b.running[j] ≠ []) → (∀ c, (s.core c).einjArm = false) →
    let read := s.extRead 0 (b.addr ||| 0x8000000000000000) b.len.toNat
    (read = none → ∃ t, exec (.bootRecoveryGo signed) s = .next t ∧ stays t 1) ∧
    (∀ bs, read = some bs → let v := b.fuses.judge i { bytes := bs, signed := signed }
      (v = .bad → ∃ t, exec (.bootRecoveryGo signed) s = .next t ∧ stays t 1) ∧
      (v = .lowSvn → ∃ t, exec (.bootRecoveryGo signed) s = .next t ∧ stays t 2) ∧
      (∀ o, v = .accepted o → ∃ t, exec (.bootRecoveryGo signed) s = .next t ∧ t.host.boot.recovery = false ∧ t.host.boot.err = 0 ∧
        t.host.boot.running[i] = bs ∧ t.host.boot.owner = (o && (decide (i = 0) || b.owner)) ∧ t.host.boot.stage = (if i = 0 then 1 else b.stage) ∧
        ∀ j : Fin 5, t.host.meas[j] = if j.val = i.val + 1 then extend s.host.meas[j] (reg256 (sha256 (bs.take 0x40))) else s.host.meas[j]))) ∧
  (∀ (rest : List Move) (s : State), s.agenda = .boot :: rest → s.host.boot.stage = 1 → s.host.railFault = false → s.host.boot.recovery = false →
    let b := s.host.boot
    let image (i : Fin 3) : BootImage := b.flash[if b.slot then (1 : Fin 2) else 0][i]
    (∀ o o', b.running[1] = [] → b.running[2] = [] → b.fuses.judge 1 (image 1) = .accepted o → b.fuses.judge 2 (image 2) = .accepted o' →
      ∃ t, step s = .next t ∧ t.host.boot.stage = 2 ∧ t.host.boot.running[1] = (image 1).bytes ∧ t.host.boot.running[2] = (image 2).bytes ∧
        t.host.meas[2] = extend s.host.meas[2] (reg256 (sha256 ((image 1).bytes.take 0x40))) ∧
        t.host.meas[3] = extend s.host.meas[3] (reg256 (sha256 ((image 2).bytes.take 0x40)))) ∧
    (b.running[1] = [] → (∀ o, b.fuses.judge 1 (image 1) ≠ .accepted o) → ∃ t, step s = .next t ∧ t.host.boot.stage = 1 ∧ t.host.boot.recovery = true ∧
      t.host.boot.err = if b.fuses.judge 1 (image 1) = .lowSvn then 2 else 1)) ∧
  (∀ (k : Fin 12) (s : State), let h := s.host.hbm[k]
    let n : Fin 7 := Fin.ofNat 7 h.running.toNat
    let fails := h.fails.set n (h.fails[n] + 1)
    (∀ st, (s.host.boot.stage.toNat < 2 ∨ s.host.boot.err = 3) → exec (.hbmStepGo k st) s = .next s) ∧
    (∀ st, 2 ≤ s.host.boot.stage.toNat → s.host.boot.err ≠ 3 → ∃ t, exec (.hbmStepGo k st) s = .next t ∧ t.host.hbm[k].step = st ∧
      (h.busy = false → 1 ≤ st.toNat → st.toNat ≤ 6 → st.toNat ≤ h.passed + 1 → t.host.hbm[k].busy = true ∧ t.host.hbm[k].running = st ∧
        t.host.hbm[k].attempts = if h.step = st then min (h.attempts + 1) 255 else 1) ∧
      ((h.busy = true ∨ st = 0 ∨ 6 < st.toNat ∨ h.passed + 1 < st.toNat) → t.host.hbm[k].busy = h.busy ∧ t.host.hbm[k].running = h.running)) ∧
    (∀ pass data, (h.busy = false → exec (.hbmStepDone k pass data) s = .next s) ∧
      (h.busy = true → pass ≠ BitVec.allOnes 32 → h.running ≠ 6 → ∃ t, exec (.hbmStepDone k pass data) s = .next t ∧
        t.host.hbm[k] = { h with busy := false, fail := true, pass := pass, passed := min h.passed (h.running.toNat - 1), fails := fails } ∧
        (s.host.boot.stage = 2 → s.host.boot.err ≠ 3 → (∃ i : Fin 7, 3 ≤ fails[i]) → t.host.boot.err = 3 ∧ t.host.boot.stack.toNat = k.val)) ∧
      (h.busy = true → (pass = BitVec.allOnes 32 ∨ h.running = 6) → ∃ t, exec (.hbmStepDone k pass data) s = .next t ∧
        t.host.hbm[k].busy = false ∧ t.host.hbm[k].fail = false ∧ t.host.hbm[k].pass = BitVec.allOnes 32 ∧
        t.host.hbm[k].passed = max h.passed h.running.toNat ∧
        (h.running = 5 → t.host.hbm[k].kept = t.host.hbm[k].data ∧ ∀ i, (hi : i < data.length) → i < 256 → t.host.hbm[k].data.read i = data[i]) ∧
        (s.host.boot.stage = 2 → s.host.boot.err ≠ 3 → (∀ i : Fin 7, h.fails[i] < 3) → h.running = 6 → h.passed ≤ 6 →
          (∀ j : Fin 12, j ≠ k → s.host.hbm[j].passed = 6) → t.host.boot.stage = if s.host.boot.cold then 3 else 4)))) ∧
  (∀ (s : State), (s.host.boot.stage ≠ 3 → exec .memoryClearComplete s = .next s) ∧
    (s.host.boot.stage = 3 → s.host.railFault = false → ∃ t, exec .memoryClearComplete s = .next t ∧ t.host.boot.stage = 4 ∧ t.poison = [] ∧ t.lines = [] ∧ t.frames = [] ∧
      (∀ a, t.mem.read a = if homeOf a = .dram ∨ homeOf a = .vault then 0 else s.mem.read a) ∧ (∀ c, (t.core c).scratch = []) ∧
      ∀ i, (t.troupe i).acc = [] ∧ (t.troupe i).owners = .replicate 16 none)) ∧
  (∀ (rest : List Move) (s : State), s.agenda = .boot :: rest → s.host.boot.stage = 4 → s.host.railFault = false →
    let bs := s.host.boot.running[2]
    let load := leNat ((bs.drop 0x10).take 8)
    let body := (bs.drop 0x280).take (leNat ((bs.drop 0x18).take 8))
    ∃ t, step s = .next t ∧ t.host.boot.stage = 5 ∧
      (∀ c, ((t.core c).retired = true ↔ c.val ∈ (s.host.epochs.headD (0, [])).2) ∧
        ((t.core c).retired = false → (t.core c).mmode ≠ none ∧ (t.ctx c mBank).state = .ready ∧
          (t.ctx c mBank).regs.pc = BitVec.ofNat 64 load &&& ~~~1#64 ∧ (t.core c).mtvec = (t.ctx c mBank).regs.pc)) ∧
      (∀ d : DieId, t.dies[d].epochs = [s.host.epochs.headD (0, [])]) ∧
      (s.mem.wf = true → homeOf load = .dram → homeOf (load + body.length - 1) = .dram → ∀ i, (h : i < body.length) → t.mem.read (load + i) = body[i]) ∧
      (∀ k : Fin 16, s.host.links[k].auto = true → s.host.links[k].disable = false → s.host.links[k].up = false → t.host.links[k].busy = true))

/-- Once in an interval of 940 clocks a die admits those of its inactive troupes whose ready job asked by the interval's start, WAKEN at most: a
troupe that began to ask in an earlier interval before one of a later, and in troupe number within one (R346, R347); a request at the
start's own clock is one of its own interval. A troupe idle for 4,096 clocks is inactive, an inactive one with a job ready asks,
and a clock held back is a stall clock (R346), as is one past the budget max(1, GBUD THR / 64) (R349). THR falls by 8 above CAPW and rises
by 4 below 95 percent of it, at the end of each millisecond of 940,000 clocks and once (R349). A
gate bit takes effect for an idle cluster, is reported for another, and a wake clears it; what was held for the
cluster's block is done when the supply has settled (R237, R351). A window's bounds
clear V, its attributes set V only without a clash (R281, R282). An error injection is armed where its address is
memory (R221). That block writes are held in order is the model's (log 129). [R221, R237, R281, R282, R346, R347, R349, R351] -/
def Obligations.PowerAndRegisters : Prop :=
  (∀ (d : DieId) (s : State), let i := s.clock / 940
    let ready (u : TroupeId) : Prop := ∃ x rest k de al gw gb, (s.troupe u).mat = x :: rest ∧ x.phase = .running ∧ x.work = .mma k de al gw gb
    let asks (u : TroupeId) (c : Nat) : Prop := u.val / 256 = d.val ∧ (s.troupe u).active = false ∧ ready u ∧ (s.troupe u).request = some c ∧ c ≤ 940 * i
    let first (u : TroupeId) (c : Nat) (v : TroupeId) (c' : Nat) : Prop := c / 940 < c' / 940 ∨ (c / 940 = c' / 940 ∧ u.val < v.val)
    (i < s.dies[d].admitted → exec (.troupeAdmission d) s = .next s) ∧
    (s.dies[d].admitted ≤ i → ∃ t, exec (.troupeAdmission d) s = .next t ∧ t.dies[d].admitted = i + 1 ∧
      (∀ (u : TroupeId), (t.troupe u).active = true ↔ ((s.troupe u).active = true ∨ ∃ c, asks u c ∧
        ∀ l : List TroupeId, l.Nodup → (∀ v ∈ l, ∃ c', asks v c' ∧ first v c' u c) → l.length < s.host.power.waken)) ∧
      (∀ l : List TroupeId, l.Nodup → (∀ v ∈ l, (s.troupe v).active = false ∧ (t.troupe v).active = true) → l.length ≤ s.host.power.waken) ∧
      (∀ u : TroupeId, (s.troupe u).active = false → (t.troupe u).active = true → t.troupe u = { s.troupe u with
        active := true, quietFrom := s.clock, request := none }) ∧
      (∀ u : TroupeId, ((s.troupe u).active = true ∨ (t.troupe u).active = false) → t.troupe u = s.troupe u))) ∧
  (∀ (u : TroupeId) (s : State), let x := s.troupe u
    (x.active = true → x.quietFrom + 4096 ≤ s.clock → ∃ t, exec (.troupeIdle u) s = .next t ∧ t.troupe u = { x with active := false }) ∧
    ((x.active = false ∨ s.clock < x.quietFrom + 4096) → exec (.troupeIdle u) s = .next s)) ∧
  (∀ (x : Troupe) (j : MatEntry) rest k de al (gw : BitVec 2) (gb : BitVec 10) (clock thr : Nat), x.mat = j :: rest → j.phase = .running →
    j.work = .mma k de al gw gb → j.left ≠ 0 → j.accepted < clock → let y := x.govern clock thr
    let issues : Prop := x.active = true ∧ x.inWindow (64 * 2 ^ gw.toNat) clock < max 1 (gb.toNat * thr / 64)
    (issues → y.mat = { j with left := j.left - 1 } :: rest ∧ y.active = true ∧ y.quietFrom = clock + 1) ∧
    (¬ issues → y.mat = { j with stall := j.stall + 1 } :: rest ∧ y.active = (x.active && decide (clock + 1 < x.quietFrom + 4096))) ∧
    (x.active = false → y.request = some (x.request.getD (clock + 1)))) ∧
  (∀ (w : BitVec 12) (s : State), let p := s.host.power
    let a := w.toNat
    let due : Prop := s.clock % 940000 = 0 ∧ p.updated < s.clock / 940000
    (¬ due → exec (.throttleUpdate w) s = .next s) ∧
    (due → ∃ t, exec (.throttleUpdate w) s = .next t ∧ t.host.power.avgw = a ∧ t.host.power.updated = s.clock / 940000 ∧ t.host.power.thr =
      (if p.capw < a then max 8 (p.thr - 8) else if 100 * a < 95 * p.capw then min 64 (p.thr + 4) else p.thr) ∧
      (8 ≤ p.thr → p.thr ≤ 64 → 8 ≤ t.host.power.thr ∧ t.host.power.thr ≤ 64))) ∧
  (∀ (d : DieId) (w : BitVec 32) (s : State), ∃ t, exec (.clusterGateWrite d w) s = .next t ∧ ∀ c : Fin 32,
    let k := clusterAt d c
    let ok : Prop := s.clusterIdle k = true ∨ (s.cluster k).gated = true
    ((w.getLsbD c.val = true ∧ ok) ↔ (t.cluster k).gated = true) ∧
    ((t.host.power.gate[d]).getLsbD c.val = (t.cluster k).gated) ∧
    ((t.host.power.failed[d]).getLsbD c.val = true ↔ (w.getLsbD c.val = true ∧ ¬ ok))) ∧
  (∀ (c : ClusterId) (d : DieId) (s : State), d.val = c.val / 32 →
    ((s.cluster c).gated = false → exec (.clusterWake c) s = .next s) ∧
    ((s.cluster c).gated = true → ∃ t, exec (.clusterWake c) s = .next t ∧ (t.cluster c).gated = false ∧ (t.cluster c).waking = true ∧
      (t.host.power.gate[d]).getLsbD (c.val % 32) = false) ∧
    ((s.cluster c).gated = true → ∃ t, exec (.clusterSupplySettled c) s = .next t ∧ t.cluster c = { s.cluster c with waking := false }) ∧
    ((s.cluster c).gated = false → ∃ t, exec (.clusterSupplySettled c) s = .next t ∧ t.cluster c = (s.cluster c).held.foldl
      (fun x e => x.blockWrite (s.blockAgent (.host e.1)) e.2.1 e.2.2) { s.cluster c with waking := false, held := [] }) ∧
    ∀ c', c' ≠ c → ∃ t, exec (.clusterSupplySettled c) s = .next t ∧ t.cluster c' = s.cluster c') ∧
  (∀ (c : CoreId) (k : Fin 16) (w : Word) (limit : Bool) (s : State), let x := (s.core c).windows[k]
    (∃ t, exec (.windowBoundWrite c k limit w) s = .next t ∧ (t.core c).windows[k].v = false ∧
      (limit = true → (t.core c).windows[k].limit.toNat = (Window.trim { x with limit := w.extractLsb' 6 46 }).limit.toNat) ∧
      (limit = false → (t.core c).windows[k].base.toNat = (Window.trim { x with base := w.extractLsb' 6 46 }).base.toNat)) ∧
    (∃ t, exec (.windowEnableWrite c k w) s = .next t ∧ let y := (t.core c).windows[k]
      y.dtag = w.setWidth 16 ∧ y.rd = bit w 16 ∧ y.wr = bit w 17 ∧ y.ex = bit w 18 ∧ y.space = bit w 19 ∧
      (bit w 20 = false → y.v = false) ∧ (bit w 20 = true → y.clash = !y.v) ∧
      (∀ j, j ≠ k → (t.core c).windows[j] = (s.core c).windows[j]) ∧
      (∀ j, j ≠ k → y.v = true → (s.core c).windows[j].v = true → (s.core c).windows[j].dtag ≠ y.dtag →
        (s.core c).windows[j].overlaps y = false) ∧
      (bit w 20 = true → (∀ j, j ≠ k → (s.core c).windows[j].v = false) → y.space = true → y.v = true) ∧
      (y.v = true → y.space = false → 64 * y.base.toNat < 0xC000000000 → 64 * y.limit.toNat + 63 < 0xBFF0000000))) ∧
  (∀ (c : CoreId) (w : Word) (s : State), let q := s.core c
    let ok : Prop := fld w 0 2 ≠ 3 ∧ (bit w 8 = true → homeOf q.einja.toNat = .dram ∨ homeOf q.einja.toNat = .vault)
    (ok → ∃ t, exec (.errorInjectArm c w) s = .next t ∧ (t.core c).einjType = w.setWidth 2 ∧ (t.core c).einjArm = (q.einjArm || bit w 8) ∧
      (t.core c).einjFired = (q.einjFired && !bit w 9)) ∧
    (¬ ok → exec (.errorInjectArm c w) s = .next (s.monitorFault c)))
end

