-- ==== Sys2Proof/Laws/Exec.lean ====
section
/-!
SUPPORT. The meaning exec calls for each constructor.
-/

namespace Sys2Proof.Machine

@[simp] theorem exec_add (w d a b s) : exec (.add w d a b) s = execAdd w d a b s := rfl
@[simp] theorem exec_sub (w d a b s) : exec (.sub w d a b) s = execSub w d a b s := rfl
@[simp] theorem exec_and (w d a b s) : exec (.and w d a b) s = execAnd w d a b s := rfl
@[simp] theorem exec_or (w d a b s) : exec (.or w d a b) s = execOr w d a b s := rfl
@[simp] theorem exec_xor (w d a b s) : exec (.xor w d a b) s = execXor w d a b s := rfl
@[simp] theorem exec_andn (w d a b s) : exec (.andn w d a b) s = execAndn w d a b s := rfl
@[simp] theorem exec_shl (w d a b s) : exec (.shl w d a b) s = execShl w d a b s := rfl
@[simp] theorem exec_shr (w d a b s) : exec (.shr w d a b) s = execShr w d a b s := rfl
@[simp] theorem exec_sar (w d a b s) : exec (.sar w d a b) s = execSar w d a b s := rfl
@[simp] theorem exec_rol (w d a b s) : exec (.rol w d a b) s = execRol w d a b s := rfl
@[simp] theorem exec_min (w d a b s) : exec (.min w d a b) s = execMin w d a b s := rfl
@[simp] theorem exec_max (w d a b s) : exec (.max w d a b) s = execMax w d a b s := rfl
@[simp] theorem exec_minu (w d a b s) : exec (.minu w d a b) s = execMinu w d a b s := rfl
@[simp] theorem exec_maxu (w d a b s) : exec (.maxu w d a b) s = execMaxu w d a b s := rfl
@[simp] theorem exec_addw (w d a b s) : exec (.addw w d a b) s = execAddw w d a b s := rfl
@[simp] theorem exec_subw (w d a b s) : exec (.subw w d a b) s = execSubw w d a b s := rfl
@[simp] theorem exec_addi (w d a imm s) : exec (.addi w d a imm) s = execAddi w d a imm s := rfl
@[simp] theorem exec_andi (w d a imm s) : exec (.andi w d a imm) s = execAndi w d a imm s := rfl
@[simp] theorem exec_ori (w d a imm s) : exec (.ori w d a imm) s = execOri w d a imm s := rfl
@[simp] theorem exec_xori (w d a imm s) : exec (.xori w d a imm) s = execXori w d a imm s := rfl
@[simp] theorem exec_shli (w d a amt s) : exec (.shli w d a amt) s = execShli w d a amt s := rfl
@[simp] theorem exec_shri (w d a amt s) : exec (.shri w d a amt) s = execShri w d a amt s := rfl
@[simp] theorem exec_sari (w d a amt s) : exec (.sari w d a amt) s = execSari w d a amt s := rfl
@[simp] theorem exec_mul (w d a b s) : exec (.mul w d a b) s = execMul w d a b s := rfl
@[simp] theorem exec_mulh (w d a b s) : exec (.mulh w d a b) s = execMulh w d a b s := rfl
@[simp] theorem exec_mulhu (w d a b s) : exec (.mulhu w d a b) s = execMulhu w d a b s := rfl
@[simp] theorem exec_mulw (w d a b s) : exec (.mulw w d a b) s = execMulw w d a b s := rfl
@[simp] theorem exec_div (w d a b s) : exec (.div w d a b) s = execDiv w d a b s := rfl
@[simp] theorem exec_divu (w d a b s) : exec (.divu w d a b) s = execDivu w d a b s := rfl
@[simp] theorem exec_rem (w d a b s) : exec (.rem w d a b) s = execRem w d a b s := rfl
@[simp] theorem exec_remu (w d a b s) : exec (.remu w d a b) s = execRemu w d a b s := rfl
@[simp] theorem exec_clz (w d a s) : exec (.clz w d a) s = execClz w d a s := rfl
@[simp] theorem exec_ctz (w d a s) : exec (.ctz w d a) s = execCtz w d a s := rfl
@[simp] theorem exec_popc (w d a s) : exec (.popc w d a) s = execPopc w d a s := rfl
@[simp] theorem exec_brev (w d a s) : exec (.brev w d a) s = execBrev w d a s := rfl
@[simp] theorem exec_bswap (w d a s) : exec (.bswap w d a) s = execBswap w d a s := rfl
@[simp] theorem exec_sextb (w d a s) : exec (.sextb w d a) s = execSextb w d a s := rfl
@[simp] theorem exec_sexth (w d a s) : exec (.sexth w d a) s = execSexth w d a s := rfl
@[simp] theorem exec_sextw (w d a s) : exec (.sextw w d a) s = execSextw w d a s := rfl
@[simp] theorem exec_zextb (w d a s) : exec (.zextb w d a) s = execZextb w d a s := rfl
@[simp] theorem exec_zexth (w d a s) : exec (.zexth w d a) s = execZexth w d a s := rfl
@[simp] theorem exec_zextw (w d a s) : exec (.zextw w d a) s = execZextw w d a s := rfl
@[simp] theorem exec_movi (w d imm s) : exec (.movi w d imm) s = execMovi w d imm s := rfl
@[simp] theorem exec_lea (w d a b sh s) : exec (.lea w d a b sh) s = execLea w d a b sh s := rfl
@[simp] theorem exec_cmp (w c p a b s) : exec (.cmp w c p a b) s = execCmp w c p a b s := rfl
@[simp] theorem exec_cmpi (w c p a imm s) : exec (.cmpi w c p a imm) s = execCmpi w c p a imm s := rfl
@[simp] theorem exec_sel (w d p a b s) : exec (.sel w d p a b) s = execSel w d p a b s := rfl
@[simp] theorem exec_pand (w d a b s) : exec (.pand w d a b) s = execPand w d a b s := rfl
@[simp] theorem exec_por (w d a b s) : exec (.por w d a b) s = execPor w d a b s := rfl
@[simp] theorem exec_pxor (w d a b s) : exec (.pxor w d a b) s = execPxor w d a b s := rfl
@[simp] theorem exec_pandn (w d a b s) : exec (.pandn w d a b) s = execPandn w d a b s := rfl
@[simp] theorem exec_pnot (w d a s) : exec (.pnot w d a) s = execPnot w d a s := rfl
@[simp] theorem exec_pmov (w d a s) : exec (.pmov w d a) s = execPmov w d a s := rfl
@[simp] theorem exec_ldb (w d a imm s) : exec (.ldb w d a imm) s = execLdb w d a imm s := rfl
@[simp] theorem exec_ldbu (w d a imm s) : exec (.ldbu w d a imm) s = execLdbu w d a imm s := rfl
@[simp] theorem exec_ldh (w d a imm s) : exec (.ldh w d a imm) s = execLdh w d a imm s := rfl
@[simp] theorem exec_ldhu (w d a imm s) : exec (.ldhu w d a imm) s = execLdhu w d a imm s := rfl
@[simp] theorem exec_ldw (w d a imm s) : exec (.ldw w d a imm) s = execLdw w d a imm s := rfl
@[simp] theorem exec_ldwu (w d a imm s) : exec (.ldwu w d a imm) s = execLdwu w d a imm s := rfl
@[simp] theorem exec_ldd (w d a imm s) : exec (.ldd w d a imm) s = execLdd w d a imm s := rfl
@[simp] theorem exec_stb (w d a imm s) : exec (.stb w d a imm) s = execStb w d a imm s := rfl
@[simp] theorem exec_sth (w d a imm s) : exec (.sth w d a imm) s = execSth w d a imm s := rfl
@[simp] theorem exec_stw (w d a imm s) : exec (.stw w d a imm) s = execStw w d a imm s := rfl
@[simp] theorem exec_std (w d a imm s) : exec (.std w d a imm) s = execStd w d a imm s := rfl
@[simp] theorem exec_lda (w z c d a s) : exec (.lda w z c d a) s = execLda w z c d a s := rfl
@[simp] theorem exec_stl (w z c d a s) : exec (.stl w z c d a) s = execStl w z c d a s := rfl
@[simp] theorem exec_amo (w o d a b s) : exec (.amo w o d a b) s = execAmo w o d a b s := rfl
@[simp] theorem exec_cas (w dbl d a b s) : exec (.cas w dbl d a b) s = execCas w dbl d a b s := rfl
@[simp] theorem exec_fence (w k c s) : exec (.fence w k c) s = execFence w k c s := rfl
@[simp] theorem exec_send (w a b n s) : exec (.send w a b n) s = execSend w a b n s := rfl
@[simp] theorem exec_hdef (w a b s) : exec (.hdef w a b) s = execHdef w a b s := rfl
@[simp] theorem exec_hen (w a s) : exec (.hen w a) s = execHen w a s := rfl
@[simp] theorem exec_hdis (w a s) : exec (.hdis w a) s = execHdis w a s := rfl
@[simp] theorem exec_hsetp (w a s) : exec (.hsetp w a) s = execHsetp w a s := rfl
@[simp] theorem exec_hclrp (w a s) : exec (.hclrp w a) s = execHclrp w a s := rfl
@[simp] theorem exec_spawn (w a s) : exec (.spawn w a) s = execSpawn w a s := rfl
@[simp] theorem exec_tdec (w a s) : exec (.tdec w a) s = execTdec w a s := rfl
@[simp] theorem exec_wfm (w d a s) : exec (.wfm w d a) s = execWfm w d a s := rfl
@[simp] theorem exec_bar (w a s) : exec (.bar w a) s = execBar w a s := rfl
@[simp] theorem exec_bara (w a s) : exec (.bara w a) s = execBara w a s := rfl
@[simp] theorem exec_barw (w a s) : exec (.barw w a) s = execBarw w a s := rfl
@[simp] theorem exec_jmpr (w a s) : exec (.jmpr w a) s = execJmpr w a s := rfl
@[simp] theorem exec_jmprCall (w a s) : exec (.jmprCall w a) s = execJmprCall w a s := rfl
@[simp] theorem exec_tgt (w imm s) : exec (.tgt w imm) s = execTgt w imm s := rfl
@[simp] theorem exec_lps (w a s) : exec (.lps w a) s = execLps w a s := rfl
@[simp] theorem exec_lpsi (w imm s) : exec (.lpsi w imm) s = execLpsi w imm s := rfl
@[simp] theorem exec_disb (w s) : exec (.disb w) s = execDisb w s := rfl
@[simp] theorem exec_gang2 (w s) : exec (.gang2 w) s = execGang2 w s := rfl
@[simp] theorem exec_gang4 (w s) : exec (.gang4 w) s = execGang4 w s := rfl
@[simp] theorem exec_gang8 (w s) : exec (.gang8 w) s = execGang8 w s := rfl
@[simp] theorem exec_rejn (w s) : exec (.rejn w) s = execRejn w s := rfl
@[simp] theorem exec_movrGf (w d a s) : exec (.movrGf w d a) s = execMovrGf w d a s := rfl
@[simp] theorem exec_movrFg (w d a s) : exec (.movrFg w d a) s = execMovrFg w d a s := rfl
@[simp] theorem exec_movrGp (w a s) : exec (.movrGp w a) s = execMovrGp w a s := rfl
@[simp] theorem exec_movrPg (w d s) : exec (.movrPg w d) s = execMovrPg w d s := rfl
@[simp] theorem exec_srd (w d csr s) : exec (.srd w d csr) s = execSrd w d csr s := rfl
@[simp] theorem exec_swr (w d csr s) : exec (.swr w d csr) s = execSwr w d csr s := rfl
@[simp] theorem exec_ssb (w d csr s) : exec (.ssb w d csr) s = execSsb w d csr s := rfl
@[simp] theorem exec_scb (w d csr s) : exec (.scb w d csr) s = execScb w d csr s := rfl
@[simp] theorem exec_cmit (w s) : exec (.cmit w) s = execCmit w s := rfl
@[simp] theorem exec_mver (w s) : exec (.mver w) s = execMver w s := rfl
@[simp] theorem exec_gpub (w s) : exec (.gpub w) s = execGpub w s := rfl
@[simp] theorem exec_grev (w s) : exec (.grev w) s = execGrev w s := rfl
@[simp] theorem exec_spgd (w s) : exec (.spgd w) s = execSpgd w s := rfl
@[simp] theorem exec_brk (w code s) : exec (.brk w code) s = execBrk w code s := rfl
@[simp] theorem exec_fadd (w dbl d a b s) : exec (.fadd w dbl d a b) s = execFadd w dbl d a b s := rfl
@[simp] theorem exec_fsub (w dbl d a b s) : exec (.fsub w dbl d a b) s = execFsub w dbl d a b s := rfl
@[simp] theorem exec_fmul (w dbl d a b s) : exec (.fmul w dbl d a b) s = execFmul w dbl d a b s := rfl
@[simp] theorem exec_fdiv (w dbl d a b s) : exec (.fdiv w dbl d a b) s = execFdiv w dbl d a b s := rfl
@[simp] theorem exec_fmin (w dbl d a b s) : exec (.fmin w dbl d a b) s = execFmin w dbl d a b s := rfl
@[simp] theorem exec_fmax (w dbl d a b s) : exec (.fmax w dbl d a b) s = execFmax w dbl d a b s := rfl
@[simp] theorem exec_fsqrt (w dbl d a s) : exec (.fsqrt w dbl d a) s = execFsqrt w dbl d a s := rfl
@[simp] theorem exec_fma (w dbl d a b s) : exec (.fma w dbl d a b) s = execFma w dbl d a b s := rfl
@[simp] theorem exec_fms (w dbl d a b s) : exec (.fms w dbl d a b) s = execFms w dbl d a b s := rfl
@[simp] theorem exec_fnma (w dbl d a b s) : exec (.fnma w dbl d a b) s = execFnma w dbl d a b s := rfl
@[simp] theorem exec_fnms (w dbl d a b s) : exec (.fnms w dbl d a b) s = execFnms w dbl d a b s := rfl
@[simp] theorem exec_fcmp (w dbl c p a b s) : exec (.fcmp w dbl c p a b) s = execFcmp w dbl c p a b s := rfl
@[simp] theorem exec_fcvt (w k d a s) : exec (.fcvt w k d a) s = execFcvt w k d a s := rfl
@[simp] theorem exec_fcls (w dbl d a s) : exec (.fcls w dbl d a) s = execFcls w dbl d a s := rfl
@[simp] theorem exec_fmv (w dbl d a s) : exec (.fmv w dbl d a) s = execFmv w dbl d a s := rfl
@[simp] theorem exec_fneg (w dbl d a s) : exec (.fneg w dbl d a) s = execFneg w dbl d a s := rfl
@[simp] theorem exec_fabs (w dbl d a s) : exec (.fabs w dbl d a) s = execFabs w dbl d a s := rfl
@[simp] theorem exec_fcpys (w dbl d a b s) : exec (.fcpys w dbl d a b) s = execFcpys w dbl d a b s := rfl
@[simp] theorem exec_tbld (w slotB twos a s) : exec (.tbld w slotB twos a) s = execTbld w slotB twos a s := rfl
@[simp] theorem exec_enc (w t inf d a s) : exec (.enc w t inf d a) s = execEnc w t inf d a s := rfl
@[simp] theorem exec_dec (w t d a s) : exec (.dec w t d a) s = execDec w t d a s := rfl
@[simp] theorem exec_scal (w d a s) : exec (.scal w d a) s = execScal w d a s := rfl
@[simp] theorem exec_vadd (w t d a b s) : exec (.vadd w t d a b) s = execVadd w t d a b s := rfl
@[simp] theorem exec_vsub (w t d a b s) : exec (.vsub w t d a b) s = execVsub w t d a b s := rfl
@[simp] theorem exec_vmul (w t d a b s) : exec (.vmul w t d a b) s = execVmul w t d a b s := rfl
@[simp] theorem exec_vfma (w t d a b s) : exec (.vfma w t d a b) s = execVfma w t d a b s := rfl
@[simp] theorem exec_vmin (w t d a b s) : exec (.vmin w t d a b) s = execVmin w t d a b s := rfl
@[simp] theorem exec_vmax (w t d a b s) : exec (.vmax w t d a b) s = execVmax w t d a b s := rfl
@[simp] theorem exec_vand (w t d a b s) : exec (.vand w t d a b) s = execVand w t d a b s := rfl
@[simp] theorem exec_vor (w t d a b s) : exec (.vor w t d a b) s = execVor w t d a b s := rfl
@[simp] theorem exec_vxor (w t d a b s) : exec (.vxor w t d a b) s = execVxor w t d a b s := rfl
@[simp] theorem exec_vshl (w t d a b s) : exec (.vshl w t d a b) s = execVshl w t d a b s := rfl
@[simp] theorem exec_vshr (w t d a b s) : exec (.vshr w t d a b) s = execVshr w t d a b s := rfl
@[simp] theorem exec_vsar (w t d a b s) : exec (.vsar w t d a b) s = execVsar w t d a b s := rfl
@[simp] theorem exec_vcmp (w t c m a b s) : exec (.vcmp w t c m a b) s = execVcmp w t c m a b s := rfl
@[simp] theorem exec_vsel (w t d a b s) : exec (.vsel w t d a b) s = execVsel w t d a b s := rfl
@[simp] theorem exec_vcvt (w dst src d a s) : exec (.vcvt w dst src d a) s = execVcvt w dst src d a s := rfl
@[simp] theorem exec_vabs (w t d a s) : exec (.vabs w t d a) s = execVabs w t d a s := rfl
@[simp] theorem exec_vneg (w t d a s) : exec (.vneg w t d a) s = execVneg w t d a s := rfl
@[simp] theorem exec_vred (w t o d a s) : exec (.vred w t o d a) s = execVred w t o d a s := rfl
@[simp] theorem exec_vbc (w t d a s) : exec (.vbc w t d a) s = execVbc w t d a s := rfl
@[simp] theorem exec_vperm (w t d a b s) : exec (.vperm w t d a b) s = execVperm w t d a b s := rfl
@[simp] theorem exec_vsld (w t d a b s) : exec (.vsld w t d a b) s = execVsld w t d a b s := rfl
@[simp] theorem exec_vins (w t d a b s) : exec (.vins w t d a b) s = execVins w t d a b s := rfl
@[simp] theorem exec_vext (w t d a b s) : exec (.vext w t d a b) s = execVext w t d a b s := rfl
@[simp] theorem exec_vld (w t d a s) : exec (.vld w t d a) s = execVld w t d a s := rfl
@[simp] theorem exec_vst (w t d a s) : exec (.vst w t d a) s = execVst w t d a s := rfl
@[simp] theorem exec_vlds (w t d a b s) : exec (.vlds w t d a b) s = execVlds w t d a b s := rfl
@[simp] theorem exec_vsts (w t d a b s) : exec (.vsts w t d a b) s = execVsts w t d a b s := rfl
@[simp] theorem exec_vgth (w t d a b s) : exec (.vgth w t d a b) s = execVgth w t d a b s := rfl
@[simp] theorem exec_vsct (w t d a b s) : exec (.vsct w t d a b) s = execVsct w t d a b s := rfl
@[simp] theorem exec_vdotqq (w t d a b s) : exec (.vdotqq w t d a b) s = execVdotqq w t d a b s := rfl
@[simp] theorem exec_vdothh (w d a b s) : exec (.vdothh w d a b) s = execVdothh w d a b s := rfl
@[simp] theorem exec_vdotnn (w t d a b s) : exec (.vdotnn w t d a b) s = execVdotnn w t d a b s := rfl
@[simp] theorem exec_vtopk (w t d a b s) : exec (.vtopk w t d a b) s = execVtopk w t d a b s := rfl
@[simp] theorem exec_venc (w t inf d a s) : exec (.venc w t inf d a) s = execVenc w t inf d a s := rfl
@[simp] theorem exec_vdec (w t d a s) : exec (.vdec w t d a) s = execVdec w t d a s := rfl
@[simp] theorem exec_vsfu (w fn d a s) : exec (.vsfu w fn d a) s = execVsfu w fn d a s := rfl
@[simp] theorem exec_strmOn (w d a s) : exec (.strmOn w d a) s = execStrmOn w d a s := rfl
@[simp] theorem exec_strmOff (w d s) : exec (.strmOff w d) s = execStrmOff w d s := rfl
@[simp] theorem exec_vmsk (w o d a b s) : exec (.vmsk w o d a b) s = execVmsk w o d a b s := rfl
@[simp] theorem exec_mmaqq (w d a s) : exec (.mmaqq w d a) s = execMmaqq w d a s := rfl
@[simp] theorem exec_mmahh (w d a s) : exec (.mmahh w d a) s = execMmahh w d a s := rfl
@[simp] theorem exec_mmann (w d a s) : exec (.mmann w d a) s = execMmann w d a s := rfl
@[simp] theorem exec_mzero (w a s) : exec (.mzero w a) s = execMzero w a s := rfl
@[simp] theorem exec_mwait (w d a s) : exec (.mwait w d a) s = execMwait w d a s := rfl
@[simp] theorem exec_mpoll (w d a s) : exec (.mpoll w d a) s = execMpoll w d a s := rfl
@[simp] theorem exec_mtbl (w pair a s) : exec (.mtbl w pair a) s = execMtbl w pair a s := rfl
@[simp] theorem exec_mlsf (w d a b s) : exec (.mlsf w d a b) s = execMlsf w d a b s := rfl
@[simp] theorem exec_mst (w d a b s) : exec (.mst w d a b) s = execMst w d a b s := rfl
@[simp] theorem exec_copy (w d a s) : exec (.copy w d a) s = execCopy w d a s := rfl
@[simp] theorem exec_cwait (w d a s) : exec (.cwait w d a) s = execCwait w d a s := rfl
@[simp] theorem exec_cpoll (w d a s) : exec (.cpoll w d a) s = execCpoll w d a s := rfl
@[simp] theorem exec_bwait (w st a s) : exec (.bwait w st a) s = execBwait w st a s := rfl
@[simp] theorem exec_bset (w st a s) : exec (.bset w st a) s = execBset w st a s := rfl
@[simp] theorem exec_bstat (w d a s) : exec (.bstat w d a) s = execBstat w d a s := rfl
@[simp] theorem exec_gcall (w d a b s) : exec (.gcall w d a b) s = execGcall w d a b s := rfl
@[simp] theorem exec_gret (w s) : exec (.gret w) s = execGret w s := rfl
@[simp] theorem exec_dsr (w d a f s) : exec (.dsr w d a f) s = execDsr w d a f s := rfl
@[simp] theorem exec_cue (w d a s) : exec (.cue w d a) s = execCue w d a s := rfl
@[simp] theorem exec_emit (w a b s) : exec (.emit w a b) s = execEmit w a b s := rfl
@[simp] theorem exec_rng (w d a b s) : exec (.rng w d a b) s = execRng w d a b s := rfl
@[simp] theorem exec_hpost (w a b s) : exec (.hpost w a b) s = execHpost w a b s := rfl
@[simp] theorem exec_mret (w s) : exec (.mret w) s = execMret w s := rfl
@[simp] theorem exec_invpg (w a b s) : exec (.invpg w a b) s = execInvpg w a b s := rfl
@[simp] theorem exec_keyld (w a b s) : exec (.keyld w a b) s = execKeyld w a b s := rfl
@[simp] theorem exec_keyz (w a s) : exec (.keyz w a) s = execKeyz w a s := rfl
@[simp] theorem exec_ctxsv (w a b s) : exec (.ctxsv w a b) s = execCtxsv w a b s := rfl
@[simp] theorem exec_ctxld (w a b s) : exec (.ctxld w a b) s = execCtxld w a b s := rfl
@[simp] theorem exec_halt (w s) : exec (.halt w) s = execHalt w s := rfl
@[simp] theorem exec_hrel (w a s) : exec (.hrel w a) s = execHrel w a s := rfl
@[simp] theorem exec_waitpQ (rd s) : exec (.waitpQ rd) s = execWaitpQ rd s := rfl
@[simp] theorem exec_waitpGeu (rd rs1 rs2 s) : exec (.waitpGeu rd rs1 rs2) s = execWaitpGeu rd rs1 rs2 s := rfl
@[simp] theorem exec_waitpNe (rd rs1 rs2 s) : exec (.waitpNe rd rs1 rs2) s = execWaitpNe rd rs1 rs2 s := rfl
@[simp] theorem exec_messageArrival (n s) : exec (.messageArrival n) s = execMessageArrival n s := rfl
@[simp] theorem exec_refusalArrival (n s) : exec (.refusalArrival n) s = execRefusalArrival n s := rfl
@[simp] theorem exec_refusalRetry (core s) : exec (.refusalRetry core) s = execRefusalRetry core s := rfl
@[simp] theorem exec_activationStart (core s) : exec (.activationStart core) s = execActivationStart core s := rfl
@[simp] theorem exec_theftAttempt (core s) : exec (.theftAttempt core) s = execTheftAttempt core s := rfl
@[simp] theorem exec_activationEnd (core ctx s) : exec (.activationEnd core ctx) s = execActivationEnd core ctx s := rfl
@[simp] theorem exec_longResultReturn (core ctx s) : exec (.longResultReturn core ctx) s = execLongResultReturn core ctx s := rfl
@[simp] theorem exec_storeBufferDrain (core ctx n s) :
    exec (.storeBufferDrain core ctx n) s = execStoreBufferDrain core ctx n s := rfl
@[simp] theorem exec_verificationResolve (core ctx s) :
    exec (.verificationResolve core ctx) s = execVerificationResolve core ctx s := rfl
@[simp] theorem exec_outboxSend (core ctx s) : exec (.outboxSend core ctx) s = execOutboxSend core ctx s := rfl
@[simp] theorem exec_streamHalt (core slot s) : exec (.streamHalt core slot) s = execStreamHalt core slot s := rfl
@[simp] theorem exec_tdecHome (n s) : exec (.tdecHome n) s = execTdecHome n s := rfl
@[simp] theorem exec_fpEvent (core ctx s) : exec (.fpEvent core ctx) s = execFpEvent core ctx s := rfl
@[simp] theorem exec_fpNoticeRetry (core ctx s) : exec (.fpNoticeRetry core ctx) s = execFpNoticeRetry core ctx s := rfl
@[simp] theorem exec_fpResume (core s) : exec (.fpResume core) s = execFpResume core s := rfl
@[simp] theorem exec_fpKill (core s) : exec (.fpKill core) s = execFpKill core s := rfl
@[simp] theorem exec_mmodeEntry (core s) : exec (.mmodeEntry core) s = execMmodeEntry core s := rfl
@[simp] theorem exec_preemptionNotice (core mask s) :
    exec (.preemptionNotice core mask) s = execPreemptionNotice core mask s := rfl
@[simp] theorem exec_pmreqStop (core mask s) : exec (.pmreqStop core mask) s = execPmreqStop core mask s := rfl
@[simp] theorem exec_safePointStop (core ctx s) : exec (.safePointStop core ctx) s = execSafePointStop core ctx s := rfl
@[simp] theorem exec_forcedStop (core s) : exec (.forcedStop core) s = execForcedStop core s := rfl
@[simp] theorem exec_pmreqFree (core mask s) : exec (.pmreqFree core mask) s = execPmreqFree core mask s := rfl
@[simp] theorem exec_budgetExhausted (core s) : exec (.budgetExhausted core) s = execBudgetExhausted core s := rfl
@[simp] theorem exec_budgetWindowStart (region s) : exec (.budgetWindowStart region) s = execBudgetWindowStart region s := rfl
@[simp] theorem exec_chargeFold (region s) : exec (.chargeFold region) s = execChargeFold region s := rfl
@[simp] theorem exec_ceilingExpiry (core ctx s) : exec (.ceilingExpiry core ctx) s = execCeilingExpiry core ctx s := rfl
@[simp] theorem exec_rollback (core ctx persist s) : exec (.rollback core ctx persist) s = execRollback core ctx persist s := rfl
@[simp] theorem exec_patrolScrub (pa o s) : exec (.patrolScrub pa o) s = execPatrolScrub pa o s := rfl
@[simp] theorem exec_matrixJobStart (troupe s) : exec (.matrixJobStart troupe) s = execMatrixJobStart troupe s := rfl
@[simp] theorem exec_rowGroupCommit (troupe mismatches s) :
    exec (.rowGroupCommit troupe mismatches) s = execRowGroupCommit troupe mismatches s := rfl
@[simp] theorem exec_mzeroEntryRun (troupe s) : exec (.mzeroEntryRun troupe) s = execMzeroEntryRun troupe s := rfl
@[simp] theorem exec_mtblEntryRun (troupe s) : exec (.mtblEntryRun troupe) s = execMtblEntryRun troupe s := rfl
@[simp] theorem exec_mstEntryRun (troupe s) : exec (.mstEntryRun troupe) s = execMstEntryRun troupe s := rfl
@[simp] theorem exec_completionRetry (troupe s) : exec (.completionRetry troupe) s = execCompletionRetry troupe s := rfl
@[simp] theorem exec_enginePageFault (troupe copySide s) :
    exec (.enginePageFault troupe copySide) s = execEnginePageFault troupe copySide s := rfl
@[simp] theorem exec_faultRewalk (troupe copySide s) :
    exec (.faultRewalk troupe copySide) s = execFaultRewalk troupe copySide s := rfl
@[simp] theorem exec_faultTimeout (troupe copySide s) :
    exec (.faultTimeout troupe copySide) s = execFaultTimeout troupe copySide s := rfl
@[simp] theorem exec_faultNoticeRetry (troupe copySide s) :
    exec (.faultNoticeRetry troupe copySide) s = execFaultNoticeRetry troupe copySide s := rfl
@[simp] theorem exec_copyJobStart (troupe s) : exec (.copyJobStart troupe) s = execCopyJobStart troupe s := rfl
@[simp] theorem exec_copyJobRetire (troupe link s) : exec (.copyJobRetire troupe link) s = execCopyJobRetire troupe link s := rfl
@[simp] theorem exec_streamStripFetch (core ctx reg s) :
    exec (.streamStripFetch core ctx reg) s = execStreamStripFetch core ctx reg s := rfl
@[simp] theorem exec_pageWalk (core tag va s) : exec (.pageWalk core tag va) s = execPageWalk core tag va s := rfl
@[simp] theorem exec_shootdownGo (cluster writer w s) :
    exec (.shootdownGo cluster writer w) s = execShootdownGo cluster writer w s := rfl
@[simp] theorem exec_shootdownComplete (cluster s) : exec (.shootdownComplete cluster) s = execShootdownComplete cluster s := rfl
@[simp] theorem exec_cueFlitSend (die slot s) : exec (.cueFlitSend die slot) s = execCueFlitSend die slot s := rfl
@[simp] theorem exec_cueAck (die slot endpoint m s) :
    exec (.cueAck die slot endpoint m) s = execCueAck die slot endpoint m s := rfl
@[simp] theorem exec_cueFlitResend (die slot s) : exec (.cueFlitResend die slot) s = execCueFlitResend die slot s := rfl
@[simp] theorem exec_queueDoorbell (q tail s) : exec (.queueDoorbell q tail) s = execQueueDoorbell q tail s := rfl
@[simp] theorem exec_queueRun (q s) : exec (.queueRun q) s = execQueueRun q s := rfl
@[simp] theorem exec_packetFetch (die q s) : exec (.packetFetch die q) s = execPacketFetch die q s := rfl
@[simp] theorem exec_launch (die q s) : exec (.launch die q) s = execLaunch die q s := rfl
@[simp] theorem exec_launchRetry (die s) : exec (.launchRetry die) s = execLaunchRetry die s := rfl
@[simp] theorem exec_launchShareComplete (die n s) : exec (.launchShareComplete die n) s = execLaunchShareComplete die n s := rfl
@[simp] theorem exec_cond (die q s) : exec (.cond die q) s = execCond die q s := rfl
@[simp] theorem exec_wait (die q s) : exec (.wait die q) s = execWait die q s := rfl
@[simp] theorem exec_waitConditionMet (die q s) : exec (.waitConditionMet die q) s = execWaitConditionMet die q s := rfl
@[simp] theorem exec_signal (die q s) : exec (.signal die q) s = execSignal die q s := rfl
@[simp] theorem exec_queueFence (die q s) : exec (.queueFence die q) s = execQueueFence die q s := rfl
@[simp] theorem exec_queueFenceComplete (die q s) : exec (.queueFenceComplete die q) s = execQueueFenceComplete die q s := rfl
@[simp] theorem exec_copyHost (die q links s) : exec (.copyHost die q links) s = execCopyHost die q links s := rfl
@[simp] theorem exec_regionCreate (die q s) : exec (.regionCreate die q) s = execRegionCreate die q s := rfl
@[simp] theorem exec_regionKill (die q s) : exec (.regionKill die q) s = execRegionKill die q s := rfl
@[simp] theorem exec_domainCreate (die q tag s) : exec (.domainCreate die q tag) s = execDomainCreate die q tag s := rfl
@[simp] theorem exec_measure (die q s) : exec (.measure die q) s = execMeasure die q s := rfl
@[simp] theorem exec_lock (die q s) : exec (.lock die q) s = execLock die q s := rfl
@[simp] theorem exec_start (die q s) : exec (.start die q) s = execStart die q s := rfl
@[simp] theorem exec_attest (die q s) : exec (.attest die q) s = execAttest die q s := rfl
@[simp] theorem exec_teardown (die q s) : exec (.teardown die q) s = execTeardown die q s := rfl
@[simp] theorem exec_scrubPhaseDone (part s) : exec (.scrubPhaseDone part) s = execScrubPhaseDone part s := rfl
@[simp] theorem exec_register (die q s) : exec (.register die q) s = execRegister die q s := rfl
@[simp] theorem exec_reassign (die q s) : exec (.reassign die q) s = execReassign die q s := rfl
@[simp] theorem exec_trunc (die q s) : exec (.trunc die q) s = execTrunc die q s := rfl
@[simp] theorem exec_checkpoint (die q s) : exec (.checkpoint die q) s = execCheckpoint die q s := rfl
@[simp] theorem exec_checkpointQueueTimeout (s) : exec (.checkpointQueueTimeout) s = execCheckpointQueueTimeout s := rfl
@[simp] theorem exec_checkpointManifestAck (accepted s) :
    exec (.checkpointManifestAck accepted) s = execCheckpointManifestAck accepted s := rfl
@[simp] theorem exec_summary (die q s) : exec (.summary die q) s = execSummary die q s := rfl
@[simp] theorem exec_peerCopy (die q s) : exec (.peerCopy die q) s = execPeerCopy die q s := rfl
@[simp] theorem exec_assign (die q s) : exec (.assign die q) s = execAssign die q s := rfl
@[simp] theorem exec_setReplay (die q s) : exec (.setReplay die q) s = execSetReplay die q s := rfl
@[simp] theorem exec_clearReplay (die q s) : exec (.clearReplay die q) s = execClearReplay die q s := rfl
@[simp] theorem exec_completionHeadWrite (q head s) :
    exec (.completionHeadWrite q head) s = execCompletionHeadWrite q head s := rfl
@[simp] theorem exec_vectorFire (fn v s) : exec (.vectorFire fn v) s = execVectorFire fn v s := rfl
@[simp] theorem exec_hostMemAccess (fn pa write len s) :
    exec (.hostMemAccess fn pa write len) s = execHostMemAccess fn pa write len s := rfl
@[simp] theorem exec_flitReceive (link seq ack head crcOk s) :
    exec (.flitReceive link seq ack head crcOk) s = execFlitReceive link seq ack head crcOk s := rfl
@[simp] theorem exec_linkDown (link s) : exec (.linkDown link) s = execLinkDown link s := rfl
@[simp] theorem exec_peerWrite (link tag off data s) :
    exec (.peerWrite link tag off data) s = execPeerWrite link tag off data s := rfl
@[simp] theorem exec_peerRead (link tag off len s) : exec (.peerRead link tag off len) s = execPeerRead link tag off len s := rfl
@[simp] theorem exec_readData (link tag data s) : exec (.readData link tag data) s = execReadData link tag data s := rfl
@[simp] theorem exec_durableAck (link tag s) : exec (.durableAck link tag) s = execDurableAck link tag s := rfl
@[simp] theorem exec_linkStepGo (link s) : exec (.linkStepGo link) s = execLinkStepGo link s := rfl
@[simp] theorem exec_linkStepDone (link pass peer profiles s) :
    exec (.linkStepDone link pass peer profiles) s = execLinkStepDone link pass peer profiles s := rfl
@[simp] theorem exec_linkTrainRetry (link s) : exec (.linkTrainRetry link) s = execLinkTrainRetry link s := rfl
@[simp] theorem exec_linkDisable (link on s) : exec (.linkDisable link on) s = execLinkDisable link on s := rfl
@[simp] theorem exec_coldStart (s) : exec (.coldStart) s = execColdStart s := rfl
@[simp] theorem exec_warmPackageReset (s) : exec (.warmPackageReset) s = execWarmPackageReset s := rfl
@[simp] theorem exec_functionLevelReset (part s) : exec (.functionLevelReset part) s = execFunctionLevelReset part s := rfl
@[simp] theorem exec_railFault (s) : exec (.railFault) s = execRailFault s := rfl
@[simp] theorem exec_bootRecoveryGo (signed s) : exec (.bootRecoveryGo signed) s = execBootRecoveryGo signed s := rfl
@[simp] theorem exec_hbmStepGo (stack step s) : exec (.hbmStepGo stack step) s = execHbmStepGo stack step s := rfl
@[simp] theorem exec_hbmStepDone (stack pass data s) :
    exec (.hbmStepDone stack pass data) s = execHbmStepDone stack pass data s := rfl
@[simp] theorem exec_hbmRetrain (stack channel s) : exec (.hbmRetrain stack channel) s = execHbmRetrain stack channel s := rfl
@[simp] theorem exec_troupeAdmission (die s) : exec (.troupeAdmission die) s = execTroupeAdmission die s := rfl
@[simp] theorem exec_troupeIdle (troupe s) : exec (.troupeIdle troupe) s = execTroupeIdle troupe s := rfl
@[simp] theorem exec_throttleUpdate (avgw s) : exec (.throttleUpdate avgw) s = execThrottleUpdate avgw s := rfl
@[simp] theorem exec_clusterGateWrite (die w s) : exec (.clusterGateWrite die w) s = execClusterGateWrite die w s := rfl
@[simp] theorem exec_clusterWake (cluster s) : exec (.clusterWake cluster) s = execClusterWake cluster s := rfl
@[simp] theorem exec_windowEnableWrite (core k w s) :
    exec (.windowEnableWrite core k w) s = execWindowEnableWrite core k w s := rfl
@[simp] theorem exec_windowBoundWrite (core k limit w s) :
    exec (.windowBoundWrite core k limit w) s = execWindowBoundWrite core k limit w s := rfl
@[simp] theorem exec_errorInjectArm (core w s) : exec (.errorInjectArm core w) s = execErrorInjectArm core w s := rfl
@[simp] theorem exec_registerWrite (r w s) : exec (.registerWrite r w) s = execRegisterWrite r w s := rfl
@[simp] theorem exec_illegalInstruction (cause tval s) :
    exec (.illegalInstruction cause tval) s = execIllegalInstruction cause tval s := rfl
@[simp] theorem exec_fetchFault (cause addr s) : exec (.fetchFault cause addr) s = execFetchFault cause addr s := rfl
@[simp] theorem exec_mcall (w n s) : exec (.mcall w n) s = execMcall w n s := rfl
@[simp] theorem exec_vectorUnmask (fn v s) : exec (.vectorUnmask fn v) s = execVectorUnmask fn v s := rfl
@[simp] theorem exec_clusterSupplySettled (cluster s) :
    exec (.clusterSupplySettled cluster) s = execClusterSupplySettled cluster s := rfl
@[simp] theorem exec_memoryClearComplete (s) : exec (.memoryClearComplete) s = execMemoryClearComplete s := rfl

end Sys2Proof.Machine
end

