-- ==== Sys2Proof/Laws/State.lean ====
section
/-!
SUPPORT. What each update of the state leaves alone, field by field.
-/

namespace Sys2Proof.Machine

/-! ### State.setCore -/

@[simp] theorem State.setCore_clock (s : State) (c : CoreId) (x : Core) : (s.setCore c x).clock = s.clock := rfl
@[simp] theorem State.setCore_agenda (s : State) (c : CoreId) (x : Core) : (s.setCore c x).agenda = s.agenda := rfl
@[simp] theorem State.setCore_turn (s : State) (c : CoreId) (x : Core) : (s.setCore c x).turn = s.turn := rfl
@[simp] theorem State.setCore_fresh (s : State) (c : CoreId) (x : Core) : (s.setCore c x).fresh = s.fresh := rfl
@[simp] theorem State.setCore_mem (s : State) (c : CoreId) (x : Core) : (s.setCore c x).mem = s.mem := rfl
@[simp] theorem State.setCore_poison (s : State) (c : CoreId) (x : Core) : (s.setCore c x).poison = s.poison := rfl
@[simp] theorem State.setCore_spoilt (s : State) (c : CoreId) (x : Core) : (s.setCore c x).spoilt = s.spoilt := rfl
@[simp] theorem State.setCore_lines (s : State) (c : CoreId) (x : Core) : (s.setCore c x).lines = s.lines := rfl
@[simp] theorem State.setCore_frames (s : State) (c : CoreId) (x : Core) : (s.setCore c x).frames = s.frames := rfl
@[simp] theorem State.setCore_net (s : State) (c : CoreId) (x : Core) : (s.setCore c x).net = s.net := rfl
@[simp] theorem State.setCore_troupes (s : State) (c : CoreId) (x : Core) : (s.setCore c x).troupes = s.troupes := rfl
@[simp] theorem State.setCore_clusters (s : State) (c : CoreId) (x : Core) : (s.setCore c x).clusters = s.clusters := rfl
@[simp] theorem State.setCore_dies (s : State) (c : CoreId) (x : Core) : (s.setCore c x).dies = s.dies := rfl
@[simp] theorem State.setCore_regions (s : State) (c : CoreId) (x : Core) : (s.setCore c x).regions = s.regions := rfl
@[simp] theorem State.setCore_unfolded (s : State) (c : CoreId) (x : Core) : (s.setCore c x).unfolded = s.unfolded := rfl
@[simp] theorem State.setCore_domains (s : State) (c : CoreId) (x : Core) : (s.setCore c x).domains = s.domains := rfl
@[simp] theorem State.setCore_partitions (s : State) (c : CoreId) (x : Core) :
    (s.setCore c x).partitions = s.partitions := rfl
@[simp] theorem State.setCore_published (s : State) (c : CoreId) (x : Core) : (s.setCore c x).published = s.published := rfl
@[simp] theorem State.setCore_revoking (s : State) (c : CoreId) (x : Core) : (s.setCore c x).revoking = s.revoking := rfl
@[simp] theorem State.setCore_vectors (s : State) (c : CoreId) (x : Core) : (s.setCore c x).vectors = s.vectors := rfl
@[simp] theorem State.setCore_host (s : State) (c : CoreId) (x : Core) : (s.setCore c x).host = s.host := rfl

/-! ### State.updCore -/

@[simp] theorem State.updCore_clock (s : State) (c : CoreId) (f : Core → Core) : (s.updCore c f).clock = s.clock := rfl
@[simp] theorem State.updCore_agenda (s : State) (c : CoreId) (f : Core → Core) : (s.updCore c f).agenda = s.agenda := rfl
@[simp] theorem State.updCore_turn (s : State) (c : CoreId) (f : Core → Core) : (s.updCore c f).turn = s.turn := rfl
@[simp] theorem State.updCore_fresh (s : State) (c : CoreId) (f : Core → Core) : (s.updCore c f).fresh = s.fresh := rfl
@[simp] theorem State.updCore_mem (s : State) (c : CoreId) (f : Core → Core) : (s.updCore c f).mem = s.mem := rfl
@[simp] theorem State.updCore_poison (s : State) (c : CoreId) (f : Core → Core) : (s.updCore c f).poison = s.poison := rfl
@[simp] theorem State.updCore_spoilt (s : State) (c : CoreId) (f : Core → Core) : (s.updCore c f).spoilt = s.spoilt := rfl
@[simp] theorem State.updCore_lines (s : State) (c : CoreId) (f : Core → Core) : (s.updCore c f).lines = s.lines := rfl
@[simp] theorem State.updCore_frames (s : State) (c : CoreId) (f : Core → Core) : (s.updCore c f).frames = s.frames := rfl
@[simp] theorem State.updCore_net (s : State) (c : CoreId) (f : Core → Core) : (s.updCore c f).net = s.net := rfl
@[simp] theorem State.updCore_troupes (s : State) (c : CoreId) (f : Core → Core) : (s.updCore c f).troupes = s.troupes := rfl
@[simp] theorem State.updCore_clusters (s : State) (c : CoreId) (f : Core → Core) :
    (s.updCore c f).clusters = s.clusters := rfl
@[simp] theorem State.updCore_dies (s : State) (c : CoreId) (f : Core → Core) : (s.updCore c f).dies = s.dies := rfl
@[simp] theorem State.updCore_regions (s : State) (c : CoreId) (f : Core → Core) : (s.updCore c f).regions = s.regions := rfl
@[simp] theorem State.updCore_unfolded (s : State) (c : CoreId) (f : Core → Core) :
    (s.updCore c f).unfolded = s.unfolded := rfl
@[simp] theorem State.updCore_domains (s : State) (c : CoreId) (f : Core → Core) : (s.updCore c f).domains = s.domains := rfl
@[simp] theorem State.updCore_partitions (s : State) (c : CoreId) (f : Core → Core) :
    (s.updCore c f).partitions = s.partitions := rfl
@[simp] theorem State.updCore_published (s : State) (c : CoreId) (f : Core → Core) :
    (s.updCore c f).published = s.published := rfl
@[simp] theorem State.updCore_revoking (s : State) (c : CoreId) (f : Core → Core) :
    (s.updCore c f).revoking = s.revoking := rfl
@[simp] theorem State.updCore_vectors (s : State) (c : CoreId) (f : Core → Core) : (s.updCore c f).vectors = s.vectors := rfl
@[simp] theorem State.updCore_host (s : State) (c : CoreId) (f : Core → Core) : (s.updCore c f).host = s.host := rfl

/-! ### State.setTroupe -/

@[simp] theorem State.setTroupe_clock (s : State) (t : TroupeId) (x : Troupe) : (s.setTroupe t x).clock = s.clock := rfl
@[simp] theorem State.setTroupe_agenda (s : State) (t : TroupeId) (x : Troupe) : (s.setTroupe t x).agenda = s.agenda := rfl
@[simp] theorem State.setTroupe_turn (s : State) (t : TroupeId) (x : Troupe) : (s.setTroupe t x).turn = s.turn := rfl
@[simp] theorem State.setTroupe_fresh (s : State) (t : TroupeId) (x : Troupe) : (s.setTroupe t x).fresh = s.fresh := rfl
@[simp] theorem State.setTroupe_mem (s : State) (t : TroupeId) (x : Troupe) : (s.setTroupe t x).mem = s.mem := rfl
@[simp] theorem State.setTroupe_poison (s : State) (t : TroupeId) (x : Troupe) : (s.setTroupe t x).poison = s.poison := rfl
@[simp] theorem State.setTroupe_spoilt (s : State) (t : TroupeId) (x : Troupe) : (s.setTroupe t x).spoilt = s.spoilt := rfl
@[simp] theorem State.setTroupe_lines (s : State) (t : TroupeId) (x : Troupe) : (s.setTroupe t x).lines = s.lines := rfl
@[simp] theorem State.setTroupe_frames (s : State) (t : TroupeId) (x : Troupe) : (s.setTroupe t x).frames = s.frames := rfl
@[simp] theorem State.setTroupe_net (s : State) (t : TroupeId) (x : Troupe) : (s.setTroupe t x).net = s.net := rfl
@[simp] theorem State.setTroupe_cores (s : State) (t : TroupeId) (x : Troupe) : (s.setTroupe t x).cores = s.cores := rfl
@[simp] theorem State.setTroupe_clusters (s : State) (t : TroupeId) (x : Troupe) :
    (s.setTroupe t x).clusters = s.clusters := rfl
@[simp] theorem State.setTroupe_dies (s : State) (t : TroupeId) (x : Troupe) : (s.setTroupe t x).dies = s.dies := rfl
@[simp] theorem State.setTroupe_regions (s : State) (t : TroupeId) (x : Troupe) :
    (s.setTroupe t x).regions = s.regions := rfl
@[simp] theorem State.setTroupe_unfolded (s : State) (t : TroupeId) (x : Troupe) :
    (s.setTroupe t x).unfolded = s.unfolded := rfl
@[simp] theorem State.setTroupe_domains (s : State) (t : TroupeId) (x : Troupe) :
    (s.setTroupe t x).domains = s.domains := rfl
@[simp] theorem State.setTroupe_partitions (s : State) (t : TroupeId) (x : Troupe) :
    (s.setTroupe t x).partitions = s.partitions := rfl
@[simp] theorem State.setTroupe_published (s : State) (t : TroupeId) (x : Troupe) :
    (s.setTroupe t x).published = s.published := rfl
@[simp] theorem State.setTroupe_revoking (s : State) (t : TroupeId) (x : Troupe) :
    (s.setTroupe t x).revoking = s.revoking := rfl
@[simp] theorem State.setTroupe_vectors (s : State) (t : TroupeId) (x : Troupe) :
    (s.setTroupe t x).vectors = s.vectors := rfl
@[simp] theorem State.setTroupe_host (s : State) (t : TroupeId) (x : Troupe) : (s.setTroupe t x).host = s.host := rfl

/-! ### State.updTroupe -/

@[simp] theorem State.updTroupe_clock (s : State) (t : TroupeId) (f : Troupe → Troupe) :
    (s.updTroupe t f).clock = s.clock := rfl
@[simp] theorem State.updTroupe_agenda (s : State) (t : TroupeId) (f : Troupe → Troupe) :
    (s.updTroupe t f).agenda = s.agenda := rfl
@[simp] theorem State.updTroupe_turn (s : State) (t : TroupeId) (f : Troupe → Troupe) :
    (s.updTroupe t f).turn = s.turn := rfl
@[simp] theorem State.updTroupe_fresh (s : State) (t : TroupeId) (f : Troupe → Troupe) :
    (s.updTroupe t f).fresh = s.fresh := rfl
@[simp] theorem State.updTroupe_mem (s : State) (t : TroupeId) (f : Troupe → Troupe) : (s.updTroupe t f).mem = s.mem := rfl
@[simp] theorem State.updTroupe_poison (s : State) (t : TroupeId) (f : Troupe → Troupe) :
    (s.updTroupe t f).poison = s.poison := rfl
@[simp] theorem State.updTroupe_spoilt (s : State) (t : TroupeId) (f : Troupe → Troupe) :
    (s.updTroupe t f).spoilt = s.spoilt := rfl
@[simp] theorem State.updTroupe_lines (s : State) (t : TroupeId) (f : Troupe → Troupe) :
    (s.updTroupe t f).lines = s.lines := rfl
@[simp] theorem State.updTroupe_frames (s : State) (t : TroupeId) (f : Troupe → Troupe) :
    (s.updTroupe t f).frames = s.frames := rfl
@[simp] theorem State.updTroupe_net (s : State) (t : TroupeId) (f : Troupe → Troupe) : (s.updTroupe t f).net = s.net := rfl
@[simp] theorem State.updTroupe_cores (s : State) (t : TroupeId) (f : Troupe → Troupe) :
    (s.updTroupe t f).cores = s.cores := rfl
@[simp] theorem State.updTroupe_clusters (s : State) (t : TroupeId) (f : Troupe → Troupe) :
    (s.updTroupe t f).clusters = s.clusters := rfl
@[simp] theorem State.updTroupe_dies (s : State) (t : TroupeId) (f : Troupe → Troupe) :
    (s.updTroupe t f).dies = s.dies := rfl
@[simp] theorem State.updTroupe_regions (s : State) (t : TroupeId) (f : Troupe → Troupe) :
    (s.updTroupe t f).regions = s.regions := rfl
@[simp] theorem State.updTroupe_unfolded (s : State) (t : TroupeId) (f : Troupe → Troupe) :
    (s.updTroupe t f).unfolded = s.unfolded := rfl
@[simp] theorem State.updTroupe_domains (s : State) (t : TroupeId) (f : Troupe → Troupe) :
    (s.updTroupe t f).domains = s.domains := rfl
@[simp] theorem State.updTroupe_partitions (s : State) (t : TroupeId) (f : Troupe → Troupe) :
    (s.updTroupe t f).partitions = s.partitions := rfl
@[simp] theorem State.updTroupe_published (s : State) (t : TroupeId) (f : Troupe → Troupe) :
    (s.updTroupe t f).published = s.published := rfl
@[simp] theorem State.updTroupe_revoking (s : State) (t : TroupeId) (f : Troupe → Troupe) :
    (s.updTroupe t f).revoking = s.revoking := rfl
@[simp] theorem State.updTroupe_vectors (s : State) (t : TroupeId) (f : Troupe → Troupe) :
    (s.updTroupe t f).vectors = s.vectors := rfl
@[simp] theorem State.updTroupe_host (s : State) (t : TroupeId) (f : Troupe → Troupe) :
    (s.updTroupe t f).host = s.host := rfl

/-! ### State.setCluster -/

@[simp] theorem State.setCluster_clock (s : State) (c : ClusterId) (x : Cluster) : (s.setCluster c x).clock = s.clock := rfl
@[simp] theorem State.setCluster_agenda (s : State) (c : ClusterId) (x : Cluster) :
    (s.setCluster c x).agenda = s.agenda := rfl
@[simp] theorem State.setCluster_turn (s : State) (c : ClusterId) (x : Cluster) : (s.setCluster c x).turn = s.turn := rfl
@[simp] theorem State.setCluster_fresh (s : State) (c : ClusterId) (x : Cluster) : (s.setCluster c x).fresh = s.fresh := rfl
@[simp] theorem State.setCluster_mem (s : State) (c : ClusterId) (x : Cluster) : (s.setCluster c x).mem = s.mem := rfl
@[simp] theorem State.setCluster_poison (s : State) (c : ClusterId) (x : Cluster) :
    (s.setCluster c x).poison = s.poison := rfl
@[simp] theorem State.setCluster_spoilt (s : State) (c : ClusterId) (x : Cluster) :
    (s.setCluster c x).spoilt = s.spoilt := rfl
@[simp] theorem State.setCluster_lines (s : State) (c : ClusterId) (x : Cluster) : (s.setCluster c x).lines = s.lines := rfl
@[simp] theorem State.setCluster_frames (s : State) (c : ClusterId) (x : Cluster) :
    (s.setCluster c x).frames = s.frames := rfl
@[simp] theorem State.setCluster_net (s : State) (c : ClusterId) (x : Cluster) : (s.setCluster c x).net = s.net := rfl
@[simp] theorem State.setCluster_cores (s : State) (c : ClusterId) (x : Cluster) : (s.setCluster c x).cores = s.cores := rfl
@[simp] theorem State.setCluster_troupes (s : State) (c : ClusterId) (x : Cluster) :
    (s.setCluster c x).troupes = s.troupes := rfl
@[simp] theorem State.setCluster_dies (s : State) (c : ClusterId) (x : Cluster) : (s.setCluster c x).dies = s.dies := rfl
@[simp] theorem State.setCluster_regions (s : State) (c : ClusterId) (x : Cluster) :
    (s.setCluster c x).regions = s.regions := rfl
@[simp] theorem State.setCluster_unfolded (s : State) (c : ClusterId) (x : Cluster) :
    (s.setCluster c x).unfolded = s.unfolded := rfl
@[simp] theorem State.setCluster_domains (s : State) (c : ClusterId) (x : Cluster) :
    (s.setCluster c x).domains = s.domains := rfl
@[simp] theorem State.setCluster_partitions (s : State) (c : ClusterId) (x : Cluster) :
    (s.setCluster c x).partitions = s.partitions := rfl
@[simp] theorem State.setCluster_published (s : State) (c : ClusterId) (x : Cluster) :
    (s.setCluster c x).published = s.published := rfl
@[simp] theorem State.setCluster_revoking (s : State) (c : ClusterId) (x : Cluster) :
    (s.setCluster c x).revoking = s.revoking := rfl
@[simp] theorem State.setCluster_vectors (s : State) (c : ClusterId) (x : Cluster) :
    (s.setCluster c x).vectors = s.vectors := rfl
@[simp] theorem State.setCluster_host (s : State) (c : ClusterId) (x : Cluster) : (s.setCluster c x).host = s.host := rfl

/-! ### State.updCluster -/

@[simp] theorem State.updCluster_clock (s : State) (c : ClusterId) (f : Cluster → Cluster) :
    (s.updCluster c f).clock = s.clock := rfl
@[simp] theorem State.updCluster_agenda (s : State) (c : ClusterId) (f : Cluster → Cluster) :
    (s.updCluster c f).agenda = s.agenda := rfl
@[simp] theorem State.updCluster_turn (s : State) (c : ClusterId) (f : Cluster → Cluster) :
    (s.updCluster c f).turn = s.turn := rfl
@[simp] theorem State.updCluster_fresh (s : State) (c : ClusterId) (f : Cluster → Cluster) :
    (s.updCluster c f).fresh = s.fresh := rfl
@[simp] theorem State.updCluster_mem (s : State) (c : ClusterId) (f : Cluster → Cluster) :
    (s.updCluster c f).mem = s.mem := rfl
@[simp] theorem State.updCluster_poison (s : State) (c : ClusterId) (f : Cluster → Cluster) :
    (s.updCluster c f).poison = s.poison := rfl
@[simp] theorem State.updCluster_spoilt (s : State) (c : ClusterId) (f : Cluster → Cluster) :
    (s.updCluster c f).spoilt = s.spoilt := rfl
@[simp] theorem State.updCluster_lines (s : State) (c : ClusterId) (f : Cluster → Cluster) :
    (s.updCluster c f).lines = s.lines := rfl
@[simp] theorem State.updCluster_frames (s : State) (c : ClusterId) (f : Cluster → Cluster) :
    (s.updCluster c f).frames = s.frames := rfl
@[simp] theorem State.updCluster_net (s : State) (c : ClusterId) (f : Cluster → Cluster) :
    (s.updCluster c f).net = s.net := rfl
@[simp] theorem State.updCluster_cores (s : State) (c : ClusterId) (f : Cluster → Cluster) :
    (s.updCluster c f).cores = s.cores := rfl
@[simp] theorem State.updCluster_troupes (s : State) (c : ClusterId) (f : Cluster → Cluster) :
    (s.updCluster c f).troupes = s.troupes := rfl
@[simp] theorem State.updCluster_dies (s : State) (c : ClusterId) (f : Cluster → Cluster) :
    (s.updCluster c f).dies = s.dies := rfl
@[simp] theorem State.updCluster_regions (s : State) (c : ClusterId) (f : Cluster → Cluster) :
    (s.updCluster c f).regions = s.regions := rfl
@[simp] theorem State.updCluster_unfolded (s : State) (c : ClusterId) (f : Cluster → Cluster) :
    (s.updCluster c f).unfolded = s.unfolded := rfl
@[simp] theorem State.updCluster_domains (s : State) (c : ClusterId) (f : Cluster → Cluster) :
    (s.updCluster c f).domains = s.domains := rfl
@[simp] theorem State.updCluster_partitions (s : State) (c : ClusterId) (f : Cluster → Cluster) :
    (s.updCluster c f).partitions = s.partitions := rfl
@[simp] theorem State.updCluster_published (s : State) (c : ClusterId) (f : Cluster → Cluster) :
    (s.updCluster c f).published = s.published := rfl
@[simp] theorem State.updCluster_revoking (s : State) (c : ClusterId) (f : Cluster → Cluster) :
    (s.updCluster c f).revoking = s.revoking := rfl
@[simp] theorem State.updCluster_vectors (s : State) (c : ClusterId) (f : Cluster → Cluster) :
    (s.updCluster c f).vectors = s.vectors := rfl
@[simp] theorem State.updCluster_host (s : State) (c : ClusterId) (f : Cluster → Cluster) :
    (s.updCluster c f).host = s.host := rfl

/-! ### State.updDie -/

@[simp] theorem State.updDie_clock (s : State) (d : DieId) (f : Die → Die) : (s.updDie d f).clock = s.clock := rfl
@[simp] theorem State.updDie_agenda (s : State) (d : DieId) (f : Die → Die) : (s.updDie d f).agenda = s.agenda := rfl
@[simp] theorem State.updDie_turn (s : State) (d : DieId) (f : Die → Die) : (s.updDie d f).turn = s.turn := rfl
@[simp] theorem State.updDie_fresh (s : State) (d : DieId) (f : Die → Die) : (s.updDie d f).fresh = s.fresh := rfl
@[simp] theorem State.updDie_mem (s : State) (d : DieId) (f : Die → Die) : (s.updDie d f).mem = s.mem := rfl
@[simp] theorem State.updDie_poison (s : State) (d : DieId) (f : Die → Die) : (s.updDie d f).poison = s.poison := rfl
@[simp] theorem State.updDie_spoilt (s : State) (d : DieId) (f : Die → Die) : (s.updDie d f).spoilt = s.spoilt := rfl
@[simp] theorem State.updDie_lines (s : State) (d : DieId) (f : Die → Die) : (s.updDie d f).lines = s.lines := rfl
@[simp] theorem State.updDie_frames (s : State) (d : DieId) (f : Die → Die) : (s.updDie d f).frames = s.frames := rfl
@[simp] theorem State.updDie_net (s : State) (d : DieId) (f : Die → Die) : (s.updDie d f).net = s.net := rfl
@[simp] theorem State.updDie_cores (s : State) (d : DieId) (f : Die → Die) : (s.updDie d f).cores = s.cores := rfl
@[simp] theorem State.updDie_troupes (s : State) (d : DieId) (f : Die → Die) : (s.updDie d f).troupes = s.troupes := rfl
@[simp] theorem State.updDie_clusters (s : State) (d : DieId) (f : Die → Die) : (s.updDie d f).clusters = s.clusters := rfl
@[simp] theorem State.updDie_regions (s : State) (d : DieId) (f : Die → Die) : (s.updDie d f).regions = s.regions := rfl
@[simp] theorem State.updDie_unfolded (s : State) (d : DieId) (f : Die → Die) : (s.updDie d f).unfolded = s.unfolded := rfl
@[simp] theorem State.updDie_domains (s : State) (d : DieId) (f : Die → Die) : (s.updDie d f).domains = s.domains := rfl
@[simp] theorem State.updDie_partitions (s : State) (d : DieId) (f : Die → Die) :
    (s.updDie d f).partitions = s.partitions := rfl
@[simp] theorem State.updDie_published (s : State) (d : DieId) (f : Die → Die) :
    (s.updDie d f).published = s.published := rfl
@[simp] theorem State.updDie_revoking (s : State) (d : DieId) (f : Die → Die) : (s.updDie d f).revoking = s.revoking := rfl
@[simp] theorem State.updDie_vectors (s : State) (d : DieId) (f : Die → Die) : (s.updDie d f).vectors = s.vectors := rfl
@[simp] theorem State.updDie_host (s : State) (d : DieId) (f : Die → Die) : (s.updDie d f).host = s.host := rfl

/-! ### State.updHost -/

@[simp] theorem State.updHost_clock (s : State) (f : HostSide → HostSide) : (s.updHost f).clock = s.clock := rfl
@[simp] theorem State.updHost_agenda (s : State) (f : HostSide → HostSide) : (s.updHost f).agenda = s.agenda := rfl
@[simp] theorem State.updHost_turn (s : State) (f : HostSide → HostSide) : (s.updHost f).turn = s.turn := rfl
@[simp] theorem State.updHost_fresh (s : State) (f : HostSide → HostSide) : (s.updHost f).fresh = s.fresh := rfl
@[simp] theorem State.updHost_mem (s : State) (f : HostSide → HostSide) : (s.updHost f).mem = s.mem := rfl
@[simp] theorem State.updHost_poison (s : State) (f : HostSide → HostSide) : (s.updHost f).poison = s.poison := rfl
@[simp] theorem State.updHost_spoilt (s : State) (f : HostSide → HostSide) : (s.updHost f).spoilt = s.spoilt := rfl
@[simp] theorem State.updHost_lines (s : State) (f : HostSide → HostSide) : (s.updHost f).lines = s.lines := rfl
@[simp] theorem State.updHost_frames (s : State) (f : HostSide → HostSide) : (s.updHost f).frames = s.frames := rfl
@[simp] theorem State.updHost_net (s : State) (f : HostSide → HostSide) : (s.updHost f).net = s.net := rfl
@[simp] theorem State.updHost_cores (s : State) (f : HostSide → HostSide) : (s.updHost f).cores = s.cores := rfl
@[simp] theorem State.updHost_troupes (s : State) (f : HostSide → HostSide) : (s.updHost f).troupes = s.troupes := rfl
@[simp] theorem State.updHost_clusters (s : State) (f : HostSide → HostSide) : (s.updHost f).clusters = s.clusters := rfl
@[simp] theorem State.updHost_dies (s : State) (f : HostSide → HostSide) : (s.updHost f).dies = s.dies := rfl
@[simp] theorem State.updHost_regions (s : State) (f : HostSide → HostSide) : (s.updHost f).regions = s.regions := rfl
@[simp] theorem State.updHost_unfolded (s : State) (f : HostSide → HostSide) : (s.updHost f).unfolded = s.unfolded := rfl
@[simp] theorem State.updHost_domains (s : State) (f : HostSide → HostSide) : (s.updHost f).domains = s.domains := rfl
@[simp] theorem State.updHost_partitions (s : State) (f : HostSide → HostSide) :
    (s.updHost f).partitions = s.partitions := rfl
@[simp] theorem State.updHost_published (s : State) (f : HostSide → HostSide) : (s.updHost f).published = s.published := rfl
@[simp] theorem State.updHost_revoking (s : State) (f : HostSide → HostSide) : (s.updHost f).revoking = s.revoking := rfl
@[simp] theorem State.updHost_vectors (s : State) (f : HostSide → HostSide) : (s.updHost f).vectors = s.vectors := rfl

/-! ### State.setCtx -/

@[simp] theorem State.setCtx_clock (s : State) (c : CoreId) (k : BankId) (x : Context) :
    (s.setCtx c k x).clock = s.clock := rfl
@[simp] theorem State.setCtx_agenda (s : State) (c : CoreId) (k : BankId) (x : Context) :
    (s.setCtx c k x).agenda = s.agenda := rfl
@[simp] theorem State.setCtx_turn (s : State) (c : CoreId) (k : BankId) (x : Context) : (s.setCtx c k x).turn = s.turn := rfl
@[simp] theorem State.setCtx_fresh (s : State) (c : CoreId) (k : BankId) (x : Context) :
    (s.setCtx c k x).fresh = s.fresh := rfl
@[simp] theorem State.setCtx_mem (s : State) (c : CoreId) (k : BankId) (x : Context) : (s.setCtx c k x).mem = s.mem := rfl
@[simp] theorem State.setCtx_poison (s : State) (c : CoreId) (k : BankId) (x : Context) :
    (s.setCtx c k x).poison = s.poison := rfl
@[simp] theorem State.setCtx_spoilt (s : State) (c : CoreId) (k : BankId) (x : Context) :
    (s.setCtx c k x).spoilt = s.spoilt := rfl
@[simp] theorem State.setCtx_lines (s : State) (c : CoreId) (k : BankId) (x : Context) :
    (s.setCtx c k x).lines = s.lines := rfl
@[simp] theorem State.setCtx_frames (s : State) (c : CoreId) (k : BankId) (x : Context) :
    (s.setCtx c k x).frames = s.frames := rfl
@[simp] theorem State.setCtx_net (s : State) (c : CoreId) (k : BankId) (x : Context) : (s.setCtx c k x).net = s.net := rfl
@[simp] theorem State.setCtx_troupes (s : State) (c : CoreId) (k : BankId) (x : Context) :
    (s.setCtx c k x).troupes = s.troupes := rfl
@[simp] theorem State.setCtx_clusters (s : State) (c : CoreId) (k : BankId) (x : Context) :
    (s.setCtx c k x).clusters = s.clusters := rfl
@[simp] theorem State.setCtx_dies (s : State) (c : CoreId) (k : BankId) (x : Context) : (s.setCtx c k x).dies = s.dies := rfl
@[simp] theorem State.setCtx_regions (s : State) (c : CoreId) (k : BankId) (x : Context) :
    (s.setCtx c k x).regions = s.regions := rfl
@[simp] theorem State.setCtx_unfolded (s : State) (c : CoreId) (k : BankId) (x : Context) :
    (s.setCtx c k x).unfolded = s.unfolded := rfl
@[simp] theorem State.setCtx_domains (s : State) (c : CoreId) (k : BankId) (x : Context) :
    (s.setCtx c k x).domains = s.domains := rfl
@[simp] theorem State.setCtx_partitions (s : State) (c : CoreId) (k : BankId) (x : Context) :
    (s.setCtx c k x).partitions = s.partitions := rfl
@[simp] theorem State.setCtx_published (s : State) (c : CoreId) (k : BankId) (x : Context) :
    (s.setCtx c k x).published = s.published := rfl
@[simp] theorem State.setCtx_revoking (s : State) (c : CoreId) (k : BankId) (x : Context) :
    (s.setCtx c k x).revoking = s.revoking := rfl
@[simp] theorem State.setCtx_vectors (s : State) (c : CoreId) (k : BankId) (x : Context) :
    (s.setCtx c k x).vectors = s.vectors := rfl
@[simp] theorem State.setCtx_host (s : State) (c : CoreId) (k : BankId) (x : Context) : (s.setCtx c k x).host = s.host := rfl

/-! ### State.updCtx -/

@[simp] theorem State.updCtx_clock (s : State) (c : CoreId) (k : BankId) (f : Context → Context) :
    (s.updCtx c k f).clock = s.clock := rfl
@[simp] theorem State.updCtx_agenda (s : State) (c : CoreId) (k : BankId) (f : Context → Context) :
    (s.updCtx c k f).agenda = s.agenda := rfl
@[simp] theorem State.updCtx_turn (s : State) (c : CoreId) (k : BankId) (f : Context → Context) :
    (s.updCtx c k f).turn = s.turn := rfl
@[simp] theorem State.updCtx_fresh (s : State) (c : CoreId) (k : BankId) (f : Context → Context) :
    (s.updCtx c k f).fresh = s.fresh := rfl
@[simp] theorem State.updCtx_mem (s : State) (c : CoreId) (k : BankId) (f : Context → Context) :
    (s.updCtx c k f).mem = s.mem := rfl
@[simp] theorem State.updCtx_poison (s : State) (c : CoreId) (k : BankId) (f : Context → Context) :
    (s.updCtx c k f).poison = s.poison := rfl
@[simp] theorem State.updCtx_spoilt (s : State) (c : CoreId) (k : BankId) (f : Context → Context) :
    (s.updCtx c k f).spoilt = s.spoilt := rfl
@[simp] theorem State.updCtx_lines (s : State) (c : CoreId) (k : BankId) (f : Context → Context) :
    (s.updCtx c k f).lines = s.lines := rfl
@[simp] theorem State.updCtx_frames (s : State) (c : CoreId) (k : BankId) (f : Context → Context) :
    (s.updCtx c k f).frames = s.frames := rfl
@[simp] theorem State.updCtx_net (s : State) (c : CoreId) (k : BankId) (f : Context → Context) :
    (s.updCtx c k f).net = s.net := rfl
@[simp] theorem State.updCtx_troupes (s : State) (c : CoreId) (k : BankId) (f : Context → Context) :
    (s.updCtx c k f).troupes = s.troupes := rfl
@[simp] theorem State.updCtx_clusters (s : State) (c : CoreId) (k : BankId) (f : Context → Context) :
    (s.updCtx c k f).clusters = s.clusters := rfl
@[simp] theorem State.updCtx_dies (s : State) (c : CoreId) (k : BankId) (f : Context → Context) :
    (s.updCtx c k f).dies = s.dies := rfl
@[simp] theorem State.updCtx_regions (s : State) (c : CoreId) (k : BankId) (f : Context → Context) :
    (s.updCtx c k f).regions = s.regions := rfl
@[simp] theorem State.updCtx_unfolded (s : State) (c : CoreId) (k : BankId) (f : Context → Context) :
    (s.updCtx c k f).unfolded = s.unfolded := rfl
@[simp] theorem State.updCtx_domains (s : State) (c : CoreId) (k : BankId) (f : Context → Context) :
    (s.updCtx c k f).domains = s.domains := rfl
@[simp] theorem State.updCtx_partitions (s : State) (c : CoreId) (k : BankId) (f : Context → Context) :
    (s.updCtx c k f).partitions = s.partitions := rfl
@[simp] theorem State.updCtx_published (s : State) (c : CoreId) (k : BankId) (f : Context → Context) :
    (s.updCtx c k f).published = s.published := rfl
@[simp] theorem State.updCtx_revoking (s : State) (c : CoreId) (k : BankId) (f : Context → Context) :
    (s.updCtx c k f).revoking = s.revoking := rfl
@[simp] theorem State.updCtx_vectors (s : State) (c : CoreId) (k : BankId) (f : Context → Context) :
    (s.updCtx c k f).vectors = s.vectors := rfl
@[simp] theorem State.updCtx_host (s : State) (c : CoreId) (k : BankId) (f : Context → Context) :
    (s.updCtx c k f).host = s.host := rfl

/-! ### State.updMe -/

@[simp] theorem State.updMe_clock (s : State) (f : Context → Context) : (s.updMe f).clock = s.clock := rfl
@[simp] theorem State.updMe_agenda (s : State) (f : Context → Context) : (s.updMe f).agenda = s.agenda := rfl
@[simp] theorem State.updMe_turn (s : State) (f : Context → Context) : (s.updMe f).turn = s.turn := rfl
@[simp] theorem State.updMe_fresh (s : State) (f : Context → Context) : (s.updMe f).fresh = s.fresh := rfl
@[simp] theorem State.updMe_mem (s : State) (f : Context → Context) : (s.updMe f).mem = s.mem := rfl
@[simp] theorem State.updMe_poison (s : State) (f : Context → Context) : (s.updMe f).poison = s.poison := rfl
@[simp] theorem State.updMe_spoilt (s : State) (f : Context → Context) : (s.updMe f).spoilt = s.spoilt := rfl
@[simp] theorem State.updMe_lines (s : State) (f : Context → Context) : (s.updMe f).lines = s.lines := rfl
@[simp] theorem State.updMe_frames (s : State) (f : Context → Context) : (s.updMe f).frames = s.frames := rfl
@[simp] theorem State.updMe_net (s : State) (f : Context → Context) : (s.updMe f).net = s.net := rfl
@[simp] theorem State.updMe_troupes (s : State) (f : Context → Context) : (s.updMe f).troupes = s.troupes := rfl
@[simp] theorem State.updMe_clusters (s : State) (f : Context → Context) : (s.updMe f).clusters = s.clusters := rfl
@[simp] theorem State.updMe_dies (s : State) (f : Context → Context) : (s.updMe f).dies = s.dies := rfl
@[simp] theorem State.updMe_regions (s : State) (f : Context → Context) : (s.updMe f).regions = s.regions := rfl
@[simp] theorem State.updMe_unfolded (s : State) (f : Context → Context) : (s.updMe f).unfolded = s.unfolded := rfl
@[simp] theorem State.updMe_domains (s : State) (f : Context → Context) : (s.updMe f).domains = s.domains := rfl
@[simp] theorem State.updMe_partitions (s : State) (f : Context → Context) : (s.updMe f).partitions = s.partitions := rfl
@[simp] theorem State.updMe_published (s : State) (f : Context → Context) : (s.updMe f).published = s.published := rfl
@[simp] theorem State.updMe_revoking (s : State) (f : Context → Context) : (s.updMe f).revoking = s.revoking := rfl
@[simp] theorem State.updMe_vectors (s : State) (f : Context → Context) : (s.updMe f).vectors = s.vectors := rfl
@[simp] theorem State.updMe_host (s : State) (f : Context → Context) : (s.updMe f).host = s.host := rfl

/-! ### State.updRegs -/

@[simp] theorem State.updRegs_clock (s : State) (f : Regs → Regs) : (s.updRegs f).clock = s.clock := rfl
@[simp] theorem State.updRegs_agenda (s : State) (f : Regs → Regs) : (s.updRegs f).agenda = s.agenda := rfl
@[simp] theorem State.updRegs_turn (s : State) (f : Regs → Regs) : (s.updRegs f).turn = s.turn := rfl
@[simp] theorem State.updRegs_fresh (s : State) (f : Regs → Regs) : (s.updRegs f).fresh = s.fresh := rfl
@[simp] theorem State.updRegs_mem (s : State) (f : Regs → Regs) : (s.updRegs f).mem = s.mem := rfl
@[simp] theorem State.updRegs_poison (s : State) (f : Regs → Regs) : (s.updRegs f).poison = s.poison := rfl
@[simp] theorem State.updRegs_spoilt (s : State) (f : Regs → Regs) : (s.updRegs f).spoilt = s.spoilt := rfl
@[simp] theorem State.updRegs_lines (s : State) (f : Regs → Regs) : (s.updRegs f).lines = s.lines := rfl
@[simp] theorem State.updRegs_frames (s : State) (f : Regs → Regs) : (s.updRegs f).frames = s.frames := rfl
@[simp] theorem State.updRegs_net (s : State) (f : Regs → Regs) : (s.updRegs f).net = s.net := rfl
@[simp] theorem State.updRegs_troupes (s : State) (f : Regs → Regs) : (s.updRegs f).troupes = s.troupes := rfl
@[simp] theorem State.updRegs_clusters (s : State) (f : Regs → Regs) : (s.updRegs f).clusters = s.clusters := rfl
@[simp] theorem State.updRegs_dies (s : State) (f : Regs → Regs) : (s.updRegs f).dies = s.dies := rfl
@[simp] theorem State.updRegs_regions (s : State) (f : Regs → Regs) : (s.updRegs f).regions = s.regions := rfl
@[simp] theorem State.updRegs_unfolded (s : State) (f : Regs → Regs) : (s.updRegs f).unfolded = s.unfolded := rfl
@[simp] theorem State.updRegs_domains (s : State) (f : Regs → Regs) : (s.updRegs f).domains = s.domains := rfl
@[simp] theorem State.updRegs_partitions (s : State) (f : Regs → Regs) : (s.updRegs f).partitions = s.partitions := rfl
@[simp] theorem State.updRegs_published (s : State) (f : Regs → Regs) : (s.updRegs f).published = s.published := rfl
@[simp] theorem State.updRegs_revoking (s : State) (f : Regs → Regs) : (s.updRegs f).revoking = s.revoking := rfl
@[simp] theorem State.updRegs_vectors (s : State) (f : Regs → Regs) : (s.updRegs f).vectors = s.vectors := rfl
@[simp] theorem State.updRegs_host (s : State) (f : Regs → Regs) : (s.updRegs f).host = s.host := rfl

/-! ### State.updDom -/

@[simp] theorem State.updDom_clock (s : State) (c : CoreId) (t : Tag) (f : DomState → DomState) :
    (s.updDom c t f).clock = s.clock := rfl
@[simp] theorem State.updDom_agenda (s : State) (c : CoreId) (t : Tag) (f : DomState → DomState) :
    (s.updDom c t f).agenda = s.agenda := rfl
@[simp] theorem State.updDom_turn (s : State) (c : CoreId) (t : Tag) (f : DomState → DomState) :
    (s.updDom c t f).turn = s.turn := rfl
@[simp] theorem State.updDom_fresh (s : State) (c : CoreId) (t : Tag) (f : DomState → DomState) :
    (s.updDom c t f).fresh = s.fresh := rfl
@[simp] theorem State.updDom_mem (s : State) (c : CoreId) (t : Tag) (f : DomState → DomState) :
    (s.updDom c t f).mem = s.mem := rfl
@[simp] theorem State.updDom_poison (s : State) (c : CoreId) (t : Tag) (f : DomState → DomState) :
    (s.updDom c t f).poison = s.poison := rfl
@[simp] theorem State.updDom_spoilt (s : State) (c : CoreId) (t : Tag) (f : DomState → DomState) :
    (s.updDom c t f).spoilt = s.spoilt := rfl
@[simp] theorem State.updDom_lines (s : State) (c : CoreId) (t : Tag) (f : DomState → DomState) :
    (s.updDom c t f).lines = s.lines := rfl
@[simp] theorem State.updDom_frames (s : State) (c : CoreId) (t : Tag) (f : DomState → DomState) :
    (s.updDom c t f).frames = s.frames := rfl
@[simp] theorem State.updDom_net (s : State) (c : CoreId) (t : Tag) (f : DomState → DomState) :
    (s.updDom c t f).net = s.net := rfl
@[simp] theorem State.updDom_troupes (s : State) (c : CoreId) (t : Tag) (f : DomState → DomState) :
    (s.updDom c t f).troupes = s.troupes := rfl
@[simp] theorem State.updDom_clusters (s : State) (c : CoreId) (t : Tag) (f : DomState → DomState) :
    (s.updDom c t f).clusters = s.clusters := rfl
@[simp] theorem State.updDom_dies (s : State) (c : CoreId) (t : Tag) (f : DomState → DomState) :
    (s.updDom c t f).dies = s.dies := rfl
@[simp] theorem State.updDom_regions (s : State) (c : CoreId) (t : Tag) (f : DomState → DomState) :
    (s.updDom c t f).regions = s.regions := rfl
@[simp] theorem State.updDom_unfolded (s : State) (c : CoreId) (t : Tag) (f : DomState → DomState) :
    (s.updDom c t f).unfolded = s.unfolded := rfl
@[simp] theorem State.updDom_domains (s : State) (c : CoreId) (t : Tag) (f : DomState → DomState) :
    (s.updDom c t f).domains = s.domains := rfl
@[simp] theorem State.updDom_partitions (s : State) (c : CoreId) (t : Tag) (f : DomState → DomState) :
    (s.updDom c t f).partitions = s.partitions := rfl
@[simp] theorem State.updDom_published (s : State) (c : CoreId) (t : Tag) (f : DomState → DomState) :
    (s.updDom c t f).published = s.published := rfl
@[simp] theorem State.updDom_revoking (s : State) (c : CoreId) (t : Tag) (f : DomState → DomState) :
    (s.updDom c t f).revoking = s.revoking := rfl
@[simp] theorem State.updDom_vectors (s : State) (c : CoreId) (t : Tag) (f : DomState → DomState) :
    (s.updDom c t f).vectors = s.vectors := rfl
@[simp] theorem State.updDom_host (s : State) (c : CoreId) (t : Tag) (f : DomState → DomState) :
    (s.updDom c t f).host = s.host := rfl

/-! ### State.writePhys: a write to physical memory changes memory, poison, the lines' records and the save frames -/

theorem State.touchLine_eq (s : State) (key : Option EngineKey) (line : Nat) :
    ∃ m l, s.touchLine key line = { s with mem := m, lines := l } := by
  unfold State.touchLine
  split
  · exact ⟨_, _, rfl⟩
  · exact ⟨s.mem, s.lines, rfl⟩

theorem State.touchLines_eq (key : Option EngineKey) (lines : List Nat) (s : State) :
    ∃ m l, lines.foldl (fun s line => s.touchLine key line) s = { s with mem := m, lines := l } := by
  induction lines generalizing s with
  | nil => exact ⟨s.mem, s.lines, rfl⟩
  | cons x t ih =>
    obtain ⟨m, l, h⟩ := s.touchLine_eq key x
    rw [List.foldl_cons, h]
    obtain ⟨m', l', h'⟩ := ih { s with mem := m, lines := l }
    exact ⟨m', l', h'⟩

theorem State.writePhys_eq (s : State) (pa : Nat) (bs : List Byte) (prot : Option Tag) :
    ∃ m p l f, s.writePhys pa bs prot = { s with mem := m, poison := p, lines := l, frames := f } := by
  unfold State.writePhys
  dsimp only
  split
  · exact ⟨s.mem, s.poison, s.lines, s.frames, rfl⟩
  · obtain ⟨m, l, h⟩ := State.touchLines_eq (prot.bind (fun t => s.engineKey pa t)) (linesOf pa bs.length) s
    rw [h]
    exact ⟨_, _, _, _, rfl⟩

@[simp] theorem State.writePhys_clock (s : State) (pa : Nat) (bs : List Byte) (prot : Option Tag) :
    (s.writePhys pa bs prot).clock = s.clock := by
  obtain ⟨m, p, l, f, h⟩ := s.writePhys_eq pa bs prot; rw [h]
@[simp] theorem State.writePhys_agenda (s : State) (pa : Nat) (bs : List Byte) (prot : Option Tag) :
    (s.writePhys pa bs prot).agenda = s.agenda := by
  obtain ⟨m, p, l, f, h⟩ := s.writePhys_eq pa bs prot; rw [h]
@[simp] theorem State.writePhys_turn (s : State) (pa : Nat) (bs : List Byte) (prot : Option Tag) :
    (s.writePhys pa bs prot).turn = s.turn := by
  obtain ⟨m, p, l, f, h⟩ := s.writePhys_eq pa bs prot; rw [h]
@[simp] theorem State.writePhys_fresh (s : State) (pa : Nat) (bs : List Byte) (prot : Option Tag) :
    (s.writePhys pa bs prot).fresh = s.fresh := by
  obtain ⟨m, p, l, f, h⟩ := s.writePhys_eq pa bs prot; rw [h]
@[simp] theorem State.writePhys_spoilt (s : State) (pa : Nat) (bs : List Byte) (prot : Option Tag) :
    (s.writePhys pa bs prot).spoilt = s.spoilt := by
  obtain ⟨m, p, l, f, h⟩ := s.writePhys_eq pa bs prot; rw [h]
@[simp] theorem State.writePhys_net (s : State) (pa : Nat) (bs : List Byte) (prot : Option Tag) :
    (s.writePhys pa bs prot).net = s.net := by
  obtain ⟨m, p, l, f, h⟩ := s.writePhys_eq pa bs prot; rw [h]
@[simp] theorem State.writePhys_cores (s : State) (pa : Nat) (bs : List Byte) (prot : Option Tag) :
    (s.writePhys pa bs prot).cores = s.cores := by
  obtain ⟨m, p, l, f, h⟩ := s.writePhys_eq pa bs prot; rw [h]
@[simp] theorem State.writePhys_troupes (s : State) (pa : Nat) (bs : List Byte) (prot : Option Tag) :
    (s.writePhys pa bs prot).troupes = s.troupes := by
  obtain ⟨m, p, l, f, h⟩ := s.writePhys_eq pa bs prot; rw [h]
@[simp] theorem State.writePhys_clusters (s : State) (pa : Nat) (bs : List Byte) (prot : Option Tag) :
    (s.writePhys pa bs prot).clusters = s.clusters := by
  obtain ⟨m, p, l, f, h⟩ := s.writePhys_eq pa bs prot; rw [h]
@[simp] theorem State.writePhys_dies (s : State) (pa : Nat) (bs : List Byte) (prot : Option Tag) :
    (s.writePhys pa bs prot).dies = s.dies := by
  obtain ⟨m, p, l, f, h⟩ := s.writePhys_eq pa bs prot; rw [h]
@[simp] theorem State.writePhys_regions (s : State) (pa : Nat) (bs : List Byte) (prot : Option Tag) :
    (s.writePhys pa bs prot).regions = s.regions := by
  obtain ⟨m, p, l, f, h⟩ := s.writePhys_eq pa bs prot; rw [h]
@[simp] theorem State.writePhys_unfolded (s : State) (pa : Nat) (bs : List Byte) (prot : Option Tag) :
    (s.writePhys pa bs prot).unfolded = s.unfolded := by
  obtain ⟨m, p, l, f, h⟩ := s.writePhys_eq pa bs prot; rw [h]
@[simp] theorem State.writePhys_domains (s : State) (pa : Nat) (bs : List Byte) (prot : Option Tag) :
    (s.writePhys pa bs prot).domains = s.domains := by
  obtain ⟨m, p, l, f, h⟩ := s.writePhys_eq pa bs prot; rw [h]
@[simp] theorem State.writePhys_partitions (s : State) (pa : Nat) (bs : List Byte) (prot : Option Tag) :
    (s.writePhys pa bs prot).partitions = s.partitions := by
  obtain ⟨m, p, l, f, h⟩ := s.writePhys_eq pa bs prot; rw [h]
@[simp] theorem State.writePhys_published (s : State) (pa : Nat) (bs : List Byte) (prot : Option Tag) :
    (s.writePhys pa bs prot).published = s.published := by
  obtain ⟨m, p, l, f, h⟩ := s.writePhys_eq pa bs prot; rw [h]
@[simp] theorem State.writePhys_revoking (s : State) (pa : Nat) (bs : List Byte) (prot : Option Tag) :
    (s.writePhys pa bs prot).revoking = s.revoking := by
  obtain ⟨m, p, l, f, h⟩ := s.writePhys_eq pa bs prot; rw [h]
@[simp] theorem State.writePhys_vectors (s : State) (pa : Nat) (bs : List Byte) (prot : Option Tag) :
    (s.writePhys pa bs prot).vectors = s.vectors := by
  obtain ⟨m, p, l, f, h⟩ := s.writePhys_eq pa bs prot; rw [h]
@[simp] theorem State.writePhys_host (s : State) (pa : Nat) (bs : List Byte) (prot : Option Tag) :
    (s.writePhys pa bs prot).host = s.host := by
  obtain ⟨m, p, l, f, h⟩ := s.writePhys_eq pa bs prot; rw [h]

/-! ### State.setSlot -/

@[simp] theorem State.setSlot_clock (s : State) (pa k : Nat) (w : Word) :
    (s.setSlot pa k w).clock = s.clock :=
  State.writePhys_clock ..
@[simp] theorem State.setSlot_agenda (s : State) (pa k : Nat) (w : Word) :
    (s.setSlot pa k w).agenda = s.agenda :=
  State.writePhys_agenda ..
@[simp] theorem State.setSlot_turn (s : State) (pa k : Nat) (w : Word) :
    (s.setSlot pa k w).turn = s.turn :=
  State.writePhys_turn ..
@[simp] theorem State.setSlot_fresh (s : State) (pa k : Nat) (w : Word) :
    (s.setSlot pa k w).fresh = s.fresh :=
  State.writePhys_fresh ..
@[simp] theorem State.setSlot_spoilt (s : State) (pa k : Nat) (w : Word) :
    (s.setSlot pa k w).spoilt = s.spoilt :=
  State.writePhys_spoilt ..
@[simp] theorem State.setSlot_net (s : State) (pa k : Nat) (w : Word) :
    (s.setSlot pa k w).net = s.net :=
  State.writePhys_net ..
@[simp] theorem State.setSlot_cores (s : State) (pa k : Nat) (w : Word) :
    (s.setSlot pa k w).cores = s.cores :=
  State.writePhys_cores ..
@[simp] theorem State.setSlot_troupes (s : State) (pa k : Nat) (w : Word) :
    (s.setSlot pa k w).troupes = s.troupes :=
  State.writePhys_troupes ..
@[simp] theorem State.setSlot_clusters (s : State) (pa k : Nat) (w : Word) :
    (s.setSlot pa k w).clusters = s.clusters :=
  State.writePhys_clusters ..
@[simp] theorem State.setSlot_dies (s : State) (pa k : Nat) (w : Word) :
    (s.setSlot pa k w).dies = s.dies :=
  State.writePhys_dies ..
@[simp] theorem State.setSlot_regions (s : State) (pa k : Nat) (w : Word) :
    (s.setSlot pa k w).regions = s.regions :=
  State.writePhys_regions ..
@[simp] theorem State.setSlot_unfolded (s : State) (pa k : Nat) (w : Word) :
    (s.setSlot pa k w).unfolded = s.unfolded :=
  State.writePhys_unfolded ..
@[simp] theorem State.setSlot_domains (s : State) (pa k : Nat) (w : Word) :
    (s.setSlot pa k w).domains = s.domains :=
  State.writePhys_domains ..
@[simp] theorem State.setSlot_partitions (s : State) (pa k : Nat) (w : Word) :
    (s.setSlot pa k w).partitions = s.partitions :=
  State.writePhys_partitions ..
@[simp] theorem State.setSlot_published (s : State) (pa k : Nat) (w : Word) :
    (s.setSlot pa k w).published = s.published :=
  State.writePhys_published ..
@[simp] theorem State.setSlot_revoking (s : State) (pa k : Nat) (w : Word) :
    (s.setSlot pa k w).revoking = s.revoking :=
  State.writePhys_revoking ..
@[simp] theorem State.setSlot_vectors (s : State) (pa k : Nat) (w : Word) :
    (s.setSlot pa k w).vectors = s.vectors :=
  State.writePhys_vectors ..
@[simp] theorem State.setSlot_host (s : State) (pa k : Nat) (w : Word) :
    (s.setSlot pa k w).host = s.host :=
  State.writePhys_host ..

end Sys2Proof.Machine
end

