-- ==== Sys2Proof/Laws/Homes.lean ====
section
/-!
SUPPORT. Lists by number, and what reading a core, a context, a troupe or a cluster gives after an update of one.
-/

namespace Sys2Proof.Machine

/-! ### Lists by number -/

@[simp] theorem lookup_insert_same {α : Type} (l : List (Nat × α)) (n : Nat) (v : α) : lookup (insert l n v) n = some v := by
  induction l with
  | nil => simp [insert, lookup]
  | cons e t ih =>
    obtain ⟨k, x⟩ := e
    simp only [insert]
    split
    · simp [lookup]
    · split
      · simp [lookup]
      · simp only [lookup]
        rw [if_neg (by omega), ih]

theorem lookup_insert_ne {α : Type} (l : List (Nat × α)) {n m : Nat} (v : α) (h : n ≠ m) :
    lookup (insert l n v) m = lookup l m := by
  induction l with
  | nil => simp [insert, lookup, h]
  | cons e t ih =>
    obtain ⟨k, x⟩ := e
    simp only [insert]
    split
    · simp [lookup, h]
    · split
      · subst_vars; simp [lookup, h]
      · simp only [lookup, ih]

/-! ### Cores -/

@[simp] theorem core_setCore_same (s : State) (c : CoreId) (x : Core) : (s.setCore c x).core c = x := by
  simp [State.core, State.setCore]

theorem core_setCore_ne (s : State) {c d : CoreId} (x : Core) (h : c ≠ d) : (s.setCore c x).core d = s.core d := by
  simp only [State.core, State.setCore]
  rw [lookup_insert_ne _ _ (fun e => h (Fin.ext e))]

@[simp] theorem core_updCore_same (s : State) (c : CoreId) (f : Core → Core) : (s.updCore c f).core c = f (s.core c) :=
  core_setCore_same ..

theorem core_updCore_ne (s : State) {c d : CoreId} (f : Core → Core) (h : c ≠ d) : (s.updCore c f).core d = s.core d :=
  core_setCore_ne _ _ h

@[simp] theorem core_updTroupe (s : State) (t : TroupeId) (f : Troupe → Troupe) (c : CoreId) : (s.updTroupe t f).core c = s.core c := rfl
@[simp] theorem core_updCluster (s : State) (l : ClusterId) (f : Cluster → Cluster) (c : CoreId) : (s.updCluster l f).core c = s.core c := rfl
@[simp] theorem core_updDie (s : State) (d : DieId) (f : Die → Die) (c : CoreId) : (s.updDie d f).core c = s.core c := rfl
@[simp] theorem core_updHost (s : State) (f : HostSide → HostSide) (c : CoreId) : (s.updHost f).core c = s.core c := rfl
@[simp] theorem core_writePhys (s : State) (pa : Nat) (bs : List Byte) (prot : Option Tag) (c : CoreId) :
    (s.writePhys pa bs prot).core c = s.core c := by simp [State.core]
@[simp] theorem core_setSlot (s : State) (pa k : Nat) (w : Word) (c : CoreId) : (s.setSlot pa k w).core c = s.core c := by simp [State.core]

/-- A property of a core that an update keeps holds of every core after it. -/
theorem core_updCore_field {α : Type} (p : Core → α) (s : State) (c d : CoreId) (f : Core → Core) (h : ∀ q, p (f q) = p q) :
    p ((s.updCore c f).core d) = p (s.core d) := by
  by_cases e : c = d
  · subst e; simp [h]
  · rw [core_updCore_ne _ _ e]

/-! ### Contexts -/

@[simp] theorem ctx_updCtx_same (s : State) (c : CoreId) (k : BankId) (f : Context → Context) :
    (s.updCtx c k f).ctx c k = f (s.ctx c k) := by
  simp [State.ctx, State.updCtx, State.setCtx]

theorem ctx_updCtx_ne (s : State) {c d : CoreId} {k j : BankId} (f : Context → Context) (h : ¬(c = d ∧ k = j)) :
    (s.updCtx c k f).ctx d j = s.ctx d j := by
  simp only [State.ctx, State.updCtx, State.setCtx]
  by_cases e : c = d
  · subst e
    have hk : k ≠ j := fun x => h ⟨rfl, x⟩
    have hv : k.val ≠ j.val := fun x => hk (Fin.ext x)
    have h1 := congrArg (fun q : Core => q.ctxs[j]) (core_updCore_same s c (fun q => { q with ctxs := q.ctxs.set k (f (s.ctx c k)) }))
    refine h1.trans ?_
    simp only [Fin.getElem_fin]
    exact Vector.getElem_set_ne _ _ hv
  · exact congrArg (fun q : Core => q.ctxs[j]) (core_updCore_ne s _ e)

/-- A property of a context that an update keeps holds of every context after it. -/
theorem ctx_updCtx_field {α : Type} (p : Context → α) (s : State) (c d : CoreId) (k j : BankId) (f : Context → Context)
    (h : ∀ x, p (f x) = p x) : p ((s.updCtx c k f).ctx d j) = p (s.ctx d j) := by
  by_cases e : c = d ∧ k = j
  · obtain ⟨rfl, rfl⟩ := e; simp [h]
  · rw [ctx_updCtx_ne _ _ e]

/-- An update of a context leaves the rest of its core alone. -/
theorem core_updCtx_field {α : Type} (p : Core → α) (s : State) (c d : CoreId) (k : BankId) (f : Context → Context)
    (h : ∀ (q : Core) (v : Vector Context 9), p { q with ctxs := v } = p q) : p ((s.updCtx c k f).core d) = p (s.core d) :=
  core_updCore_field p s c d _ (fun q => h q _)

@[simp] theorem ctx_updTroupe (s : State) (t : TroupeId) (f : Troupe → Troupe) (c : CoreId) (k : BankId) :
    (s.updTroupe t f).ctx c k = s.ctx c k := rfl
@[simp] theorem ctx_updCluster (s : State) (l : ClusterId) (f : Cluster → Cluster) (c : CoreId) (k : BankId) :
    (s.updCluster l f).ctx c k = s.ctx c k := rfl
@[simp] theorem ctx_updDie (s : State) (d : DieId) (f : Die → Die) (c : CoreId) (k : BankId) :
    (s.updDie d f).ctx c k = s.ctx c k := rfl
@[simp] theorem ctx_updHost (s : State) (f : HostSide → HostSide) (c : CoreId) (k : BankId) :
    (s.updHost f).ctx c k = s.ctx c k := rfl
@[simp] theorem ctx_writePhys (s : State) (pa : Nat) (bs : List Byte) (prot : Option Tag) (c : CoreId) (k : BankId) :
    (s.writePhys pa bs prot).ctx c k = s.ctx c k := by simp [State.ctx]
@[simp] theorem ctx_setSlot (s : State) (pa n : Nat) (w : Word) (c : CoreId) (k : BankId) :
    (s.setSlot pa n w).ctx c k = s.ctx c k := by simp [State.ctx, State.core]

/-- An update of a core that keeps its contexts. -/
theorem ctx_updCore (s : State) (c d : CoreId) (k : BankId) (f : Core → Core) (h : ∀ q, (f q).ctxs = q.ctxs) :
    (s.updCore c f).ctx d k = s.ctx d k := by
  exact congrArg (fun v : Vector Context 9 => v[k]) (core_updCore_field (fun q => q.ctxs) s c d f h)

@[simp] theorem ctx_updDom (s : State) (c d : CoreId) (k : BankId) (t : Tag) (f : DomState → DomState) :
    (s.updDom c t f).ctx d k = s.ctx d k := ctx_updCore s c d k _ (fun _ => rfl)

/-! ### The executing bank -/

@[simp] theorem me_updMe (s : State) (f : Context → Context) : (s.updMe f).me = f s.me := by
  simp [State.me, State.updMe]

@[simp] theorem regs_updMe (s : State) (f : Context → Context) : (s.updMe f).regs = (f s.me).regs := by
  simp [State.regs]

@[simp] theorem me_updRegs (s : State) (f : Regs → Regs) : (s.updRegs f).me = { s.me with regs := f s.regs } := by
  simp [State.updRegs, State.regs]

@[simp] theorem regs_updRegs (s : State) (f : Regs → Regs) : (s.updRegs f).regs = f s.regs := by
  simp [State.regs, State.updRegs]

@[simp] theorem me_updTroupe (s : State) (t : TroupeId) (f : Troupe → Troupe) : (s.updTroupe t f).me = s.me := rfl
@[simp] theorem me_updCluster (s : State) (l : ClusterId) (f : Cluster → Cluster) : (s.updCluster l f).me = s.me := rfl
@[simp] theorem me_updDie (s : State) (d : DieId) (f : Die → Die) : (s.updDie d f).me = s.me := rfl
@[simp] theorem me_updHost (s : State) (f : HostSide → HostSide) : (s.updHost f).me = s.me := rfl
@[simp] theorem me_writePhys (s : State) (pa : Nat) (bs : List Byte) (prot : Option Tag) :
    (s.writePhys pa bs prot).me = s.me := by simp [State.me]
@[simp] theorem me_setSlot (s : State) (pa k : Nat) (w : Word) : (s.setSlot pa k w).me = s.me := by simp [State.me, State.ctx, State.core]
@[simp] theorem me_updDom (s : State) (c : CoreId) (t : Tag) (f : DomState → DomState) : (s.updDom c t f).me = s.me := by
  simp [State.me]
@[simp] theorem regs_updTroupe (s : State) (t : TroupeId) (f : Troupe → Troupe) : (s.updTroupe t f).regs = s.regs := rfl
@[simp] theorem regs_updCluster (s : State) (l : ClusterId) (f : Cluster → Cluster) : (s.updCluster l f).regs = s.regs := rfl
@[simp] theorem regs_updDie (s : State) (d : DieId) (f : Die → Die) : (s.updDie d f).regs = s.regs := rfl
@[simp] theorem regs_updHost (s : State) (f : HostSide → HostSide) : (s.updHost f).regs = s.regs := rfl
@[simp] theorem regs_writePhys (s : State) (pa : Nat) (bs : List Byte) (prot : Option Tag) :
    (s.writePhys pa bs prot).regs = s.regs := by simp [State.regs]
@[simp] theorem regs_setSlot (s : State) (pa k : Nat) (w : Word) : (s.setSlot pa k w).regs = s.regs := by simp [State.regs, State.me, State.ctx, State.core]
@[simp] theorem regs_updDom (s : State) (c : CoreId) (t : Tag) (f : DomState → DomState) : (s.updDom c t f).regs = s.regs := by
  simp [State.regs]

@[simp] theorem mMode_updMe (s : State) (f : Context → Context) : (s.updMe f).mMode = s.mMode := rfl
@[simp] theorem mMode_updRegs (s : State) (f : Regs → Regs) : (s.updRegs f).mMode = s.mMode := rfl

theorem updMe_updMe (s : State) (f g : Context → Context) : ((s.updMe f).updMe g).me = g (f s.me) := by simp

/-! ### Two updates of one home -/

theorem insert_insert_same {α : Type} (l : List (Nat × α)) (n : Nat) (v w : α) : insert (insert l n v) n w = insert l n w := by
  induction l with
  | nil => simp [insert]
  | cons e t ih =>
    obtain ⟨k, x⟩ := e
    simp only [insert]
    split
    · simp [insert]
    · split
      · subst_vars; simp [insert]
      · rename_i h1 h2
        simp only [insert, if_neg h1, if_neg h2, ih]

theorem updCore_updCore (s : State) (c : CoreId) (f g : Core → Core) : (s.updCore c f).updCore c g = s.updCore c (fun q => g (f q)) := by
  have h : (s.updCore c f).core c = f (s.core c) := core_updCore_same ..
  show { s with cores := insert (insert s.cores c.val (f (s.core c))) c.val (g ((s.updCore c f).core c)) } = _
  rw [h, insert_insert_same]
  rfl

theorem updMe_comp (s : State) (f g : Context → Context) : (s.updMe f).updMe g = s.updMe (fun x => g (f x)) := by
  have h : (s.updMe f).me = f s.me := me_updMe ..
  have h2 : (s.updMe f).updMe g =
      (s.updCore s.turn.core (fun q => { q with ctxs := q.ctxs.set s.turn.ctx (f s.me) })).updCore s.turn.core
        (fun q => { q with ctxs := q.ctxs.set s.turn.ctx (g (s.updMe f).me) }) := rfl
  rw [h2, updCore_updCore, h]
  simp only [Vector.set_set]
  rfl

theorem updRegs_comp (s : State) (f g : Regs → Regs) : (s.updRegs f).updRegs g = s.updRegs (fun r => g (f r)) :=
  updMe_comp s _ _

/-! ### Troupes, clusters, dies -/

@[simp] theorem troupe_updTroupe_same (s : State) (t : TroupeId) (f : Troupe → Troupe) : (s.updTroupe t f).troupe t = f (s.troupe t) := by
  simp [State.troupe, State.updTroupe, State.setTroupe]

theorem troupe_updTroupe_ne (s : State) {t u : TroupeId} (f : Troupe → Troupe) (h : t ≠ u) :
    (s.updTroupe t f).troupe u = s.troupe u := by
  simp only [State.troupe, State.updTroupe, State.setTroupe]
  rw [lookup_insert_ne _ _ (fun e => h (Fin.ext e))]

@[simp] theorem troupe_updCtx (s : State) (c : CoreId) (k : BankId) (f : Context → Context) (t : TroupeId) :
    (s.updCtx c k f).troupe t = s.troupe t := rfl
@[simp] theorem troupe_updCore (s : State) (c : CoreId) (f : Core → Core) (t : TroupeId) : (s.updCore c f).troupe t = s.troupe t := rfl
@[simp] theorem troupe_updMe (s : State) (f : Context → Context) (t : TroupeId) : (s.updMe f).troupe t = s.troupe t := rfl
@[simp] theorem troupe_updRegs (s : State) (f : Regs → Regs) (t : TroupeId) : (s.updRegs f).troupe t = s.troupe t := rfl

@[simp] theorem cluster_updCluster_same (s : State) (l : ClusterId) (f : Cluster → Cluster) :
    (s.updCluster l f).cluster l = f (s.cluster l) := by
  simp [State.cluster, State.updCluster, State.setCluster]

theorem cluster_updCluster_ne (s : State) {l m : ClusterId} (f : Cluster → Cluster) (h : l ≠ m) :
    (s.updCluster l f).cluster m = s.cluster m := by
  simp only [State.cluster, State.updCluster, State.setCluster]
  rw [lookup_insert_ne _ _ (fun e => h (Fin.ext e))]

@[simp] theorem die_updDie_same (s : State) (d : DieId) (f : Die → Die) : (s.updDie d f).dies[d] = f s.dies[d] := by
  simp [State.updDie]

theorem die_updDie_ne (s : State) {d e : DieId} (f : Die → Die) (h : d ≠ e) : (s.updDie d f).dies[e] = s.dies[e] := by
  have hv : d.val ≠ e.val := fun x => h (Fin.ext x)
  simp only [State.updDie, Fin.getElem_fin]
  exact Vector.getElem_set_ne _ _ hv

/-! ### The state a core holds for a domain -/

@[simp] theorem dom_updDom_same (s : State) (c : CoreId) (t : Tag) (f : DomState → DomState) :
    (s.updDom c t f).dom c t = f (s.dom c t) := by
  simp [State.dom, State.updDom, Core.dom, Core.setDom]

end Sys2Proof.Machine
end

