-- ==== Sys2Proof/Laws/Regs.lean ====
section
/-!
SUPPORT. What each write of a register leaves alone, field by field.
-/

namespace Sys2Proof.Machine

/-! ### Regs.setG -/

@[simp] theorem Regs.setG_pc (r : Regs) (n : Fin 32) (x : Word) :
    (r.setG n x).pc = r.pc := by
  unfold Regs.setG; split <;> rfl
@[simp] theorem Regs.setG_f (r : Regs) (n : Fin 32) (x : Word) : (r.setG n x).f = r.f := by
  unfold Regs.setG; split <;> rfl
@[simp] theorem Regs.setG_v (r : Regs) (n : Fin 32) (x : Word) : (r.setG n x).v = r.v := by
  unfold Regs.setG; split <;> rfl
@[simp] theorem Regs.setG_p (r : Regs) (n : Fin 32) (x : Word) : (r.setG n x).p = r.p := by
  unfold Regs.setG; split <;> rfl
@[simp] theorem Regs.setG_m (r : Regs) (n : Fin 32) (x : Word) : (r.setG n x).m = r.m := by
  unfold Regs.setG; split <;> rfl
@[simp] theorem Regs.setG_lc (r : Regs) (n : Fin 32) (x : Word) :
    (r.setG n x).lc = r.lc := by
  unfold Regs.setG; split <;> rfl
@[simp] theorem Regs.setG_ls (r : Regs) (n : Fin 32) (x : Word) :
    (r.setG n x).ls = r.ls := by
  unfold Regs.setG; split <;> rfl
@[simp] theorem Regs.setG_t0 (r : Regs) (n : Fin 32) (x : Word) :
    (r.setG n x).t0 = r.t0 := by
  unfold Regs.setG; split <;> rfl
@[simp] theorem Regs.setG_link (r : Regs) (n : Fin 32) (x : Word) :
    (r.setG n x).link = r.link := by
  unfold Regs.setG; split <;> rfl
@[simp] theorem Regs.setG_loops (r : Regs) (n : Fin 32) (x : Word) :
    (r.setG n x).loops = r.loops := by
  unfold Regs.setG; split <;> rfl
@[simp] theorem Regs.setG_dom (r : Regs) (n : Fin 32) (x : Word) :
    (r.setG n x).dom = r.dom := by
  unfold Regs.setG; split <;> rfl
@[simp] theorem Regs.setG_ta (r : Regs) (n : Fin 32) (x : Word) :
    (r.setG n x).ta = r.ta := by
  unfold Regs.setG; split <;> rfl
@[simp] theorem Regs.setG_tb (r : Regs) (n : Fin 32) (x : Word) :
    (r.setG n x).tb = r.tb := by
  unfold Regs.setG; split <;> rfl
@[simp] theorem Regs.setG_fflg (r : Regs) (n : Fin 32) (x : Word) :
    (r.setG n x).fflg = r.fflg := by
  unfold Regs.setG; split <;> rfl
@[simp] theorem Regs.setG_fen (r : Regs) (n : Fin 32) (x : Word) :
    (r.setG n x).fen = r.fen := by
  unfold Regs.setG; split <;> rfl
@[simp] theorem Regs.setG_frm (r : Regs) (n : Fin 32) (x : Word) :
    (r.setG n x).frm = r.frm := by
  unfold Regs.setG; split <;> rfl
@[simp] theorem Regs.setG_valw (r : Regs) (n : Fin 32) (x : Word) :
    (r.setG n x).valw = r.valw := by
  unfold Regs.setG; split <;> rfl
@[simp] theorem Regs.setG_lsf (r : Regs) (n : Fin 32) (x : Word) :
    (r.setG n x).lsf = r.lsf := by
  unfold Regs.setG; split <;> rfl
@[simp] theorem Regs.setG_malw (r : Regs) (n : Fin 32) (x : Word) :
    (r.setG n x).malw = r.malw := by
  unfold Regs.setG; split <;> rfl
@[simp] theorem Regs.setG_gwin (r : Regs) (n : Fin 32) (x : Word) :
    (r.setG n x).gwin = r.gwin := by
  unfold Regs.setG; split <;> rfl
@[simp] theorem Regs.setG_gbud (r : Regs) (n : Fin 32) (x : Word) :
    (r.setG n x).gbud = r.gbud := by
  unfold Regs.setG; split <;> rfl
@[simp] theorem Regs.setG_tcause (r : Regs) (n : Fin 32) (x : Word) :
    (r.setG n x).tcause = r.tcause := by
  unfold Regs.setG; split <;> rfl
@[simp] theorem Regs.setG_tval (r : Regs) (n : Fin 32) (x : Word) :
    (r.setG n x).tval = r.tval := by
  unfold Regs.setG; split <;> rfl
@[simp] theorem Regs.setG_tpc (r : Regs) (n : Fin 32) (x : Word) :
    (r.setG n x).tpc = r.tpc := by
  unfold Regs.setG; split <;> rfl
@[simp] theorem Regs.setG_instret (r : Regs) (n : Fin 32) (x : Word) :
    (r.setG n x).instret = r.instret := by
  unfold Regs.setG; split <;> rfl
@[simp] theorem Regs.setG_gfa (r : Regs) (n : Fin 32) (x : Word) :
    (r.setG n x).gfa = r.gfa := by
  unfold Regs.setG; split <;> rfl
@[simp] theorem Regs.setG_gstat (r : Regs) (n : Fin 32) (x : Word) :
    (r.setG n x).gstat = r.gstat := by
  unfold Regs.setG; split <;> rfl
@[simp] theorem Regs.setG_sh (r : Regs) (n : Fin 32) (x : Word) :
    (r.setG n x).sh = r.sh := by
  unfold Regs.setG; split <;> rfl
@[simp] theorem Regs.setG_bucket (r : Regs) (n : Fin 32) (x : Word) :
    (r.setG n x).bucket = r.bucket := by
  unfold Regs.setG; split <;> rfl
@[simp] theorem Regs.setG_chan (r : Regs) (n : Fin 32) (x : Word) :
    (r.setG n x).chan = r.chan := by
  unfold Regs.setG; split <;> rfl
@[simp] theorem Regs.setG_region (r : Regs) (n : Fin 32) (x : Word) :
    (r.setG n x).region = r.region := by
  unfold Regs.setG; split <;> rfl
@[simp] theorem Regs.setG_mrow (r : Regs) (n : Fin 32) (x : Word) :
    (r.setG n x).mrow = r.mrow := by
  unfold Regs.setG; split <;> rfl
@[simp] theorem Regs.setG_mgst (r : Regs) (n : Fin 32) (x : Word) :
    (r.setG n x).mgst = r.mgst := by
  unfold Regs.setG; split <;> rfl
@[simp] theorem Regs.setG_rplyMode (r : Regs) (n : Fin 32) (x : Word) :
    (r.setG n x).rplyMode = r.rplyMode := by
  unfold Regs.setG; split <;> rfl
@[simp] theorem Regs.setG_rplyMismatch (r : Regs) (n : Fin 32) (x : Word) :
    (r.setG n x).rplyMismatch = r.rplyMismatch := by
  unfold Regs.setG; split <;> rfl
@[simp] theorem Regs.setG_rplyBeyond (r : Regs) (n : Fin 32) (x : Word) :
    (r.setG n x).rplyBeyond = r.rplyBeyond := by
  unfold Regs.setG; split <;> rfl
@[simp] theorem Regs.setG_guardPending (r : Regs) (n : Fin 32) (x : Word) :
    (r.setG n x).guardPending = r.guardPending := by
  unfold Regs.setG; split <;> rfl
@[simp] theorem Regs.setG_arrOpen (r : Regs) (n : Fin 32) (x : Word) :
    (r.setG n x).arrOpen = r.arrOpen := by
  unfold Regs.setG; split <;> rfl
@[simp] theorem Regs.setG_arrPhase (r : Regs) (n : Fin 32) (x : Word) :
    (r.setG n x).arrPhase = r.arrPhase := by
  unfold Regs.setG; split <;> rfl
@[simp] theorem Regs.setG_streams (r : Regs) (n : Fin 32) (x : Word) :
    (r.setG n x).streams = r.streams := by
  unfold Regs.setG; split <;> rfl
@[simp] theorem Regs.setG_tag (r : Regs) (n : Fin 32) (x : Word) :
    (r.setG n x).tag = r.tag := by
  unfold Regs.setG; split <;> rfl

/-! ### Regs.setF -/

@[simp] theorem Regs.setF_pc (r : Regs) (n : Fin 32) (x : Word) : (r.setF n x).pc = r.pc := rfl
@[simp] theorem Regs.setF_g (r : Regs) (n : Fin 32) (x : Word) : (r.setF n x).g = r.g := rfl
@[simp] theorem Regs.setF_v (r : Regs) (n : Fin 32) (x : Word) : (r.setF n x).v = r.v := rfl
@[simp] theorem Regs.setF_p (r : Regs) (n : Fin 32) (x : Word) : (r.setF n x).p = r.p := rfl
@[simp] theorem Regs.setF_m (r : Regs) (n : Fin 32) (x : Word) : (r.setF n x).m = r.m := rfl
@[simp] theorem Regs.setF_lc (r : Regs) (n : Fin 32) (x : Word) : (r.setF n x).lc = r.lc := rfl
@[simp] theorem Regs.setF_ls (r : Regs) (n : Fin 32) (x : Word) : (r.setF n x).ls = r.ls := rfl
@[simp] theorem Regs.setF_t0 (r : Regs) (n : Fin 32) (x : Word) : (r.setF n x).t0 = r.t0 := rfl
@[simp] theorem Regs.setF_link (r : Regs) (n : Fin 32) (x : Word) : (r.setF n x).link = r.link := rfl
@[simp] theorem Regs.setF_loops (r : Regs) (n : Fin 32) (x : Word) : (r.setF n x).loops = r.loops := rfl
@[simp] theorem Regs.setF_dom (r : Regs) (n : Fin 32) (x : Word) : (r.setF n x).dom = r.dom := rfl
@[simp] theorem Regs.setF_ta (r : Regs) (n : Fin 32) (x : Word) : (r.setF n x).ta = r.ta := rfl
@[simp] theorem Regs.setF_tb (r : Regs) (n : Fin 32) (x : Word) : (r.setF n x).tb = r.tb := rfl
@[simp] theorem Regs.setF_fflg (r : Regs) (n : Fin 32) (x : Word) : (r.setF n x).fflg = r.fflg := rfl
@[simp] theorem Regs.setF_fen (r : Regs) (n : Fin 32) (x : Word) : (r.setF n x).fen = r.fen := rfl
@[simp] theorem Regs.setF_frm (r : Regs) (n : Fin 32) (x : Word) : (r.setF n x).frm = r.frm := rfl
@[simp] theorem Regs.setF_valw (r : Regs) (n : Fin 32) (x : Word) : (r.setF n x).valw = r.valw := rfl
@[simp] theorem Regs.setF_lsf (r : Regs) (n : Fin 32) (x : Word) : (r.setF n x).lsf = r.lsf := rfl
@[simp] theorem Regs.setF_malw (r : Regs) (n : Fin 32) (x : Word) : (r.setF n x).malw = r.malw := rfl
@[simp] theorem Regs.setF_gwin (r : Regs) (n : Fin 32) (x : Word) : (r.setF n x).gwin = r.gwin := rfl
@[simp] theorem Regs.setF_gbud (r : Regs) (n : Fin 32) (x : Word) : (r.setF n x).gbud = r.gbud := rfl
@[simp] theorem Regs.setF_tcause (r : Regs) (n : Fin 32) (x : Word) : (r.setF n x).tcause = r.tcause := rfl
@[simp] theorem Regs.setF_tval (r : Regs) (n : Fin 32) (x : Word) : (r.setF n x).tval = r.tval := rfl
@[simp] theorem Regs.setF_tpc (r : Regs) (n : Fin 32) (x : Word) : (r.setF n x).tpc = r.tpc := rfl
@[simp] theorem Regs.setF_instret (r : Regs) (n : Fin 32) (x : Word) : (r.setF n x).instret = r.instret := rfl
@[simp] theorem Regs.setF_gfa (r : Regs) (n : Fin 32) (x : Word) : (r.setF n x).gfa = r.gfa := rfl
@[simp] theorem Regs.setF_gstat (r : Regs) (n : Fin 32) (x : Word) : (r.setF n x).gstat = r.gstat := rfl
@[simp] theorem Regs.setF_sh (r : Regs) (n : Fin 32) (x : Word) : (r.setF n x).sh = r.sh := rfl
@[simp] theorem Regs.setF_bucket (r : Regs) (n : Fin 32) (x : Word) : (r.setF n x).bucket = r.bucket := rfl
@[simp] theorem Regs.setF_chan (r : Regs) (n : Fin 32) (x : Word) : (r.setF n x).chan = r.chan := rfl
@[simp] theorem Regs.setF_region (r : Regs) (n : Fin 32) (x : Word) : (r.setF n x).region = r.region := rfl
@[simp] theorem Regs.setF_mrow (r : Regs) (n : Fin 32) (x : Word) : (r.setF n x).mrow = r.mrow := rfl
@[simp] theorem Regs.setF_mgst (r : Regs) (n : Fin 32) (x : Word) : (r.setF n x).mgst = r.mgst := rfl
@[simp] theorem Regs.setF_rplyMode (r : Regs) (n : Fin 32) (x : Word) : (r.setF n x).rplyMode = r.rplyMode := rfl
@[simp] theorem Regs.setF_rplyMismatch (r : Regs) (n : Fin 32) (x : Word) : (r.setF n x).rplyMismatch = r.rplyMismatch := rfl
@[simp] theorem Regs.setF_rplyBeyond (r : Regs) (n : Fin 32) (x : Word) : (r.setF n x).rplyBeyond = r.rplyBeyond := rfl
@[simp] theorem Regs.setF_guardPending (r : Regs) (n : Fin 32) (x : Word) : (r.setF n x).guardPending = r.guardPending := rfl
@[simp] theorem Regs.setF_arrOpen (r : Regs) (n : Fin 32) (x : Word) : (r.setF n x).arrOpen = r.arrOpen := rfl
@[simp] theorem Regs.setF_arrPhase (r : Regs) (n : Fin 32) (x : Word) : (r.setF n x).arrPhase = r.arrPhase := rfl
@[simp] theorem Regs.setF_streams (r : Regs) (n : Fin 32) (x : Word) : (r.setF n x).streams = r.streams := rfl
@[simp] theorem Regs.setF_tag (r : Regs) (n : Fin 32) (x : Word) : (r.setF n x).tag = r.tag := rfl

/-! ### Regs.setV -/

@[simp] theorem Regs.setV_pc (r : Regs) (n : Fin 32) (x : BitVec 512) : (r.setV n x).pc = r.pc := rfl
@[simp] theorem Regs.setV_g (r : Regs) (n : Fin 32) (x : BitVec 512) : (r.setV n x).g = r.g := rfl
@[simp] theorem Regs.setV_f (r : Regs) (n : Fin 32) (x : BitVec 512) : (r.setV n x).f = r.f := rfl
@[simp] theorem Regs.setV_p (r : Regs) (n : Fin 32) (x : BitVec 512) : (r.setV n x).p = r.p := rfl
@[simp] theorem Regs.setV_m (r : Regs) (n : Fin 32) (x : BitVec 512) : (r.setV n x).m = r.m := rfl
@[simp] theorem Regs.setV_lc (r : Regs) (n : Fin 32) (x : BitVec 512) : (r.setV n x).lc = r.lc := rfl
@[simp] theorem Regs.setV_ls (r : Regs) (n : Fin 32) (x : BitVec 512) : (r.setV n x).ls = r.ls := rfl
@[simp] theorem Regs.setV_t0 (r : Regs) (n : Fin 32) (x : BitVec 512) : (r.setV n x).t0 = r.t0 := rfl
@[simp] theorem Regs.setV_link (r : Regs) (n : Fin 32) (x : BitVec 512) : (r.setV n x).link = r.link := rfl
@[simp] theorem Regs.setV_loops (r : Regs) (n : Fin 32) (x : BitVec 512) : (r.setV n x).loops = r.loops := rfl
@[simp] theorem Regs.setV_dom (r : Regs) (n : Fin 32) (x : BitVec 512) : (r.setV n x).dom = r.dom := rfl
@[simp] theorem Regs.setV_ta (r : Regs) (n : Fin 32) (x : BitVec 512) : (r.setV n x).ta = r.ta := rfl
@[simp] theorem Regs.setV_tb (r : Regs) (n : Fin 32) (x : BitVec 512) : (r.setV n x).tb = r.tb := rfl
@[simp] theorem Regs.setV_fflg (r : Regs) (n : Fin 32) (x : BitVec 512) : (r.setV n x).fflg = r.fflg := rfl
@[simp] theorem Regs.setV_fen (r : Regs) (n : Fin 32) (x : BitVec 512) : (r.setV n x).fen = r.fen := rfl
@[simp] theorem Regs.setV_frm (r : Regs) (n : Fin 32) (x : BitVec 512) : (r.setV n x).frm = r.frm := rfl
@[simp] theorem Regs.setV_valw (r : Regs) (n : Fin 32) (x : BitVec 512) : (r.setV n x).valw = r.valw := rfl
@[simp] theorem Regs.setV_lsf (r : Regs) (n : Fin 32) (x : BitVec 512) : (r.setV n x).lsf = r.lsf := rfl
@[simp] theorem Regs.setV_malw (r : Regs) (n : Fin 32) (x : BitVec 512) : (r.setV n x).malw = r.malw := rfl
@[simp] theorem Regs.setV_gwin (r : Regs) (n : Fin 32) (x : BitVec 512) : (r.setV n x).gwin = r.gwin := rfl
@[simp] theorem Regs.setV_gbud (r : Regs) (n : Fin 32) (x : BitVec 512) : (r.setV n x).gbud = r.gbud := rfl
@[simp] theorem Regs.setV_tcause (r : Regs) (n : Fin 32) (x : BitVec 512) : (r.setV n x).tcause = r.tcause := rfl
@[simp] theorem Regs.setV_tval (r : Regs) (n : Fin 32) (x : BitVec 512) : (r.setV n x).tval = r.tval := rfl
@[simp] theorem Regs.setV_tpc (r : Regs) (n : Fin 32) (x : BitVec 512) : (r.setV n x).tpc = r.tpc := rfl
@[simp] theorem Regs.setV_instret (r : Regs) (n : Fin 32) (x : BitVec 512) : (r.setV n x).instret = r.instret := rfl
@[simp] theorem Regs.setV_gfa (r : Regs) (n : Fin 32) (x : BitVec 512) : (r.setV n x).gfa = r.gfa := rfl
@[simp] theorem Regs.setV_gstat (r : Regs) (n : Fin 32) (x : BitVec 512) : (r.setV n x).gstat = r.gstat := rfl
@[simp] theorem Regs.setV_sh (r : Regs) (n : Fin 32) (x : BitVec 512) : (r.setV n x).sh = r.sh := rfl
@[simp] theorem Regs.setV_bucket (r : Regs) (n : Fin 32) (x : BitVec 512) : (r.setV n x).bucket = r.bucket := rfl
@[simp] theorem Regs.setV_chan (r : Regs) (n : Fin 32) (x : BitVec 512) : (r.setV n x).chan = r.chan := rfl
@[simp] theorem Regs.setV_region (r : Regs) (n : Fin 32) (x : BitVec 512) : (r.setV n x).region = r.region := rfl
@[simp] theorem Regs.setV_mrow (r : Regs) (n : Fin 32) (x : BitVec 512) : (r.setV n x).mrow = r.mrow := rfl
@[simp] theorem Regs.setV_mgst (r : Regs) (n : Fin 32) (x : BitVec 512) : (r.setV n x).mgst = r.mgst := rfl
@[simp] theorem Regs.setV_rplyMode (r : Regs) (n : Fin 32) (x : BitVec 512) : (r.setV n x).rplyMode = r.rplyMode := rfl
@[simp] theorem Regs.setV_rplyMismatch (r : Regs) (n : Fin 32) (x : BitVec 512) :
    (r.setV n x).rplyMismatch = r.rplyMismatch := rfl
@[simp] theorem Regs.setV_rplyBeyond (r : Regs) (n : Fin 32) (x : BitVec 512) : (r.setV n x).rplyBeyond = r.rplyBeyond := rfl
@[simp] theorem Regs.setV_guardPending (r : Regs) (n : Fin 32) (x : BitVec 512) :
    (r.setV n x).guardPending = r.guardPending := rfl
@[simp] theorem Regs.setV_arrOpen (r : Regs) (n : Fin 32) (x : BitVec 512) : (r.setV n x).arrOpen = r.arrOpen := rfl
@[simp] theorem Regs.setV_arrPhase (r : Regs) (n : Fin 32) (x : BitVec 512) : (r.setV n x).arrPhase = r.arrPhase := rfl
@[simp] theorem Regs.setV_streams (r : Regs) (n : Fin 32) (x : BitVec 512) : (r.setV n x).streams = r.streams := rfl
@[simp] theorem Regs.setV_tag (r : Regs) (n : Fin 32) (x : BitVec 512) : (r.setV n x).tag = r.tag := rfl

/-! ### Regs.setP -/

@[simp] theorem Regs.setP_pc (r : Regs) (n : PReg) (x : Bool) :
    (r.setP n x).pc = r.pc := by
  unfold Regs.setP; split <;> rfl
@[simp] theorem Regs.setP_g (r : Regs) (n : PReg) (x : Bool) : (r.setP n x).g = r.g := by
  unfold Regs.setP; split <;> rfl
@[simp] theorem Regs.setP_f (r : Regs) (n : PReg) (x : Bool) : (r.setP n x).f = r.f := by
  unfold Regs.setP; split <;> rfl
@[simp] theorem Regs.setP_v (r : Regs) (n : PReg) (x : Bool) : (r.setP n x).v = r.v := by
  unfold Regs.setP; split <;> rfl
@[simp] theorem Regs.setP_m (r : Regs) (n : PReg) (x : Bool) : (r.setP n x).m = r.m := by
  unfold Regs.setP; split <;> rfl
@[simp] theorem Regs.setP_lc (r : Regs) (n : PReg) (x : Bool) :
    (r.setP n x).lc = r.lc := by
  unfold Regs.setP; split <;> rfl
@[simp] theorem Regs.setP_ls (r : Regs) (n : PReg) (x : Bool) :
    (r.setP n x).ls = r.ls := by
  unfold Regs.setP; split <;> rfl
@[simp] theorem Regs.setP_t0 (r : Regs) (n : PReg) (x : Bool) :
    (r.setP n x).t0 = r.t0 := by
  unfold Regs.setP; split <;> rfl
@[simp] theorem Regs.setP_link (r : Regs) (n : PReg) (x : Bool) :
    (r.setP n x).link = r.link := by
  unfold Regs.setP; split <;> rfl
@[simp] theorem Regs.setP_loops (r : Regs) (n : PReg) (x : Bool) :
    (r.setP n x).loops = r.loops := by
  unfold Regs.setP; split <;> rfl
@[simp] theorem Regs.setP_dom (r : Regs) (n : PReg) (x : Bool) :
    (r.setP n x).dom = r.dom := by
  unfold Regs.setP; split <;> rfl
@[simp] theorem Regs.setP_ta (r : Regs) (n : PReg) (x : Bool) :
    (r.setP n x).ta = r.ta := by
  unfold Regs.setP; split <;> rfl
@[simp] theorem Regs.setP_tb (r : Regs) (n : PReg) (x : Bool) :
    (r.setP n x).tb = r.tb := by
  unfold Regs.setP; split <;> rfl
@[simp] theorem Regs.setP_fflg (r : Regs) (n : PReg) (x : Bool) :
    (r.setP n x).fflg = r.fflg := by
  unfold Regs.setP; split <;> rfl
@[simp] theorem Regs.setP_fen (r : Regs) (n : PReg) (x : Bool) :
    (r.setP n x).fen = r.fen := by
  unfold Regs.setP; split <;> rfl
@[simp] theorem Regs.setP_frm (r : Regs) (n : PReg) (x : Bool) :
    (r.setP n x).frm = r.frm := by
  unfold Regs.setP; split <;> rfl
@[simp] theorem Regs.setP_valw (r : Regs) (n : PReg) (x : Bool) :
    (r.setP n x).valw = r.valw := by
  unfold Regs.setP; split <;> rfl
@[simp] theorem Regs.setP_lsf (r : Regs) (n : PReg) (x : Bool) :
    (r.setP n x).lsf = r.lsf := by
  unfold Regs.setP; split <;> rfl
@[simp] theorem Regs.setP_malw (r : Regs) (n : PReg) (x : Bool) :
    (r.setP n x).malw = r.malw := by
  unfold Regs.setP; split <;> rfl
@[simp] theorem Regs.setP_gwin (r : Regs) (n : PReg) (x : Bool) :
    (r.setP n x).gwin = r.gwin := by
  unfold Regs.setP; split <;> rfl
@[simp] theorem Regs.setP_gbud (r : Regs) (n : PReg) (x : Bool) :
    (r.setP n x).gbud = r.gbud := by
  unfold Regs.setP; split <;> rfl
@[simp] theorem Regs.setP_tcause (r : Regs) (n : PReg) (x : Bool) :
    (r.setP n x).tcause = r.tcause := by
  unfold Regs.setP; split <;> rfl
@[simp] theorem Regs.setP_tval (r : Regs) (n : PReg) (x : Bool) :
    (r.setP n x).tval = r.tval := by
  unfold Regs.setP; split <;> rfl
@[simp] theorem Regs.setP_tpc (r : Regs) (n : PReg) (x : Bool) :
    (r.setP n x).tpc = r.tpc := by
  unfold Regs.setP; split <;> rfl
@[simp] theorem Regs.setP_instret (r : Regs) (n : PReg) (x : Bool) :
    (r.setP n x).instret = r.instret := by
  unfold Regs.setP; split <;> rfl
@[simp] theorem Regs.setP_gfa (r : Regs) (n : PReg) (x : Bool) :
    (r.setP n x).gfa = r.gfa := by
  unfold Regs.setP; split <;> rfl
@[simp] theorem Regs.setP_gstat (r : Regs) (n : PReg) (x : Bool) :
    (r.setP n x).gstat = r.gstat := by
  unfold Regs.setP; split <;> rfl
@[simp] theorem Regs.setP_sh (r : Regs) (n : PReg) (x : Bool) :
    (r.setP n x).sh = r.sh := by
  unfold Regs.setP; split <;> rfl
@[simp] theorem Regs.setP_bucket (r : Regs) (n : PReg) (x : Bool) :
    (r.setP n x).bucket = r.bucket := by
  unfold Regs.setP; split <;> rfl
@[simp] theorem Regs.setP_chan (r : Regs) (n : PReg) (x : Bool) :
    (r.setP n x).chan = r.chan := by
  unfold Regs.setP; split <;> rfl
@[simp] theorem Regs.setP_region (r : Regs) (n : PReg) (x : Bool) :
    (r.setP n x).region = r.region := by
  unfold Regs.setP; split <;> rfl
@[simp] theorem Regs.setP_mrow (r : Regs) (n : PReg) (x : Bool) :
    (r.setP n x).mrow = r.mrow := by
  unfold Regs.setP; split <;> rfl
@[simp] theorem Regs.setP_mgst (r : Regs) (n : PReg) (x : Bool) :
    (r.setP n x).mgst = r.mgst := by
  unfold Regs.setP; split <;> rfl
@[simp] theorem Regs.setP_rplyMode (r : Regs) (n : PReg) (x : Bool) :
    (r.setP n x).rplyMode = r.rplyMode := by
  unfold Regs.setP; split <;> rfl
@[simp] theorem Regs.setP_rplyMismatch (r : Regs) (n : PReg) (x : Bool) :
    (r.setP n x).rplyMismatch = r.rplyMismatch := by
  unfold Regs.setP; split <;> rfl
@[simp] theorem Regs.setP_rplyBeyond (r : Regs) (n : PReg) (x : Bool) :
    (r.setP n x).rplyBeyond = r.rplyBeyond := by
  unfold Regs.setP; split <;> rfl
@[simp] theorem Regs.setP_guardPending (r : Regs) (n : PReg) (x : Bool) :
    (r.setP n x).guardPending = r.guardPending := by
  unfold Regs.setP; split <;> rfl
@[simp] theorem Regs.setP_arrOpen (r : Regs) (n : PReg) (x : Bool) :
    (r.setP n x).arrOpen = r.arrOpen := by
  unfold Regs.setP; split <;> rfl
@[simp] theorem Regs.setP_arrPhase (r : Regs) (n : PReg) (x : Bool) :
    (r.setP n x).arrPhase = r.arrPhase := by
  unfold Regs.setP; split <;> rfl
@[simp] theorem Regs.setP_streams (r : Regs) (n : PReg) (x : Bool) :
    (r.setP n x).streams = r.streams := by
  unfold Regs.setP; split <;> rfl
@[simp] theorem Regs.setP_tag (r : Regs) (n : PReg) (x : Bool) :
    (r.setP n x).tag = r.tag := by
  unfold Regs.setP; split <;> rfl

/-! ### Regs.setM -/

@[simp] theorem Regs.setM_pc (r : Regs) (n : MReg) (x : Word) :
    (r.setM n x).pc = r.pc := by
  unfold Regs.setM; split <;> rfl
@[simp] theorem Regs.setM_g (r : Regs) (n : MReg) (x : Word) : (r.setM n x).g = r.g := by
  unfold Regs.setM; split <;> rfl
@[simp] theorem Regs.setM_f (r : Regs) (n : MReg) (x : Word) : (r.setM n x).f = r.f := by
  unfold Regs.setM; split <;> rfl
@[simp] theorem Regs.setM_v (r : Regs) (n : MReg) (x : Word) : (r.setM n x).v = r.v := by
  unfold Regs.setM; split <;> rfl
@[simp] theorem Regs.setM_p (r : Regs) (n : MReg) (x : Word) : (r.setM n x).p = r.p := by
  unfold Regs.setM; split <;> rfl
@[simp] theorem Regs.setM_lc (r : Regs) (n : MReg) (x : Word) :
    (r.setM n x).lc = r.lc := by
  unfold Regs.setM; split <;> rfl
@[simp] theorem Regs.setM_ls (r : Regs) (n : MReg) (x : Word) :
    (r.setM n x).ls = r.ls := by
  unfold Regs.setM; split <;> rfl
@[simp] theorem Regs.setM_t0 (r : Regs) (n : MReg) (x : Word) :
    (r.setM n x).t0 = r.t0 := by
  unfold Regs.setM; split <;> rfl
@[simp] theorem Regs.setM_link (r : Regs) (n : MReg) (x : Word) :
    (r.setM n x).link = r.link := by
  unfold Regs.setM; split <;> rfl
@[simp] theorem Regs.setM_loops (r : Regs) (n : MReg) (x : Word) :
    (r.setM n x).loops = r.loops := by
  unfold Regs.setM; split <;> rfl
@[simp] theorem Regs.setM_dom (r : Regs) (n : MReg) (x : Word) :
    (r.setM n x).dom = r.dom := by
  unfold Regs.setM; split <;> rfl
@[simp] theorem Regs.setM_ta (r : Regs) (n : MReg) (x : Word) :
    (r.setM n x).ta = r.ta := by
  unfold Regs.setM; split <;> rfl
@[simp] theorem Regs.setM_tb (r : Regs) (n : MReg) (x : Word) :
    (r.setM n x).tb = r.tb := by
  unfold Regs.setM; split <;> rfl
@[simp] theorem Regs.setM_fflg (r : Regs) (n : MReg) (x : Word) :
    (r.setM n x).fflg = r.fflg := by
  unfold Regs.setM; split <;> rfl
@[simp] theorem Regs.setM_fen (r : Regs) (n : MReg) (x : Word) :
    (r.setM n x).fen = r.fen := by
  unfold Regs.setM; split <;> rfl
@[simp] theorem Regs.setM_frm (r : Regs) (n : MReg) (x : Word) :
    (r.setM n x).frm = r.frm := by
  unfold Regs.setM; split <;> rfl
@[simp] theorem Regs.setM_valw (r : Regs) (n : MReg) (x : Word) :
    (r.setM n x).valw = r.valw := by
  unfold Regs.setM; split <;> rfl
@[simp] theorem Regs.setM_lsf (r : Regs) (n : MReg) (x : Word) :
    (r.setM n x).lsf = r.lsf := by
  unfold Regs.setM; split <;> rfl
@[simp] theorem Regs.setM_malw (r : Regs) (n : MReg) (x : Word) :
    (r.setM n x).malw = r.malw := by
  unfold Regs.setM; split <;> rfl
@[simp] theorem Regs.setM_gwin (r : Regs) (n : MReg) (x : Word) :
    (r.setM n x).gwin = r.gwin := by
  unfold Regs.setM; split <;> rfl
@[simp] theorem Regs.setM_gbud (r : Regs) (n : MReg) (x : Word) :
    (r.setM n x).gbud = r.gbud := by
  unfold Regs.setM; split <;> rfl
@[simp] theorem Regs.setM_tcause (r : Regs) (n : MReg) (x : Word) :
    (r.setM n x).tcause = r.tcause := by
  unfold Regs.setM; split <;> rfl
@[simp] theorem Regs.setM_tval (r : Regs) (n : MReg) (x : Word) :
    (r.setM n x).tval = r.tval := by
  unfold Regs.setM; split <;> rfl
@[simp] theorem Regs.setM_tpc (r : Regs) (n : MReg) (x : Word) :
    (r.setM n x).tpc = r.tpc := by
  unfold Regs.setM; split <;> rfl
@[simp] theorem Regs.setM_instret (r : Regs) (n : MReg) (x : Word) :
    (r.setM n x).instret = r.instret := by
  unfold Regs.setM; split <;> rfl
@[simp] theorem Regs.setM_gfa (r : Regs) (n : MReg) (x : Word) :
    (r.setM n x).gfa = r.gfa := by
  unfold Regs.setM; split <;> rfl
@[simp] theorem Regs.setM_gstat (r : Regs) (n : MReg) (x : Word) :
    (r.setM n x).gstat = r.gstat := by
  unfold Regs.setM; split <;> rfl
@[simp] theorem Regs.setM_sh (r : Regs) (n : MReg) (x : Word) :
    (r.setM n x).sh = r.sh := by
  unfold Regs.setM; split <;> rfl
@[simp] theorem Regs.setM_bucket (r : Regs) (n : MReg) (x : Word) :
    (r.setM n x).bucket = r.bucket := by
  unfold Regs.setM; split <;> rfl
@[simp] theorem Regs.setM_chan (r : Regs) (n : MReg) (x : Word) :
    (r.setM n x).chan = r.chan := by
  unfold Regs.setM; split <;> rfl
@[simp] theorem Regs.setM_region (r : Regs) (n : MReg) (x : Word) :
    (r.setM n x).region = r.region := by
  unfold Regs.setM; split <;> rfl
@[simp] theorem Regs.setM_mrow (r : Regs) (n : MReg) (x : Word) :
    (r.setM n x).mrow = r.mrow := by
  unfold Regs.setM; split <;> rfl
@[simp] theorem Regs.setM_mgst (r : Regs) (n : MReg) (x : Word) :
    (r.setM n x).mgst = r.mgst := by
  unfold Regs.setM; split <;> rfl
@[simp] theorem Regs.setM_rplyMode (r : Regs) (n : MReg) (x : Word) :
    (r.setM n x).rplyMode = r.rplyMode := by
  unfold Regs.setM; split <;> rfl
@[simp] theorem Regs.setM_rplyMismatch (r : Regs) (n : MReg) (x : Word) :
    (r.setM n x).rplyMismatch = r.rplyMismatch := by
  unfold Regs.setM; split <;> rfl
@[simp] theorem Regs.setM_rplyBeyond (r : Regs) (n : MReg) (x : Word) :
    (r.setM n x).rplyBeyond = r.rplyBeyond := by
  unfold Regs.setM; split <;> rfl
@[simp] theorem Regs.setM_guardPending (r : Regs) (n : MReg) (x : Word) :
    (r.setM n x).guardPending = r.guardPending := by
  unfold Regs.setM; split <;> rfl
@[simp] theorem Regs.setM_arrOpen (r : Regs) (n : MReg) (x : Word) :
    (r.setM n x).arrOpen = r.arrOpen := by
  unfold Regs.setM; split <;> rfl
@[simp] theorem Regs.setM_arrPhase (r : Regs) (n : MReg) (x : Word) :
    (r.setM n x).arrPhase = r.arrPhase := by
  unfold Regs.setM; split <;> rfl
@[simp] theorem Regs.setM_streams (r : Regs) (n : MReg) (x : Word) :
    (r.setM n x).streams = r.streams := by
  unfold Regs.setM; split <;> rfl
@[simp] theorem Regs.setM_tag (r : Regs) (n : MReg) (x : Word) :
    (r.setM n x).tag = r.tag := by
  unfold Regs.setM; split <;> rfl

end Sys2Proof.Machine
end

