-- ==== Sys2Proof/Laws/Run.lean ====
section
/-!
SUPPORT. What the frame of checks around an instruction does: an instruction that passes them runs, and its selector
answers where it has somewhere to go.
-/

namespace Sys2Proof.Machine

theorem jump_even {s : State} {a : Word} (h : bit a 0 = false) : s.jump a = .ok (s.updRegs (fun r => { r with pc := a })) := by
  simp [State.jump, h]

theorem jump_odd {s : State} {a : Word} (h : bit a 0 = true) : s.jump a = .error (.trap 0x05 a) := by
  simp [State.jump, h]

/-- A commit point with nothing to wait for. -/
theorem commitPoint_ok {s : State} (hv : s.me.verifs = []) (hg : s.regs.guardPending = false) (ho : s.me.outbox = []) :
    s.commitPoint = .ok (s.updMe (fun x => { x with undo := [], restorable := true, restore := none, rolledBack := false })) := by
  simp [State.commitPoint, State.report, hv, hg, ho, bind, Except.bind]

@[simp] theorem readied_regs (s : State) : s.readied.regs = s.regs := by simp [State.readied, State.regs]
@[simp] theorem readied_mMode (s : State) : s.readied.mMode = s.mMode := rfl

/-- The selector answers a state wherever it has somewhere to go. -/
theorem select_known {s : State} {w : Pre} {pc : Word} (h : NextKnown w pc s) : ∃ n, s.select w pc = .ok n := by
  unfold NextKnown targetOf at h
  unfold State.select
  cases hw : w.nx <;> simp only [hw] at h ⊢
  case seq => exact ⟨_, rfl⟩
  case fin =>
    obtain ⟨h1, h2, h3⟩ := h
    simp only [State.endActivation, h1, h2, h3]
    exact ⟨_, rfl⟩
  case go =>
    cases hd : dispValue w.chain <;> simp only [hd] at h ⊢ <;> rw [jump_even h] <;> exact ⟨_, rfl⟩
  case goc =>
    cases hd : dispValue w.chain <;> simp only [hd] at h ⊢ <;> split
    all_goals first | exact ⟨_, rfl⟩ | (rename_i hc; rw [jump_even (h hc)]; exact ⟨_, rfl⟩)
  case loop =>
    split at h
    · rename_i hc
      rw [if_pos hc]
      cases hl : s.regs.loops with
      | nil => simp [hl] at h
      | cons a t =>
        obtain ⟨lc, ls⟩ := a
        simp only [hl] at h ⊢
        rw [if_neg (by omega)]
        exact ⟨_, rfl⟩
    · rename_i hc
      rw [if_neg hc, jump_even h]
      exact ⟨_, rfl⟩
  case call =>
    rw [if_neg (by omega)]
    cases hd : dispValue w.chain <;> simp only [hd] at h ⊢ <;> rw [jump_even h.2] <;> exact ⟨_, rfl⟩
  case ret =>
    cases hl : s.regs.link with
    | nil => simp [hl] at h
    | cons a t =>
      simp only [hl] at h ⊢
      rw [if_neg (by omega), jump_even (a := a) h.2]
      exact ⟨_, rfl⟩

theorem select_ok {s : State} {w : Pre} {pc : Word} (h : NextKnown w pc s) : ∃ n, s.readied.select w pc = .ok n :=
  select_known (by simpa only [NextKnown, readied_regs, readied_mMode] using h)

/-- The frame of checks, passed: the effect runs on the values read. -/
theorem runInstr_runs {i : Instr} {w : Pre} {u : Uses} {s : State} (eff : List Word → State → Except Stop State)
    (h : Runs i w u s) : runInstr i w u eff s =
      finish i w (if u.late then u.writes else []) (u.late && !u.own) u.jumps (eff (s.vals u)) (s.opened u) s := by
  obtain ⟨h1, h2, h3, h4, h5, h6, h7, h8⟩ := h
  unfold runInstr
  simp only []
  refine (if_neg (by rw [← Bool.not_eq_true] at h1; exact h1)).trans ?_
  rw [if_neg (by rw [h2]; exact Bool.false_ne_true), h3]
  simp only [h4]
  simp only [h5, h6, h7, Bool.not_true, Bool.false_eq_true, if_false, h8]
  simp only [State.vals, State.opened, Uses.late]
  cases (portsOf (u.srcs ++ u.dst.toList)).isEmpty <;> simp

/-- An instruction over the frame of checks whose effect answers a state completes. -/
theorem runInstr_gives {i : Instr} {w : Pre} {u : Uses} {s e : State} {eff : List Word → State → Except Stop State}
    (hx : exec i s = runInstr i w u eff s) (hj : u.jumps = false) (he : eff (s.vals u) (s.opened u) = .ok e) : Gives i w u s e := by
  intro h hn
  obtain ⟨n, hs⟩ := select_ok hn
  refine ⟨n, hs, ?_⟩
  rw [hx, runInstr_runs eff h, hj]
  have hs' : (e.updMe (fun x => { x with wait := none, state := .ready })).select w s.regs.pc = .ok n := hs
  simp [finish, he, settle, bind, Except.bind, hs']

/-- The same where the effect chooses the next address. -/
theorem runInstr_goes {i : Instr} {w : Pre} {u : Uses} {s e : State} {eff : List Word → State → Except Stop State}
    (hx : exec i s = runInstr i w u eff s) (hj : u.jumps = true) (he : eff (s.vals u) (s.opened u) = .ok e) : Goes i w u s e := by
  intro h
  rw [hx, runInstr_runs eff h, hj]
  simp [finish, he, settle, bind, Except.bind, State.readied]

/-- An effect that answers a trap. -/
theorem runInstr_traps {i : Instr} {w : Pre} {u : Uses} {s : State} {c : BitVec 8} {v : Word} {eff : List Word → State → Except Stop State}
    (hx : exec i s = runInstr i w u eff s) (he : eff (s.vals u) (s.opened u) = .error (.trap c v)) : Traps i w u s c v := by
  intro h
  rw [hx, runInstr_runs eff h]
  simp [finish, he, settle, bind, Except.bind]

/-- An effect that answers a wait. -/
theorem runInstr_waits {i : Instr} {w : Pre} {u : Uses} {s : State} {eff : List Word → State → Except Stop State}
    (hx : exec i s = runInstr i w u eff s) (he : eff (s.vals u) (s.opened u) = .error (.again false)) : Waits i w u s := by
  intro h
  rw [hx, runInstr_runs eff h]
  simp [finish, he, settle, bind, Except.bind]

/-- An instruction with a kept wait that is not already waiting: its selector has somewhere to go, and its condition holds at
once. -/
theorem keptOp_gives {β : Type} {i : Instr} {w : Pre} {u : Uses} {tw : β → Wait} {fw : Wait → Option β}
    {start : List Word → State → Except Stop (State × β)} {poll : β → State → Option (Except Stop State)} {s m e : State} {b : β}
    (hx : exec i s = keptOp i w u tw fw start poll s) (hj : u.jumps = false) (hw : s.me.wait.bind fw = none)
    (hs : start (s.vals u) (s.opened u) = .ok (m, b)) (hk : NextKnown w m.regs.pc m) (hp : poll b m = some (.ok e)) :
    Gives i w u s e := by
  obtain ⟨n, hn⟩ := select_known hk
  refine runInstr_gives (hx.trans ?_) hj (eff := fun vs s => do
      let (s, b) ← start vs s
      let _ ← s.select w s.regs.pc
      match poll b s with
      | some r => r
      | none => .error (.halt (s.block (tw b)))) ?_
  · simp only [keptOp, hw] <;> rfl
  · simp only [hs, bind, Except.bind, hn, hp]

/-! ### The checks that fail -/

/-- An instruction of pages 1 to 3 in M mode. -/
theorem runInstr_paged {i : Instr} {w : Pre} {u : Uses} {s : State} {eff : List Word → State → Except Stop State} {p : Nat}
    (hm : s.mMode = true) (hp : i.page? = some p) (h1 : 1 ≤ p) (h3 : p ≤ 3) :
    runInstr i w u eff s = .next (s.takeTrap 0x01 i.baseWord) := by
  unfold runInstr
  exact if_pos (by simp [hm, hp, h1, h3])

/-- An M-mode instruction outside M mode. -/
theorem runInstr_privilege {i : Instr} {w : Pre} {u : Uses} {s : State} {eff : List Word → State → Except Stop State}
    (hm : s.mMode = false) (hp : u.priv = true) : runInstr i w u eff s = .next (s.takeTrap 0x04 i.baseWord) := by
  unfold runInstr
  refine (if_neg (by rw [hm]; exact Bool.false_ne_true)).trans ?_
  exact if_pos (by simp [hm, hp])

variable {i : Instr} {w : Pre} {u : Uses} {s : State} {eff : List Word → State → Except Stop State}

/-- A named port that is absent. -/
theorem runInstr_absent {p : Port}
    (h1 : (s.mMode && (match i.page? with | some p => 1 ≤ p && p ≤ 3 | none => false)) = false)
    (h2 : (u.priv && !s.mMode) = false) (h3 : s.absentPort u = some p) :
    runInstr i w u eff s = .next (s.takeTrap 0x0D (at' p.regCode 0)) := by
  unfold runInstr
  refine (if_neg (by rw [← Bool.not_eq_true] at h1; exact h1)).trans ?_
  rw [if_neg (by rw [h2]; exact Bool.false_ne_true), h3]

/-- A register with a pending result. -/
theorem runInstr_hazard {x : RegRef}
    (h1 : (s.mMode && (match i.page? with | some p => 1 ≤ p && p ≤ 3 | none => false)) = false)
    (h2 : (u.priv && !s.mMode) = false) (h3 : s.absentPort u = none) (h4 : hazard w u s.me.pending = some x) :
    runInstr i w u eff s = .next (s.takeTrap 0x03 x.tval) := by
  unfold runInstr
  refine (if_neg (by rw [← Bool.not_eq_true] at h1; exact h1)).trans ?_
  rw [if_neg (by rw [h2]; exact Bool.false_ne_true), h3]
  simp only [h4]

/-- A guard that fails. -/
theorem runInstr_skips (h : Checked i w u s) (hg : w.holds s.regs = false) : runInstr i w u eff s =
    .next ((s.readied.updRegs (fun r => { r with pc := s.regs.pc + BitVec.ofNat 64 w.size })).retire i w [] false
      s.regs.pc s.followers) := by
  obtain ⟨h1, h2, h3, h4, h5⟩ := h
  unfold runInstr
  simp only []
  refine (if_neg (by rw [← Bool.not_eq_true] at h1; exact h1)).trans ?_
  rw [if_neg (by rw [h2]; exact Bool.false_ne_true), h3]
  simp only [h4]
  simp only [h5, hg, Bool.not_true, Bool.not_false, Bool.false_eq_true, if_false, if_true]
  rfl

/-- A port that is not ready. -/
theorem runInstr_unready (h : Checked i w u s) (hg : w.holds s.regs = true) (hp : s.portsReady u = false) :
    runInstr i w u eff s = .next (s.block (.reissue false)) := by
  obtain ⟨h1, h2, h3, h4, h5⟩ := h
  unfold runInstr
  simp only []
  refine (if_neg (by rw [← Bool.not_eq_true] at h1; exact h1)).trans ?_
  rw [if_neg (by rw [h2]; exact Bool.false_ne_true), h3]
  simp only [h4]
  simp only [h5, hg, hp, Bool.not_true, Bool.not_false, Bool.false_eq_true, if_false, if_true]

/-- A port word of another domain. -/
theorem runInstr_mismatch {p : Port} (h : Checked i w u s) (hg : w.holds s.regs = true) (hp : s.portsReady u = true)
    (hb : (s.readSrcs u.srcs).2.2 = some p) :
    runInstr i w u eff s = .next (if s.trapWaits then s.block (.reissue false)
      else (s.readSrcs u.srcs).1.noRestore.takeTrap 0x0D (at' p.regCode 0 ||| at' 1 8)) := by
  obtain ⟨h1, h2, h3, h4, h5⟩ := h
  unfold runInstr
  simp only []
  refine (if_neg (by rw [← Bool.not_eq_true] at h1; exact h1)).trans ?_
  rw [if_neg (by rw [h2]; exact Bool.false_ne_true), h3]
  simp only [h4]
  simp only [h5, hg, hp, Bool.not_true, Bool.false_eq_true, if_false, hb]

end Sys2Proof.Machine
end

