-- ==== Sys2Proof/Laws/Frame.lean ====
section
/-!
SUPPORT. What the selector and retirement leave alone.
-/

namespace Sys2Proof.Machine

theorem SameButNext.refl (s : State) : SameButNext s s :=
  ⟨rfl, fun _ => rfl, rfl, fun _ _ _ => rfl, rfl, rfl, fun _ => rfl, ⟨rfl, rfl, rfl, rfl⟩, rfl, fun _ _ => rfl⟩

theorem SameButNext.trans {s t u : State} (h : SameButNext s t) (k : SameButNext t u) : SameButNext s u where
  turn := k.turn.trans h.turn
  bytes p := (k.bytes p).trans (h.bytes p)
  mine := k.mine.trans h.mine
  others c b x := (k.others c b (by rw [h.turn]; exact x)).trans (h.others c b x)
  stores := k.stores.trans h.stores
  sends := k.sends.trans h.sends
  ports c := (k.ports c).trans (h.ports c)
  devices := ⟨k.devices.1.trans h.devices.1, k.devices.2.1.trans h.devices.2.1, k.devices.2.2.1.trans h.devices.2.2.1,
    k.devices.2.2.2.trans h.devices.2.2.2⟩
  engines := k.engines.trans h.engines
  domains c a := (k.domains c a).trans (h.domains c a)

/-- A byte of memory after an update of a core that keeps its scratchpad. -/
theorem byteAt_updCore {s : State} {c : CoreId} {f : Core → Core} (h : ∀ q, (f q).scratch = q.scratch) (p : Place) :
    (s.updCore c f).byteAt p = s.byteAt p := by
  cases p with
  | phys a => rfl
  | scratch d o => exact congrArg (fun m : Memory => m.read o) (core_updCore_field (·.scratch) s c d f h)
  | acc t o => rfl

theorem kept_gstat (r : Regs) (g : Gstat) : ({ r with gstat := g } : Regs).kept = r.kept := rfl

/-- An update of a context that keeps its registers but for gang positions, its stores and its sends. -/
theorem same_updCtx (s : State) (c : CoreId) (k : BankId) (f : Context → Context)
    (hr : ∀ x, { (f x).regs with gstat := Gstat.none } = { x.regs with gstat := Gstat.none })
    (hb : ∀ x, (f x).storeBuf = x.storeBuf) (ho : ∀ x, (f x).outbox = x.outbox) : SameButNext s (s.updCtx c k f) where
  turn := rfl
  bytes p := byteAt_updCore (s := s) (c := c) (f := fun q => { q with ctxs := q.ctxs.set k (f (s.ctx c k)) }) (fun _ => rfl) p
  mine := by
    have h := ctx_updCtx_field (fun x => ({ x.regs with gstat := Gstat.none } : Regs)) s c s.turn.core k s.turn.ctx f hr
    have h2 := congrArg Regs.kept h
    exact h2
  others d j _ := ctx_updCtx_field (fun x => ({ x.regs with gstat := Gstat.none } : Regs)) s c d k j f hr
  stores := ctx_updCtx_field (·.storeBuf) s c s.turn.core k s.turn.ctx f hb
  sends := ctx_updCtx_field (·.outbox) s c s.turn.core k s.turn.ctx f ho
  ports d := core_updCtx_field (·.ports) s c d k f (fun _ _ => rfl)
  devices := ⟨rfl, rfl, rfl, rfl⟩
  engines := rfl
  domains d a := core_updCtx_field (fun q => q.dom d a) s c d k f (fun _ _ => rfl)

/-- An update of the executing bank that keeps all but what the selector and retirement write. -/
theorem same_updMe_at (s : State) (f : Context → Context) (hr : (f s.me).regs.kept = s.me.regs.kept)
    (hb : (f s.me).storeBuf = s.me.storeBuf) (ho : (f s.me).outbox = s.me.outbox) : SameButNext s (s.updMe f) where
  turn := rfl
  bytes p := byteAt_updCore (s := s) (c := s.turn.core) (f := fun q => { q with ctxs := q.ctxs.set s.turn.ctx (f s.me) }) (fun _ => rfl) p
  mine := by rw [regs_updMe]; exact hr
  others d j x := congrArg (fun y : Context => ({ y.regs with gstat := Gstat.none } : Regs))
    (ctx_updCtx_ne s f (fun e => x ⟨e.1.symm, e.2.symm⟩))
  stores := by rw [me_updMe]; exact hb
  sends := by rw [me_updMe]; exact ho
  ports d := core_updCtx_field (·.ports) s _ d _ f (fun _ _ => rfl)
  devices := ⟨rfl, rfl, rfl, rfl⟩
  engines := rfl
  domains d a := core_updCtx_field (fun q => q.dom d a) s _ d _ f (fun _ _ => rfl)

theorem same_updMe (s : State) (f : Context → Context) (hr : ∀ x, (f x).regs.kept = x.regs.kept)
    (hb : ∀ x, (f x).storeBuf = x.storeBuf) (ho : ∀ x, (f x).outbox = x.outbox) : SameButNext s (s.updMe f) :=
  same_updMe_at s f (hr _) (hb _) (ho _)

theorem same_updRegs (s : State) (f : Regs → Regs) (hr : ∀ r, (f r).kept = r.kept) : SameButNext s (s.updRegs f) :=
  same_updMe s _ (fun x => hr x.regs) (fun _ => rfl) (fun _ => rfl)

/-- A fold of updates that each keep so much keeps as much. -/
theorem same_fold {α : Type} (l : List α) (f : State → α → State) (s : State) (h : ∀ s a, SameButNext s (f s a)) :
    SameButNext s (l.foldl f s) := by
  induction l generalizing s with
  | nil => exact .refl s
  | cons a l ih => exact (h s a).trans (ih _)

theorem same_disband (s : State) (c : CoreId) (k : BankId) (r : BitVec 4) (x : BitVec 8) : SameButNext s (s.disband c k r x) := by
  unfold State.disband
  refine same_fold _ _ _ (fun s m => same_updCtx s m k _ ?_ ?_ ?_) <;> intro x <;> dsimp only <;> split <;> rfl

theorem same_readied (s : State) : SameButNext s s.readied := same_updMe s _ (fun _ => rfl) (fun _ => rfl) (fun _ => rfl)

theorem same_jump {s n : State} {a : Word} (h : s.jump a = .ok n) : SameButNext s n := by
  unfold State.jump at h
  split at h
  · cases h
  · cases h; exact same_updRegs s _ (fun _ => rfl)

/-- A computation that answers answers at each stage. -/
theorem bind_ok {ε α β : Type} {x : Except ε α} {f : α → Except ε β} {r : β} (h : x >>= f = .ok r) :
    ∃ a, x = .ok a ∧ f a = .ok r := by
  cases x with
  | error e => cases h
  | ok a => exact ⟨a, rfl, h⟩

/-- A report that answers answers the state itself. -/
theorem report_ok {s n : State} (h : s.report = .ok n) : n = s ∧ s.me.verifs = [] ∧ s.regs.guardPending = false := by
  unfold State.report at h
  split at h
  · cases h
  · split at h
    · cases h
    · cases h
      rename_i h1 h2
      exact ⟨rfl, by simpa using h1, by simpa using h2⟩

theorem same_commitPoint {s n : State} (h : s.commitPoint = .ok n) : SameButNext s n := by
  obtain ⟨a, ha, hb⟩ := bind_ok h
  obtain ⟨rfl, hv, hg⟩ := report_ok ha
  by_cases ho : a.me.outbox = []
  · rw [commitPoint_ok hv hg ho] at h
    cases h
    exact same_updMe _ _ (fun _ => rfl) (fun _ => rfl) (fun _ => rfl)
  · replace hb := (if_pos (by simpa using ho)).symm.trans hb
    cases hb

theorem same_endActivation {s n : State} (h : s.endActivation = .ok n) : SameButNext s n := by
  unfold State.endActivation at h
  split at h
  · cases h
  · split at h
    · cases h
    · split at h
      · cases h
      · cases h
        refine SameButNext.trans ?_ (same_updMe _ _ ?_ ?_ ?_)
        · split
          · exact same_disband ..
          · exact .refl _
        all_goals
          intro x
          unfold Context.endCommitted
          split <;> rfl

/-- The selector, where it answers. -/
theorem same_select {s n : State} {w : Pre} {pc : Word} (h : s.select w pc = .ok n) : SameButNext s n := by
  unfold State.select at h
  cases hw : w.nx <;> simp only [hw] at h
  case seq => cases h; exact same_updRegs s _ (fun _ => rfl)
  case fin => exact same_endActivation h
  case go => exact same_jump h
  case goc =>
    split at h
    · exact same_jump h
    · cases h; exact same_updRegs s _ (fun _ => rfl)
  case loop =>
    split at h
    · split at h
      · split at h
        · cases h
        · cases h; exact same_updRegs s _ (fun _ => rfl)
      · cases h
    · obtain ⟨a, ha, h⟩ := bind_ok h
      cases h
      exact (same_jump ha).trans (same_updRegs _ _ (fun _ => rfl))
  case call =>
    split at h
    · cases h
    · obtain ⟨a, ha, h⟩ := bind_ok h
      cases h
      exact (same_jump ha).trans (same_updRegs _ _ (fun _ => rfl))
  case ret =>
    split at h
    · split at h
      · cases h
      · obtain ⟨a, ha, h⟩ := bind_ok h
        cases h
        exact (same_jump ha).trans (same_updRegs _ _ (fun _ => rfl))
    · cases h

/-- A context differs from another in its gang position and its queue of forwarded instructions at most. -/
def GangOnly (x y : Context) : Prop :=
  ({ y.regs with gstat := Gstat.none } : Regs) = { x.regs with gstat := Gstat.none } ∧ y.storeBuf = x.storeBuf ∧ y.outbox = x.outbox

theorem compared_gang (x : Context) : GangOnly x x.compared := by
  unfold Context.compared
  repeat' split
  all_goals exact ⟨rfl, rfl, rfl⟩

theorem followed_gang (x : Context) : GangOnly x x.followed := by
  unfold Context.followed
  split
  · split
    · exact compared_gang _
    · exact ⟨rfl, rfl, rfl⟩
  · exact ⟨rfl, rfl, rfl⟩

theorem forwarded_gang (x : Context) (i : Instr) (a : Word) (n : Option Word) : GangOnly x (x.forwarded i a n) := by
  unfold Context.forwarded
  split
  · split
    · exact compared_gang _
    · exact ⟨rfl, rfl, rfl⟩
  · exact ⟨rfl, rfl, rfl⟩

theorem same_forwardTo (s : State) (i : Instr) (a : Word) (n : Option Word) (l : List CoreId) :
    SameButNext s (s.forwardTo i a n l) := by
  unfold State.forwardTo
  refine same_fold _ _ _ (fun s m => ?_)
  split
  · exact same_updCtx s m _ _ (fun x => (forwarded_gang x i a n).1) (fun x => (forwarded_gang x i a n).2.1)
      (fun x => (forwarded_gang x i a n).2.2)
  · exact .refl s

theorem same_forward (s : State) (i : Instr) (a : Word) (l : List CoreId) : SameButNext s (s.forward i a l) := same_forwardTo ..

theorem same_forwardFetched (s : State) (i : Instr) : SameButNext s (s.forwardFetched i) := by
  unfold State.forwardFetched
  dsimp only
  split
  · exact .refl s
  · exact (same_updMe s (fun x => { x with sentOn := true }) (fun _ => rfl) (fun _ => rfl) (fun _ => rfl)).trans (same_forwardTo ..)

/-- Retirement. -/
theorem same_retire (s : State) (i : Instr) (w : Pre) (l : List RegRef) (b : Bool) (a : Word) (fs : List CoreId) :
    SameButNext s (s.retire i w l b a fs) := by
  unfold State.retire
  refine SameButNext.trans (same_updMe s _ ?_ ?_ ?_) (same_forward ..) <;> intro x <;> dsimp only <;> cases w.s <;>
    cases x.restorable && x.restore.isNone
  all_goals first
    | exact (congrArg Regs.kept (followed_gang _).1).trans rfl
    | exact (followed_gang _).2.1.trans rfl
    | exact (followed_gang _).2.2.trans rfl

/-- A completed instruction keeps all its own effect leaves but what the selector and retirement write. -/
theorem completes_same {i : Instr} {w : Pre} {u : Uses} {s e : State} (h : Completes i w u s e) :
    ∃ t, exec i s = .next t ∧ SameButNext e t := by
  obtain ⟨n, hs, hx⟩ := h
  exact ⟨_, hx, (same_readied e).trans ((same_select hs).trans (same_retire ..))⟩

/-- The same for an instruction that chooses its next address. -/
theorem goes_same {i : Instr} {w : Pre} {u : Uses} {s e : State} (h : Goes i w u s e) (hr : Runs i w u s) :
    ∃ t, exec i s = .next t ∧ SameButNext e t := ⟨_, h hr, (same_readied e).trans (same_retire ..)⟩

/-! ### Bytes of memory -/

theorem byteAt_updCtx (s : State) (c : CoreId) (k : BankId) (f : Context → Context) (p : Place) :
    (s.updCtx c k f).byteAt p = s.byteAt p :=
  byteAt_updCore (s := s) (c := c) (f := fun q => { q with ctxs := q.ctxs.set k (f (s.ctx c k)) }) (fun _ => rfl) p

theorem byteAt_updMe (s : State) (f : Context → Context) (p : Place) : (s.updMe f).byteAt p = s.byteAt p :=
  byteAt_updCtx s _ _ f p

theorem byteAt_updRegs (s : State) (f : Regs → Regs) (p : Place) : (s.updRegs f).byteAt p = s.byteAt p :=
  byteAt_updMe s _ p

theorem byteAt_updPorts (s : State) (c : CoreId) (g : Vector (List (Word × Tag)) 4 → Vector (List (Word × Tag)) 4) (p : Place) :
    (s.updCore c (fun q => { q with ports := g q.ports })).byteAt p = s.byteAt p :=
  byteAt_updCore (s := s) (c := c) (f := fun q => { q with ports := g q.ports }) (fun _ => rfl) p

theorem byteAt_readSrcs (l : List GReg) (p : Place) : ∀ s : State, (s.readSrcs l).1.byteAt p = s.byteAt p := by
  induction l with
  | nil => intro s; rfl
  | cons r l ih =>
    intro s
    cases r with
    | g n => exact ih s
    | port q =>
      simp only [State.readSrcs]
      split
      · rename_i rest _
        exact (ih _).trans (byteAt_updPorts s _ (fun l => l.set q.idx rest) p)
      · exact ih s

theorem byteAt_opened (s : State) (u : Uses) (p : Place) : (s.opened u).byteAt p = s.byteAt p := by
  unfold State.opened
  dsimp only
  split
  · exact byteAt_readSrcs _ p s
  · exact (byteAt_updMe _ _ p).trans (byteAt_readSrcs _ p s)

theorem byteAt_writeG (s : State) (d : GReg) (x : Word) (p : Place) : (s.writeG d x).byteAt p = s.byteAt p := by
  cases d with
  | g n => exact byteAt_updRegs s _ p
  | port q =>
    simp only [State.writeG]
    split
    · exact byteAt_updPorts s _ (fun l => l.set q.opp.idx (l[q.opp.idx] ++ [(x, s.regs.tag)])) p
    · rfl

/-! ### Only the executing bank's context -/

theorem OnlyMine.refl (s : State) : OnlyMine s s :=
  ⟨rfl, fun _ => rfl, fun _ _ _ => rfl, fun _ => rfl, ⟨rfl, rfl, rfl, rfl⟩, rfl, fun _ _ => rfl⟩

theorem OnlyMine.trans {s t u : State} (h : OnlyMine s t) (k : OnlyMine t u) : OnlyMine s u where
  turn := k.turn.trans h.turn
  bytes p := (k.bytes p).trans (h.bytes p)
  others c b x := (k.others c b (by rw [h.turn]; exact x)).trans (h.others c b x)
  ports c := (k.ports c).trans (h.ports c)
  devices := ⟨k.devices.1.trans h.devices.1, k.devices.2.1.trans h.devices.2.1, k.devices.2.2.1.trans h.devices.2.2.1,
    k.devices.2.2.2.trans h.devices.2.2.2⟩
  engines := k.engines.trans h.engines
  domains c a := (k.domains c a).trans (h.domains c a)

theorem mine_updMe (s : State) (f : Context → Context) : OnlyMine s (s.updMe f) where
  turn := rfl
  bytes := byteAt_updMe s f
  others _ _ x := ctx_updCtx_ne s f (fun e => x ⟨e.1.symm, e.2.symm⟩)
  ports d := core_updCtx_field (·.ports) s _ d _ f (fun _ _ => rfl)
  devices := ⟨rfl, rfl, rfl, rfl⟩
  engines := rfl
  domains d a := core_updCtx_field (fun q => q.dom d a) s _ d _ f (fun _ _ => rfl)

theorem mine_updRegs (s : State) (f : Regs → Regs) : OnlyMine s (s.updRegs f) := mine_updMe s _

/-! ### Reading sources -/

theorem turn_readSrcs (l : List GReg) : ∀ s : State, (s.readSrcs l).1.turn = s.turn := by
  induction l with
  | nil => intro s; rfl
  | cons r l ih =>
    intro s
    cases r with
    | g n => exact ih s
    | port q =>
      simp only [State.readSrcs]
      split
      · exact ih _
      · exact ih s

theorem ctx_readSrcs (l : List GReg) (c : CoreId) (k : BankId) : ∀ s : State, (s.readSrcs l).1.ctx c k = s.ctx c k := by
  induction l with
  | nil => intro s; rfl
  | cons r l ih =>
    intro s
    cases r with
    | g n => exact ih s
    | port q =>
      simp only [State.readSrcs]
      split
      · exact (ih _).trans (ctx_updCore s _ _ _ _ (fun _ => rfl))
      · exact ih s

theorem turn_opened (s : State) (u : Uses) : (s.opened u).turn = s.turn := by
  unfold State.opened; dsimp only; split
  · exact turn_readSrcs ..
  · exact turn_readSrcs ..

theorem me_readSrcs (s : State) (l : List GReg) : (s.readSrcs l).1.me = s.me := by
  unfold State.me; rw [turn_readSrcs, ctx_readSrcs]

/-- Reading the sources changes no register. -/
theorem regs_opened (s : State) (u : Uses) : (s.opened u).regs = s.regs := by
  unfold State.opened; dsimp only; split
  · exact congrArg Context.regs (me_readSrcs s _)
  · unfold State.noRestore; rw [regs_updMe]; show (s.readSrcs u.srcs).1.me.regs = s.me.regs; rw [me_readSrcs]

/-- Without ports reading the sources changes nothing. -/
theorem readSrcs_noports (l : List GReg) : ∀ s : State, portsOf l = [] → (s.readSrcs l).1 = s := by
  induction l with
  | nil => intro s _; rfl
  | cons r l ih =>
    intro s h
    cases r with
    | g n => exact ih s (by simpa [portsOf] using h)
    | port q => simp [portsOf] at h

theorem opened_noports {s : State} {u : Uses} (h : portsOf (u.srcs ++ u.dst.toList) = []) : s.opened u = s := by
  have h2 : portsOf u.srcs = [] := by
    rw [portsOf, List.filterMap_append, List.append_eq_nil_iff] at h; exact h.1
  unfold State.opened; dsimp only
  rw [h]; exact readSrcs_noports _ _ h2

/-- The frame of an instruction whose effect is a result in gD. -/
theorem frameOf_gives {i : Instr} {w : Pre} {u : Uses} {d : GReg} {s : State} {v : Word}
    (h : Gives i w u s ((s.opened u).writeG d v)) : FrameOf i w u d s := by
  intro hr hn
  obtain ⟨t, hx, ht⟩ := completes_same (h hr (hn v))
  exact ⟨t, v, hx, ht, fun p => (ht.bytes p).trans ((byteAt_writeG ..).trans (byteAt_opened ..))⟩

end Sys2Proof.Machine
end

