-- ==== Sys2Proof/Laws/Memory.lean ====
section
/-!
SUPPORT. Laws of memory: read after write, the canonical form kept by every operation.
-/

namespace Sys2Proof.Machine

@[simp] theorem Memory.read_nil (a : Nat) : Memory.read [] a = 0 := rfl

/-! ### The canonical form -/

theorem Memory.above_mono {lo hi : Nat} (h : lo ≤ hi) : ∀ {m : Memory}, m.above hi = true → m.above lo = true
  | [], _ => rfl
  | (k, x) :: t, e => by
    simp only [Memory.above, Bool.and_eq_true, decide_eq_true_eq] at e ⊢
    exact ⟨⟨by omega, e.1.2⟩, e.2⟩

/-- What lies below the first entry reads 0. -/
theorem Memory.read_below {lo a : Nat} (h : a < lo) : ∀ {m : Memory}, m.above lo = true → m.read a = 0
  | [], _ => rfl
  | (k, x) :: t, e => by
    simp only [Memory.above, Bool.and_eq_true, decide_eq_true_eq] at e
    have hk : k ≠ a := by omega
    simp only [Memory.read, hk, if_false]
    exact Memory.read_below (by omega) e.2

theorem Memory.above_write {lo a : Nat} (h : lo ≤ a) (b : Byte) : ∀ {m : Memory}, m.above lo = true → (m.write a b).above lo = true
  | [], _ => by
    simp only [Memory.write]
    split
    · rfl
    · rename_i hb; simp only [Memory.above, Bool.and_eq_true, decide_eq_true_eq]; exact ⟨⟨h, hb⟩, trivial⟩
  | (k, x) :: t, e => by
    have e' := e
    simp only [Memory.above, Bool.and_eq_true, decide_eq_true_eq] at e
    simp only [Memory.write]
    split
    · split
      · exact e'
      · rename_i hk hb
        simp only [Memory.above, Bool.and_eq_true, decide_eq_true_eq]
        exact ⟨⟨h, hb⟩, ⟨by omega, e.1.2⟩, e.2⟩
    · split
      · split
        · exact Memory.above_mono (by omega) e.2
        · rename_i hk hb
          subst hk
          simp only [Memory.above, Bool.and_eq_true, decide_eq_true_eq]
          exact ⟨⟨h, hb⟩, e.2⟩
      · simp only [Memory.above, Bool.and_eq_true, decide_eq_true_eq]
        exact ⟨e.1, Memory.above_write (by omega) b e.2⟩

/-- A write keeps the canonical form. -/
theorem Memory.wf_write {m : Memory} (h : m.wf = true) (a : Nat) (b : Byte) : (m.write a b).wf = true :=
  Memory.above_write (Nat.zero_le a) b h

theorem Memory.wf_writeL (bs : List Byte) : ∀ {m : Memory} (_ : m.wf = true) (a : Nat), (m.writeL a bs).wf = true := by
  induction bs with
  | nil => intro m h a; exact h
  | cons b t ih => intro m h a; exact ih (Memory.wf_write h a b) (a + 1)

theorem Memory.above_filter (p : Nat × Byte → Bool) : ∀ {m : Memory} {lo : Nat}, m.above lo = true → Memory.above lo (m.filter p) = true
  | [], _, _ => rfl
  | (k, x) :: t, lo, e => by
    simp only [Memory.above, Bool.and_eq_true, decide_eq_true_eq] at e
    have ih := Memory.above_filter p e.2
    simp only [List.filter_cons]
    split
    · simp only [Memory.above, Bool.and_eq_true, decide_eq_true_eq]; exact ⟨e.1, ih⟩
    · exact Memory.above_mono (by omega) ih

theorem Memory.wf_filter {m : Memory} (h : m.wf = true) (p : Nat × Byte → Bool) : Memory.wf (m.filter p) = true :=
  Memory.above_filter p h

theorem Memory.wf_clear {m : Memory} (h : m.wf = true) (a n : Nat) : (m.clear a n).wf = true := Memory.wf_filter h _

/-! ### Read after write -/

theorem Memory.read_write_ne {a c : Nat} (b : Byte) (h : c ≠ a) : ∀ (m : Memory), (m.write a b).read c = m.read c
  | [] => by
    simp only [Memory.write]
    split
    · rfl
    · simp [Memory.read, Ne.symm h]
  | (k, x) :: t => by
    simp only [Memory.write]
    split
    · split
      · rfl
      · simp [Memory.read, Ne.symm h]
    · split
      · rename_i hk
        subst hk
        split <;> simp [Memory.read, Ne.symm h]
      · simp only [Memory.read]
        split
        · rfl
        · exact Memory.read_write_ne b h t

theorem Memory.above_read_write {lo a : Nat} (b : Byte) : ∀ {m : Memory}, m.above lo = true → (m.write a b).read a = b
  | [], _ => by
    simp only [Memory.write]
    split
    · rename_i h; simp [h]
    · simp [Memory.read]
  | (k, x) :: t, e => by
    simp only [Memory.above, Bool.and_eq_true, decide_eq_true_eq] at e
    simp only [Memory.write]
    split
    · rename_i hk
      split
      · rename_i hb
        have hne : k ≠ a := by omega
        simp only [Memory.read, hne, if_false, hb]
        exact Memory.read_below (by omega) e.2
      · simp [Memory.read]
    · split
      · rename_i hk
        subst hk
        split
        · rename_i hb; rw [hb]; exact Memory.read_below (by omega) e.2
        · simp [Memory.read]
      · rename_i h1 h2
        simp only [Memory.read, Ne.symm h2, if_false]
        exact Memory.above_read_write b e.2

/-- A read after a write to the same place gives the byte written. -/
theorem Memory.read_write_self {m : Memory} (h : m.wf = true) (a : Nat) (b : Byte) : (m.write a b).read a = b :=
  Memory.above_read_write b h

/-- A write of several bytes leaves every byte outside them. -/
theorem Memory.read_writeL_ne (bs : List Byte) : ∀ (m : Memory) {a c : Nat}, (c < a ∨ a + bs.length ≤ c) → (m.writeL a bs).read c = m.read c := by
  induction bs with
  | nil => intro m a c _; rfl
  | cons b t ih =>
    intro m a c h
    simp only [List.length_cons] at h
    simp only [Memory.writeL]
    rw [ih _ (by omega), Memory.read_write_ne b (by omega)]

/-- A write of several bytes gives each of them. -/
theorem Memory.read_writeL_self (bs : List Byte) : ∀ {m : Memory} (_ : m.wf = true) (a i : Nat) (hi : i < bs.length), (m.writeL a bs).read (a + i) = bs[i] := by
  induction bs with
  | nil => intro m _ a i hi; simp at hi
  | cons b t ih =>
    intro m h a i hi
    simp only [Memory.writeL]
    cases i with
    | zero => rw [Memory.read_writeL_ne t _ (by omega)]; exact Memory.read_write_self h a b
    | succ i =>
      simp only [List.length_cons] at hi
      have := ih (Memory.wf_write h a b) (a + 1) i (by omega)
      rw [show a + (i + 1) = a + 1 + i by omega]
      exact this

end Sys2Proof.Machine
end

