-- ==== Sys2Proof/Laws/Access.lean ====
section
/-!
SUPPORT. What the checks of an access answer for bytes of the own scratchpad, and what reading and storing there does.
-/

namespace Sys2Proof.Machine

/-- An access of own bytes is a kind that its rights cover. -/
def Kind.within (k : Kind) (reads writes : Bool) : Prop :=
  match k with
  | .load => reads = true
  | .store => writes = true
  | .atomic => reads = true ∧ writes = true
  | .fetch => False

/-- Where an access of own bytes goes. -/
def ownLoc (s : State) (o : Nat) : Loc :=
  { place := .scratch s.turn.core o, ty := 0, prot := false, gtag := s.regs.tag, logged := true }

variable {s : State} {addr : Word} {o n : Nat} {rd wr : Bool}

theorem OwnBytes.grants (h : OwnBytes s addr o n rd wr) {k : Kind} (hk : k.within rd wr) :
    (s.core s.turn.core).grants (coreN s.turn.core * 0x20000 + o) true k s.regs.tag = true := by
  obtain ⟨w, hw, g1, g2, g3, g4, g5, g6, g7, g8⟩ := h.granted
  simp only [Core.grants, Bool.not_true, Bool.false_and, Bool.false_eq_true, if_false]
  refine List.any_eq_true.mpr ⟨w, hw, ?_⟩
  unfold Window.grants
  have e1 : decide (w.dtag = s.regs.tag) = true := by simpa using g2
  have e2 : decide (s.regs.tag ≠ 0) = true := by simpa using g3
  have e3 : decide (w.space = true) = true := by simpa using g4
  have e4 := decide_eq_true g5
  have e5 := decide_eq_true g6
  rw [g1, e1, e2, e3, e4, e5]
  cases k with
  | load => exact g7 hk
  | store => exact g8 hk
  | atomic => simp [g7 hk.1, g8 hk.2]
  | fetch => exact hk.elim

/-- The checks of an access of own bytes pass (R84, R155, R282). -/
theorem OwnBytes.check (h : OwnBytes s addr o n rd wr) {k : Kind} (hk : k.within rd wr) (hn : 0 < n) :
    s.checkAccess addr.toNat n k = .ok (ownLoc s o) := by
  have hg := h.grants hk
  have h1 := h.place
  have h3 := h.inside
  have hf : k ≠ .fetch := by intro e; subst e; exact hk
  have e1 : ¬addr.toNat < 2 ^ 56 := by rw [h1]; simp only [aliasBase]; omega
  have e2 : ¬(clusterBase ≤ addr.toNat ∧ addr.toNat < clusterBase + 0x800000) := by rw [h1]; simp only [aliasBase, clusterBase]; omega
  have e3 : (decide (aliasBase ≤ addr.toNat) && decide (addr.toNat < aliasBase + 0x20000)) = true := by
    rw [h1, Bool.and_eq_true, decide_eq_true_eq, decide_eq_true_eq]; omega
  have e4 : addr.toNat - aliasBase = o := by rw [h1]; omega
  unfold State.checkAccess
  rw [if_neg (by rw [h.aligned]; omega)]
  unfold State.checkSpace
  dsimp only
  rw [if_neg e1, if_neg (by simpa using hf), dif_neg e2, if_pos e3, e4]
  rw [if_pos (by simp only [State.checkScratch, hg, scratchOpen]; simp; omega)]
  rfl

theorem OwnBytes.unguarded (h : OwnBytes s addr o n rd wr) {i : Nat} (hi : i < n) : s.guarded (ownLoc s o) i = false := by
  simp only [State.guarded, ownLoc, h.level, h.open_ i hi]; rfl

theorem buffered_nil {x : Context} (h : x.storeBuf = []) (p : Place) (i : Nat) : x.buffered p i = none := by
  simp [Context.buffered, h]

theorem OwnBytes.guardRead (h : OwnBytes s addr o n rd wr) {bs : List Byte} (hb : bs.length = n) :
    s.guardRead (ownLoc s o) bs = (s, bs) := by
  unfold State.guardRead
  rw [List.find?_eq_none.mpr]
  intro i hi
  rw [hb] at hi
  rw [h.unguarded (List.mem_range.mp hi)]
  simp

/-- A read of own bytes gives what the scratchpad holds and changes nothing. -/
theorem OwnBytes.read (h : OwnBytes s addr o n rd wr) : s.readLoc (ownLoc s o) n = .ok (s, s.myCore.scratch.readN o n) := by
  have hb := h.drained
  have h1 : s.me.fenced = false := by simp [Context.fenced, hb]
  have h2 : ((List.range n).map (fun i => s.me.buffered (ownLoc s o).place i)).any Option.isSome = false := by
    rw [List.any_eq_false]
    intro x hx
    obtain ⟨i, _, rfl⟩ := List.mem_map.mp hx
    rw [buffered_nil hb]; simp
  have h3 : s.readWaits (ownLoc s o) n = false := by
    unfold State.readWaits
    dsimp only
    rw [h2]
    simp [ownLoc]
  have h4 : s.poisonOf (.scratch s.turn.core o) n = none := h.sound
  have h5 : s.readRaw true (ownLoc s o) n = .ok (s, s.myCore.scratch.readN o n) := by
    unfold State.readRaw
    rw [h1, h3]
    simp only [Bool.or_self, Bool.false_eq_true, if_false]
    have e : (ownLoc s o).ty ≠ 3 := by simp [ownLoc]
    rw [if_neg e]
    simp only [bind, Except.bind]
    rw [if_neg (by rw [h2]; simp)]
    simp only [ownLoc, h4]
    rfl
  unfold State.readLoc State.readLocBy
  rw [h5]
  simp only [bind, Except.bind]
  exact congrArg _ (h.guardRead (by simp [Memory.readN]))

/-- Draining an empty store buffer. -/
theorem drain_empty (hb : s.me.storeBuf = []) : s.drain s.turn.core s.turn.ctx = s.updMe (fun x => { x with storeBuf := [] }) := by
  have : (s.ctx s.turn.core s.turn.ctx).storeBuf = [] := hb
  unfold State.drain; rw [this]; rfl

theorem same_drain_empty (hb : s.me.storeBuf = []) : SameButNext s (s.drain s.turn.core s.turn.ctx) := by
  rw [drain_empty hb]
  exact same_updMe_at s _ rfl hb.symm rfl

theorem drainMe_empty (hb : s.me.storeBuf = []) : s.drainMe = .ok (s.updMe (fun x => { x with storeBuf := [] })) := by
  unfold State.drainMe
  rw [if_pos (by rw [hb]; rfl), drain_empty hb]

theorem releaseMe_empty (hb : s.me.storeBuf = []) (hv : s.me.verifs = []) :
    s.releaseMe = .ok (s.updMe (fun x => { x with storeBuf := [] })) := by
  unfold State.releaseMe
  rw [if_neg (by rw [hv]; simp), drainMe_empty hb]

/-! ### The value of bytes -/

theorem leNat_map {α : Type} (f : α → Byte) (l : List α) : leNat (l.map f) = l.foldr (fun i x => (f i).toNat + 256 * x) 0 := by
  induction l with
  | nil => rfl
  | cons a l ih => simp only [List.map_cons, leNat, ih, List.foldr_cons]

@[simp] theorem leBytes_length (n v : Nat) : (leBytes n v).length = n := by
  induction n generalizing v with
  | zero => rfl
  | succ n ih => simp [leBytes, ih]

/-! ### A store in the buffer -/

/-- A buffered store gives its own bytes. -/
theorem store_byteAt_plus (st : Store) (i : Nat) (h : i < st.bytes.length) : st.byteAt (st.place.plus i) 0 = some st.bytes[i] := by
  unfold Store.byteAt Place.plus
  cases hp : st.place with
  | phys a => simp [h]
  | scratch c o => simp [h]
  | acc c o => simp [h]

/-- It gives no other byte. -/
theorem store_byteAt_none (st : Store) (q : Place) (h : ∀ i < st.bytes.length, q ≠ st.place.plus i) : st.byteAt q 0 = none := by
  have key : ∀ a b : Nat, (∀ i < st.bytes.length, b ≠ a + i) →
      (if a ≤ b + 0 then st.bytes[b + 0 - a]? else none) = none := by
    intro a b hab
    split
    · rename_i hle
      rw [List.getElem?_eq_none]
      by_cases hlt : b - a < st.bytes.length
      · exact absurd (by omega) (hab (b - a) hlt)
      · omega
    · rfl
  unfold Store.byteAt
  cases hp : st.place with
  | phys a =>
    cases q with
    | phys b => exact key a b (fun i hi e => h i hi (by rw [hp]; simp [Place.plus, e]))
    | scratch c b => rfl
    | acc c b => rfl
  | scratch c a =>
    cases q with
    | phys b => rfl
    | scratch c' b =>
      dsimp only
      split
      · rename_i hc
        exact key a b (fun i hi e => h i hi (by rw [hp]; simp [Place.plus, e, hc]))
      · rfl
    | acc c b => rfl
  | acc c a =>
    cases q with
    | phys b => rfl
    | scratch c b => rfl
    | acc c' b =>
      dsimp only
      split
      · rename_i hc
        exact key a b (fun i hi e => h i hi (by rw [hp]; simp [Place.plus, e, hc]))
      · rfl

/-- What a thread sees after a store of its own joins the buffer. -/
theorem stored_seen {s t : State} {st : Store} (hb : t.me.storeBuf = s.me.storeBuf ++ [st]) (hm : ∀ q, t.byteAt q = s.byteAt q) :
    Stored s.seen t.seen st.place st.bytes := by
  have e : ∀ q, t.me.buffered q 0 = (st.byteAt q 0).or (s.me.buffered q 0) := by
    intro q
    unfold Context.buffered
    rw [hb, List.reverse_append, List.findSome?_append]
    simp [Option.or]
  constructor
  · intro i h
    unfold State.seen
    rw [e, store_byteAt_plus st i h]; rfl
  · intro q h
    unfold State.seen
    rw [e, store_byteAt_none st q h, hm]; rfl

/-! ### A store -/

theorem logWrite_me (s : State) (l : Loc) (us : List Nat) : (s.logWrite l us).me.storeBuf = s.me.storeBuf ∧
    (s.logWrite l us).me.storeSeq = s.me.storeSeq ∧ (s.logWrite l us).regs = s.regs ∧ (s.logWrite l us).mMode = s.mMode ∧
    OnlyMine s (s.logWrite l us) := by
  have key : ∀ f : Context → Context, (∀ x, (f x).storeBuf = x.storeBuf ∧ (f x).storeSeq = x.storeSeq ∧ (f x).regs = x.regs) →
      (s.updMe f).me.storeBuf = s.me.storeBuf ∧ (s.updMe f).me.storeSeq = s.me.storeSeq ∧ (s.updMe f).regs = s.regs ∧
        (s.updMe f).mMode = s.mMode ∧ OnlyMine s (s.updMe f) := by
    intro f h
    refine ⟨?_, ?_, ?_, rfl, mine_updMe s f⟩
    · rw [me_updMe]; exact (h _).1
    · rw [me_updMe]; exact (h _).2.1
    · rw [regs_updMe]; exact (h _).2.2
  unfold State.logWrite
  split
  · split
    · exact key _ (fun _ => ⟨rfl, rfl, rfl⟩)
    · exact key _ (fun _ => ⟨rfl, rfl, rfl⟩)
  · exact key _ (fun _ => ⟨rfl, rfl, rfl⟩)

theorem logWrite_launch (s : State) (l : Loc) (us : List Nat) : (s.logWrite l us).me.launch = s.me.launch := by
  have key : ∀ f : Context → Context, (∀ x, (f x).launch = x.launch) → (s.updMe f).me.launch = s.me.launch := by
    intro f h
    rw [me_updMe]
    exact h _
  unfold State.logWrite
  split
  · split <;> exact key _ (fun _ => rfl)
  · exact key _ (fun _ => rfl)

/-- The entry a store leaves in the buffer. -/
def storeOf (s : State) (l : Loc) (bs : List Byte) (release acquire : Bool) : Store :=
  { seq := s.me.storeSeq, place := l.place, bytes := bs, release := release || l.ty = 3, acquire := acquire || l.ty = 3
    ty := l.ty, prot := l.prot, tag := s.regs.tag, outer := s.regs.outerTag, chan := s.regs.chan, launch := s.me.launch }

/-- A store to an unprotected place needs no key. -/
theorem keyHeld_plain {s : State} {l : Loc} (h : l.prot = false) : s.keyHeld l = .ok () := by
  unfold State.keyHeld
  split
  · rw [h]; rfl
  · rfl

/-- A store of a thread joins the buffer; memory and registers stand as before. -/
theorem storeLoc_buffers {s : State} {l : Loc} {bs : List Byte} {rel acq : Bool} (hm : s.mMode = false)
    (hk : s.keyHeld l = .ok ()) (ha : s.me.fenced = false) (hg : s.guarded l 0 = false) :
    ∃ e, s.storeLoc l bs rel acq = .ok e ∧ e.me.storeBuf = s.me.storeBuf ++ [storeOf s l bs rel acq] ∧ e.regs = s.regs ∧
      OnlyMine s e := by
  obtain ⟨h1, h2, h3, h4, h5⟩ := logWrite_me s l (unitsOf l.place.off bs.length)
  have hw : s.monitorWaits l = false := by simp [State.monitorWaits, hm]
  unfold State.storeLoc
  rw [hk, ha, hg, hw]
  refine ⟨_, rfl, ?_, ?_, ?_⟩ <;> simp only [State.buffer, h4, hm, Bool.false_eq_true, if_false]
  · rw [me_updMe]
    show (s.logWrite l _).me.storeBuf ++ _ = _
    rw [h1, h2]
    have hr : (s.logWrite l (unitsOf l.place.off bs.length)).me.regs = s.regs := h3
    rw [hr, logWrite_launch]; rfl
  · rw [regs_updMe]; exact h3
  · exact h5.trans (mine_updMe _ _)

/-! ### A write that reaches memory -/

theorem lookup_mem {α : Type} {l : List (Nat × α)} {n : Nat} {x : α} (h : lookup l n = some x) : (n, x) ∈ l := by
  induction l with
  | nil => cases h
  | cons e t ih =>
    obtain ⟨k, y⟩ := e
    simp only [lookup] at h
    split at h
    · cases h; subst_vars; exact List.mem_cons_self
    · exact List.mem_cons_of_mem _ (ih h)

theorem wf_scratch {s : State} (h : Safe.memories s) (c : CoreId) : (s.core c).scratch.wf = true := by
  unfold State.core
  cases hl : lookup s.cores c.val with
  | none => rfl
  | some q => exact h.2.1 _ (lookup_mem hl)

theorem wf_acc {s : State} (h : Safe.memories s) (t : TroupeId) : (s.troupe t).acc.wf = true := by
  unfold State.troupe
  cases hl : lookup s.troupes t.val with
  | none => rfl
  | some q => exact h.2.2.1 _ (lookup_mem hl)

/-- Lines whose records stand under the key of a write keep their bytes: only their records change. -/
theorem touchLines_stand (key : Option EngineKey) (lines : List Nat) (s : State)
    (h : ∀ line ∈ lines, ∀ l, lookup s.lines line = some l → l.writer = key) :
    (lines.foldl (fun s line => s.touchLine key line) s).mem = s.mem := by
  induction lines generalizing s with
  | nil => rfl
  | cons x t ih =>
    have hm : (s.touchLine key x).mem = s.mem := by
      unfold State.touchLine
      split
      · show rekeyed _ _ _ _ = _
        unfold rekeyed
        split
        · rfl
        · rename_i o ho
          exact if_pos (h x List.mem_cons_self o ho)
      · rfl
    rw [List.foldl_cons, ih, hm]
    intro line hl l e
    unfold State.touchLine at e
    split at e
    · replace e : lookup (insert s.lines x _) line = some l := e
      by_cases hx : x = line
      · subst hx
        rw [lookup_insert_same] at e
        cases e; rfl
      · rw [lookup_insert_ne _ _ hx] at e
        exact h line (List.mem_cons_of_mem _ hl) l e
    · exact h line (List.mem_cons_of_mem _ hl) l e

/-- A write to physical memory under the key its lines stand under writes its bytes and no other. -/
theorem writePhys_stand {s : State} {a : Nat} {bs : List Byte} {prot : Option Tag} (h : s.keyStands a bs.length prot) :
    (s.writePhys a bs prot).mem = s.mem.writeL a bs := by
  unfold State.writePhys
  dsimp only
  rw [if_neg]
  · exact congrArg (fun m : Memory => m.writeL a bs) (touchLines_stand _ _ s h.2)
  · have := h.1
    cases prot with
    | none => simp
    | some t => have := this t rfl; simp only [Option.bind_some]; cases hk : s.engineKey a t <;> simp_all

/-- A write of bytes to a place that is no device register: those bytes are there, and no other byte changes. -/
theorem writePlace_stored {s : State} (hs : Safe.memories s) (who : Option Tag) (prot : Bool) {p : Place} (bs : List Byte)
    (hp : ∀ a, p = .phys a → homeOf a ≠ .dev ∧ s.keyStands a bs.length (if prot then who else none)) :
    Stored s.byteAt (s.writePlace who prot p bs).byteAt p bs := by
  have out : ∀ {a b : Nat}, (∀ i < bs.length, b ≠ a + i) → b < a ∨ a + bs.length ≤ b := by
    intro a b h
    by_cases h1 : b < a
    · exact .inl h1
    · by_cases h2 : b - a < bs.length
      · exact absurd (by omega) (h _ h2)
      · exact .inr (by omega)
  cases p with
  | phys a =>
    have e0 : s.writePlace who prot (.phys a) bs = s.writePhys a bs (if prot then who else none) := by
      unfold State.writePlace; exact if_neg (hp a rfl).1
    have em := writePhys_stand (hp a rfl).2
    rw [e0]
    constructor
    · intro i h
      show Memory.read (State.writePhys _ _ _ _).mem _ = _
      rw [em]; exact Memory.read_writeL_self bs hs.1 a i h
    · intro q h
      cases q with
      | phys b =>
        show Memory.read (State.writePhys _ _ _ _).mem _ = _
        rw [em]; exact Memory.read_writeL_ne bs s.mem (out (fun i hi e => h i hi (by simp [Place.plus, e])))
      | scratch c o => simp [State.byteAt]
      | acc t o => simp [State.byteAt, State.troupe]
  | scratch c a =>
    unfold State.writePlace
    constructor
    · intro i h
      have e : ((s.updCore c (fun q => { q with scratch := q.scratch.writeL a bs, scratchPoison := clearPoison q.scratchPoison a bs.length })).core c).scratch = (s.core c).scratch.writeL a bs := by
        rw [core_updCore_same]
      show Memory.read ((State.core _ c).scratch) (a + i) = _
      rw [e]
      exact Memory.read_writeL_self bs (wf_scratch hs c) a i h
    · intro q h
      cases q with
      | phys b => rfl
      | scratch d b =>
        by_cases hc : c = d
        · subst hc
          have e : ((s.updCore c (fun q => { q with scratch := q.scratch.writeL a bs, scratchPoison := clearPoison q.scratchPoison a bs.length })).core c).scratch = (s.core c).scratch.writeL a bs := by
            rw [core_updCore_same]
          show Memory.read ((State.core _ c).scratch) b = _
          rw [e]
          exact Memory.read_writeL_ne bs _ (out (fun i hi x => h i hi (by simp [Place.plus, x])))
        · exact congrArg (fun m : Core => m.scratch.read b) (core_updCore_ne s _ hc)
      | acc t o => rfl
  | acc c a =>
    unfold State.writePlace
    constructor
    · intro i h
      have e : ((s.updTroupe c (fun q => { q with acc := q.acc.writeL a bs, accPoison := clearPoison q.accPoison a bs.length })).troupe c).acc = (s.troupe c).acc.writeL a bs := by
        rw [troupe_updTroupe_same]
      show Memory.read ((State.troupe _ c).acc) (a + i) = _
      rw [e]
      exact Memory.read_writeL_self bs (wf_acc hs c) a i h
    · intro q h
      cases q with
      | phys b => rfl
      | scratch d b => rfl
      | acc d b =>
        by_cases hc : c = d
        · subst hc
          have e : ((s.updTroupe c (fun q => { q with acc := q.acc.writeL a bs, accPoison := clearPoison q.accPoison a bs.length })).troupe c).acc = (s.troupe c).acc.writeL a bs := by
            rw [troupe_updTroupe_same]
          show Memory.read ((State.troupe _ c).acc) b = _
          rw [e]
          exact Memory.read_writeL_ne bs _ (out (fun i hi x => h i hi (by simp [Place.plus, x])))
        · exact congrArg (fun m : Troupe => m.acc.read b) (troupe_updTroupe_ne s _ hc)

/-- A store in M mode that waits for no tile reaches memory at once. -/
theorem storeLoc_writes {s : State} {l : Loc} {bs : List Byte} {rel acq : Bool} (hm : s.mMode = true) (hs : Safe.memories s)
    (hk : l.prot = false) (ha : s.me.fenced = false) (hw : s.monitorWaits l = false)
    (hp : ∀ a, l.place = .phys a → homeOf a ≠ .dev ∧ s.keyStands a bs.length none) :
    ∃ e, s.storeLoc l bs rel acq = .ok e ∧ Stored s.byteAt e.byteAt l.place bs := by
  obtain ⟨h1, h2, h3, h4, h5⟩ := logWrite_me s l (unitsOf l.place.off bs.length)
  have hg : s.guarded l 0 = false := by unfold State.guarded; split <;> simp [hm]
  have hs' : Safe.memories (s.logWrite l (unitsOf l.place.off bs.length)) := by
    have key : ∀ f : Context → Context, Safe.memories (s.updMe f) := by
      intro f
      refine ⟨hs.1, ?_, hs.2.2⟩
      intro e he
      have : ∀ (m : List (Nat × Core)) (c : Nat) (x : Core), (∀ e ∈ m, e.2.scratch.wf = true) → x.scratch.wf = true → ∀ e ∈ insert m c x, e.2.scratch.wf = true := by
        intro m c x hm hx
        induction m with
        | nil => intro e he; simp [insert] at he; rw [he]; exact hx
        | cons a t ih =>
          intro e he
          obtain ⟨k, y⟩ := a
          simp only [insert] at he
          split at he
          · rcases List.mem_cons.mp he with rfl | he
            · exact hx
            · exact hm _ he
          · split at he
            · rcases List.mem_cons.mp he with rfl | he
              · exact hx
              · exact hm _ (List.mem_cons_of_mem _ he)
            · rcases List.mem_cons.mp he with rfl | he
              · exact hm _ List.mem_cons_self
              · exact ih (fun e he => hm e (List.mem_cons_of_mem _ he)) e he
      exact this s.cores s.turn.core.val
        { s.core s.turn.core with ctxs := (s.core s.turn.core).ctxs.set s.turn.ctx (f s.me) } hs.2.1 (wf_scratch hs s.turn.core) e he
    unfold State.logWrite
    split
    · split
      · exact key _
      · exact key _
    · exact key _
  have hl : (s.logWrite l (unitsOf l.place.off bs.length)).lines = s.lines := by
    unfold State.logWrite
    split
    · split <;> rfl
    · rfl
  unfold State.storeLoc
  rw [keyHeld_plain hk, ha, hg, hw]
  refine ⟨_, rfl, ?_⟩
  simp only [State.buffer, h4, hm, if_true]
  have := writePlace_stored hs' none l.prot bs (fun a e => ⟨(hp a e).1, fun t ht => (by cases hq : l.prot <;> simp [hq] at ht), by
    intro line hline l' e'
    rw [hl] at e'
    have := (hp a e).2.2 line hline l' e'
    cases hq : l.prot <;> simpa [hq] using this⟩)
  exact ⟨this.1, fun q h => (this.2 q h).trans (h5.bytes q)⟩

end Sys2Proof.Machine
end

