-- ==== Sys2Proof/Laws/Lanes.lean ====
section
/-!
SUPPORT. Elements of a vector register: what packing, merging and writing elements gives.
-/

namespace Sys2Proof.Machine

theorem packNat_lt (w : Nat) (l : List Nat) : packNat w l < 2 ^ (8 * w * l.length) := by
  induction l with
  | nil => simp [packNat]
  | cons a l ih =>
    simp only [packNat, List.length_cons, Nat.shiftLeft_eq]
    have h : a % 2 ^ (8 * w) < 2 ^ (8 * w) := Nat.mod_lt _ (Nat.two_pow_pos _)
    have e : 2 ^ (8 * w * (l.length + 1)) = 2 ^ (8 * w * l.length) * 2 ^ (8 * w) := by rw [Nat.mul_add, Nat.mul_one, Nat.pow_add]
    rw [e]
    have : (packNat w l + 1) * 2 ^ (8 * w) ≤ 2 ^ (8 * w * l.length) * 2 ^ (8 * w) := Nat.mul_le_mul_right _ ih
    rw [Nat.add_mul, Nat.one_mul] at this
    omega

theorem packNat_elem (w : Nat) : ∀ (l : List Nat) (i : Nat), packNat w l / 2 ^ (8 * w * i) % 2 ^ (8 * w) = l.getD i 0 % 2 ^ (8 * w)
  | [], i => by simp [packNat]
  | a :: l, 0 => by
    simp only [packNat, Nat.mul_zero, Nat.pow_zero, Nat.div_one, Nat.shiftLeft_eq, List.getD_cons_zero]
    rw [Nat.add_mul_mod_self_right, Nat.mod_mod]
  | a :: l, i + 1 => by
    have h : a % 2 ^ (8 * w) < 2 ^ (8 * w) := Nat.mod_lt _ (Nat.two_pow_pos _)
    have e : 2 ^ (8 * w * (i + 1)) = 2 ^ (8 * w) * 2 ^ (8 * w * i) := by
      rw [Nat.mul_add, Nat.mul_one, Nat.add_comm, Nat.pow_add]
    simp only [packNat, Nat.shiftLeft_eq, List.getD_cons_succ]
    rw [e, ← Nat.div_div_eq_div_mul, Nat.add_mul_div_right _ _ (Nat.two_pow_pos _), Nat.div_eq_of_lt h, Nat.zero_add]
    exact packNat_elem w l i

/-- Element i of a packed register. -/
theorem lane_pack {w : Nat} {l : List Nat} (hl : 8 * w * l.length ≤ 512) (i : Nat) :
    lane (pack w l) w i = l.getD i 0 % 2 ^ (8 * w) := by
  unfold lane pack
  have : packNat w l < 2 ^ 512 := Nat.lt_of_lt_of_le (packNat_lt w l) (Nat.pow_le_pow_right (by omega) hl)
  rw [BitVec.toNat_ofNat, Nat.mod_eq_of_lt this, Nat.shiftRight_eq_div_pow]
  exact packNat_elem w l i

theorem lane_lt (x : BitVec 512) (w i : Nat) : lane x w i < 2 ^ (8 * w) := Nat.mod_lt _ (Nat.two_pow_pos _)

/-- Element i of a merged result. -/
theorem lane_merge {n w : Nat} (hl : 8 * w * n ≤ 512) {i : Nat} (hi : i < n) (act : Nat → Bool) (zero : Bool) (old : BitVec 512)
    (new : Nat → Nat) : lane (mergeElems n w act zero old new) w i =
      if act i then new i % 2 ^ (8 * w) else if zero then 0 else lane old w i := by
  unfold mergeElems
  rw [lane_pack (by simpa using hl)]
  have : ((List.range n).map (fun i => if act i then new i else if zero then 0 else lane old w i)).getD i 0 =
      if act i then new i else if zero then 0 else lane old w i := by
    simp [List.getD, hi]
  rw [this]
  split
  · rfl
  · split
    · simp
    · exact Nat.mod_eq_of_lt (lane_lt _ _ _)

/-- Raising the flags of elements changes fflg and the event of the context alone. -/
theorem raiseElems_regs (s : State) (fl : List Fl) (a b : Nat → Nat) :
    (s.raiseElems fl a b).regs = { s.regs with fflg := s.regs.fflg ||| fl.foldl (fun x y => x ||| y) 0 } := by
  unfold State.raiseElems State.raiseFlags
  rw [regs_updMe]; rfl

theorem mine_raiseFlags (s : State) (fl : Fl) (a b : Word) : OnlyMine s (s.raiseFlags fl a b) := mine_updMe s _

theorem mine_raiseElems (s : State) (fl : List Fl) (a b : Nat → Nat) : OnlyMine s (s.raiseElems fl a b) := by
  unfold State.raiseElems; exact mine_raiseFlags s _ _ _

theorem mine_setV (s : State) (d : VReg) (x : BitVec 512) : OnlyMine s (s.setV d x) := by
  unfold State.setV; exact mine_updRegs s _

theorem foldl_or_map {α : Type} (f : α → Fl) (l : List α) (x : Fl) :
    x ||| (l.map f).foldl (fun a b => a ||| b) 0 = l.foldl (fun a j => a ||| f j) x := by
  have key : ∀ (l : List Fl) (a b : Fl), l.foldl (fun a b => a ||| b) (a ||| b) = a ||| l.foldl (fun a b => a ||| b) b := by
    intro l
    induction l with
    | nil => intro a b; rfl
    | cons c l ih => intro a b; simp only [List.foldl_cons, BitVec.or_assoc]; exact ih _ _
  induction l generalizing x with
  | nil => simp
  | cons c l ih =>
    simp only [List.map_cons, List.foldl_cons]
    rw [← ih]
    have e : (0 : Fl) ||| f c = f c ||| 0 := BitVec.or_comm _ _
    rw [e, key, ← BitVec.or_assoc]

theorem foldl_active (p : Nat → Bool) (f : Nat → Fp) (l : List Nat) (x : Fl) :
    l.foldl (fun a j => a ||| (if p j then f j else (⟨0, 0⟩ : Fp)).flags) x = (l.filter p).foldl (fun a j => a ||| (f j).flags) x := by
  induction l generalizing x with
  | nil => rfl
  | cons c l ih =>
    simp only [List.foldl_cons, List.filter_cons]
    cases h : p c with
    | true => simp only [if_true, List.foldl_cons]; exact ih _
    | false => simp only [Bool.false_eq_true, if_false]; rw [show (x ||| (0 : Fl)) = x by simp]; exact ih _

/-- Writing the results of the active elements. -/
theorem lanes_vwrite {s : State} {w : Pre} {n : Nat} (h64 : 64 / n * n = 64) (d : VReg) (r : Nat → Fp) (a b : Nat → Nat) :
    Lanes s (s.vwrite w n d (s.regs.onActive w n (64 / n) r) a b) w n d r := by
  have hlen : 8 * n * (64 / n) ≤ 512 := by
    rw [Nat.mul_assoc, Nat.mul_comm n, h64] <;> omega
  have hr : (s.vwrite w n d (s.regs.onActive w n (64 / n) r) a b).regs = { s.regs with
      v := s.regs.v.set d (mergeElems (64 / n) n (s.regs.active w n) w.mask.2 s.regs.v[d] (fun i => ((s.regs.onActive w n (64 / n) r).getD i ⟨0, 0⟩).bits))
      fflg := s.regs.fflg ||| ((s.regs.onActive w n (64 / n) r).map (·.flags)).foldl (fun x y => x ||| y) 0 } := by
    unfold State.vwrite
    dsimp only
    rw [raiseElems_regs]
    unfold State.setV
    rw [regs_updRegs]
    rfl
  have hget : ∀ j < 64 / n, s.regs.active w n j = true → (s.regs.onActive w n (64 / n) r).getD j ⟨0, 0⟩ = r j := by
    intro j hj ha
    simp [Regs.onActive, List.getD, hj, ha]
  constructor
  · intro j hj
    rw [hr]
    have e : (s.regs.v.set d (mergeElems (64 / n) n (s.regs.active w n) w.mask.2 s.regs.v[d] (fun i => ((s.regs.onActive w n (64 / n) r).getD i ⟨0, 0⟩).bits)))[d] =
        mergeElems (64 / n) n (s.regs.active w n) w.mask.2 s.regs.v[d] (fun i => ((s.regs.onActive w n (64 / n) r).getD i ⟨0, 0⟩).bits) := by simp
    simp only [e]
    rw [lane_merge hlen hj]
    cases ha : s.regs.active w n j with
    | true =>
      have : bit (s.regs.getM w.mask.1) (n * j) = true := ha
      simp only [this, if_true, hget j hj ha]
    | false =>
      have : bit (s.regs.getM w.mask.1) (n * j) = false := ha
      simp only [this, Bool.false_eq_true, if_false]
  · rw [hr]
    show s.regs.fflg ||| ((s.regs.onActive w n (64 / n) r).map (·.flags)).foldl (fun x y => x ||| y) 0 = _
    rw [foldl_or_map]
    unfold Regs.onActive
    rw [List.foldl_map]
    exact foldl_active (fun j => s.regs.active w n j) r _ _
  · rw [hr]
  · intro k hk
    rw [hr]
    have : d.val ≠ k.val := fun x => hk (Fin.ext x.symm)
    simp only [Fin.getElem_fin]
    exact Vector.getElem_set_ne d.isLt k.isLt this
  · exact (mine_setV s d _).trans (mine_raiseElems _ _ _ _)

end Sys2Proof.Machine
end

