-- ==== Sys2Proof/Laws/Log.lean ====
section
/-!
SUPPORT. A record or an event on a vector changes the die's log and the vectors alone (R306, R329).
-/

namespace Sys2Proof.Machine

@[simp] theorem raise_clock (s : State) (fn : FuncId) (v : Fin 64) : (s.raise fn v).clock = s.clock := rfl
@[simp] theorem raise_agenda (s : State) (fn : FuncId) (v : Fin 64) : (s.raise fn v).agenda = s.agenda := rfl
@[simp] theorem raise_turn (s : State) (fn : FuncId) (v : Fin 64) : (s.raise fn v).turn = s.turn := rfl
@[simp] theorem raise_fresh (s : State) (fn : FuncId) (v : Fin 64) : (s.raise fn v).fresh = s.fresh := rfl
@[simp] theorem raise_mem (s : State) (fn : FuncId) (v : Fin 64) : (s.raise fn v).mem = s.mem := rfl
@[simp] theorem raise_poison (s : State) (fn : FuncId) (v : Fin 64) : (s.raise fn v).poison = s.poison := rfl
@[simp] theorem raise_lines (s : State) (fn : FuncId) (v : Fin 64) : (s.raise fn v).lines = s.lines := rfl
@[simp] theorem raise_frames (s : State) (fn : FuncId) (v : Fin 64) : (s.raise fn v).frames = s.frames := rfl
@[simp] theorem raise_net (s : State) (fn : FuncId) (v : Fin 64) : (s.raise fn v).net = s.net := rfl
@[simp] theorem raise_cores (s : State) (fn : FuncId) (v : Fin 64) : (s.raise fn v).cores = s.cores := rfl
@[simp] theorem raise_troupes (s : State) (fn : FuncId) (v : Fin 64) : (s.raise fn v).troupes = s.troupes := rfl
@[simp] theorem raise_clusters (s : State) (fn : FuncId) (v : Fin 64) : (s.raise fn v).clusters = s.clusters := rfl
@[simp] theorem raise_regions (s : State) (fn : FuncId) (v : Fin 64) : (s.raise fn v).regions = s.regions := rfl
@[simp] theorem raise_unfolded (s : State) (fn : FuncId) (v : Fin 64) : (s.raise fn v).unfolded = s.unfolded := rfl
@[simp] theorem raise_domains (s : State) (fn : FuncId) (v : Fin 64) : (s.raise fn v).domains = s.domains := rfl
@[simp] theorem raise_partitions (s : State) (fn : FuncId) (v : Fin 64) : (s.raise fn v).partitions = s.partitions := rfl
@[simp] theorem raise_published (s : State) (fn : FuncId) (v : Fin 64) : (s.raise fn v).published = s.published := rfl
@[simp] theorem raise_revoking (s : State) (fn : FuncId) (v : Fin 64) : (s.raise fn v).revoking = s.revoking := rfl
@[simp] theorem raise_host (s : State) (fn : FuncId) (v : Fin 64) : (s.raise fn v).host = s.host := rfl
@[simp] theorem raise_dies (s : State) (fn : FuncId) (v : Fin 64) : (s.raise fn v).dies = s.dies := rfl

@[simp] theorem log_clock (s : State) (d : DieId) (r : Rec) : (s.log d r).clock = s.clock := by
  unfold State.log; dsimp only; split <;> rfl
@[simp] theorem log_agenda (s : State) (d : DieId) (r : Rec) : (s.log d r).agenda = s.agenda := by
  unfold State.log; dsimp only; split <;> rfl
@[simp] theorem log_turn (s : State) (d : DieId) (r : Rec) : (s.log d r).turn = s.turn := by
  unfold State.log; dsimp only; split <;> rfl
@[simp] theorem log_fresh (s : State) (d : DieId) (r : Rec) : (s.log d r).fresh = s.fresh := by
  unfold State.log; dsimp only; split <;> rfl
@[simp] theorem log_mem (s : State) (d : DieId) (r : Rec) : (s.log d r).mem = s.mem := by
  unfold State.log; dsimp only; split <;> rfl
@[simp] theorem log_poison (s : State) (d : DieId) (r : Rec) : (s.log d r).poison = s.poison := by
  unfold State.log; dsimp only; split <;> rfl
@[simp] theorem log_lines (s : State) (d : DieId) (r : Rec) : (s.log d r).lines = s.lines := by
  unfold State.log; dsimp only; split <;> rfl
@[simp] theorem log_frames (s : State) (d : DieId) (r : Rec) : (s.log d r).frames = s.frames := by
  unfold State.log; dsimp only; split <;> rfl
@[simp] theorem log_net (s : State) (d : DieId) (r : Rec) : (s.log d r).net = s.net := by
  unfold State.log; dsimp only; split <;> rfl
@[simp] theorem log_cores (s : State) (d : DieId) (r : Rec) : (s.log d r).cores = s.cores := by
  unfold State.log; dsimp only; split <;> rfl
@[simp] theorem log_troupes (s : State) (d : DieId) (r : Rec) : (s.log d r).troupes = s.troupes := by
  unfold State.log; dsimp only; split <;> rfl
@[simp] theorem log_clusters (s : State) (d : DieId) (r : Rec) : (s.log d r).clusters = s.clusters := by
  unfold State.log; dsimp only; split <;> rfl
@[simp] theorem log_regions (s : State) (d : DieId) (r : Rec) : (s.log d r).regions = s.regions := by
  unfold State.log; dsimp only; split <;> rfl
@[simp] theorem log_unfolded (s : State) (d : DieId) (r : Rec) : (s.log d r).unfolded = s.unfolded := by
  unfold State.log; dsimp only; split <;> rfl
@[simp] theorem log_domains (s : State) (d : DieId) (r : Rec) : (s.log d r).domains = s.domains := by
  unfold State.log; dsimp only; split <;> rfl
@[simp] theorem log_partitions (s : State) (d : DieId) (r : Rec) : (s.log d r).partitions = s.partitions := by
  unfold State.log; dsimp only; split <;> rfl
@[simp] theorem log_published (s : State) (d : DieId) (r : Rec) : (s.log d r).published = s.published := by
  unfold State.log; dsimp only; split <;> rfl
@[simp] theorem log_revoking (s : State) (d : DieId) (r : Rec) : (s.log d r).revoking = s.revoking := by
  unfold State.log; dsimp only; split <;> rfl
@[simp] theorem log_host (s : State) (d : DieId) (r : Rec) : (s.log d r).host = s.host := by
  unfold State.log; dsimp only; split <;> rfl

@[simp] theorem log_core (s : State) (d : DieId) (r : Rec) (c : CoreId) : (s.log d r).core c = s.core c :=
  congrArg (fun l : List (Nat × Core) => (lookup l c.val).getD .reset) (log_cores s d r)
@[simp] theorem log_ctx (s : State) (d : DieId) (r : Rec) (c : CoreId) (k : BankId) : (s.log d r).ctx c k = s.ctx c k :=
  congrArg (fun q : Core => q.ctxs[k]) (log_core s d r c)
@[simp] theorem log_troupe (s : State) (d : DieId) (r : Rec) (t : TroupeId) : (s.log d r).troupe t = s.troupe t :=
  congrArg (fun l : List (Nat × Troupe) => (lookup l t.val).getD .reset) (log_troupes s d r)
@[simp] theorem log_cluster (s : State) (d : DieId) (r : Rec) (c : ClusterId) : (s.log d r).cluster c = s.cluster c :=
  congrArg (fun l : List (Nat × Cluster) => (lookup l c.val).getD .reset) (log_clusters s d r)

end Sys2Proof.Machine
end

