-- ==== Sys2Proof/Tests/Slice0.lean ====
section
/-!
SUPPORT. Tests of decoding, of the checks on instructions and of single steps, and a state and operands that meet the
hypotheses of each statement. Words are written from the opcode tables of R56 to R60 and R331, values from the rules.
-/

namespace Sys2Proof.Tests

open Sys2Proof Sys2Proof.Machine

set_option Elab.async false

/-! ### Decoding -/

/-- A word with neither prefix nor selector. -/
def w0 : Pre := { s := false, nx := .seq, chain := [] }
def plain (page : BitVec 8) : Pre := { w0 with chain := [.page page] }
/-- With PFX.R 8 as well. -/
def plain3 (page : BitVec 8) : Pre := { w0 with chain := [.page page, .src 8] }

def decodesTo (l : List (List Parcel × Instr)) : Bool := l.all (fun e => decodeParcels e.1 = some e.2)

theorem decode_alu : decodesTo [
    ([0x0003, 0x45E0], .add w0 (.g 3) (.g 17) (.g 30)),
    ([0x0003, 0x45E1], .sub w0 (.g 3) (.g 17) (.g 30)),
    ([0x0003, 0x45E2], .and w0 (.g 3) (.g 17) (.g 30)),
    ([0x0003, 0x45E3], .or w0 (.g 3) (.g 17) (.g 30)),
    ([0x0003, 0x45E4], .xor w0 (.g 3) (.g 17) (.g 30)),
    ([0x0003, 0x45E5], .andn w0 (.g 3) (.g 17) (.g 30)),
    ([0x0003, 0x45E6], .shl w0 (.g 3) (.g 17) (.g 30)),
    ([0x0003, 0x45E7], .shr w0 (.g 3) (.g 17) (.g 30)),
    ([0x0003, 0x45E8], .sar w0 (.g 3) (.g 17) (.g 30)),
    ([0x0003, 0x45E9], .rol w0 (.g 3) (.g 17) (.g 30)),
    ([0x0003, 0x45EA], .min w0 (.g 3) (.g 17) (.g 30)),
    ([0x0003, 0x45EB], .max w0 (.g 3) (.g 17) (.g 30)),
    ([0x0003, 0x45EC], .minu w0 (.g 3) (.g 17) (.g 30)),
    ([0x0003, 0x45ED], .maxu w0 (.g 3) (.g 17) (.g 30)),
    ([0x0003, 0x45EE], .addw w0 (.g 3) (.g 17) (.g 30)),
    ([0x0003, 0x45EF], .subw w0 (.g 3) (.g 17) (.g 30))] = true := by decide +kernel

theorem decode_imm : decodesTo [
    ([0x0043, 0x46A5], .addi w0 (.g 3) (.g 17) 0x2A5),
    ([0x0083, 0x46A5], .andi w0 (.g 3) (.g 17) 0x2A5),
    ([0x00C3, 0x46A5], .ori w0 (.g 3) (.g 17) 0x2A5),
    ([0x0103, 0x46A5], .xori w0 (.g 3) (.g 17) 0x2A5),
    ([0x0143, 0x442D], .shli w0 (.g 3) (.g 17) 0x2D),
    ([0x0183, 0x442D], .shri w0 (.g 3) (.g 17) 0x2D),
    ([0x01C3, 0x442D], .sari w0 (.g 3) (.g 17) 0x2D),
    ([0x0283, 0x8123], .movi w0 (.g 3) 0x8123)] = true := by decide +kernel

theorem decode_mul : decodesTo [
    ([0x0203, 0x45E0], .mul w0 (.g 3) (.g 17) (.g 30)),
    ([0x0203, 0x45E1], .mulh w0 (.g 3) (.g 17) (.g 30)),
    ([0x0203, 0x45E2], .mulhu w0 (.g 3) (.g 17) (.g 30)),
    ([0x0203, 0x45E3], .mulw w0 (.g 3) (.g 17) (.g 30)),
    ([0x0203, 0x45E4], .div w0 (.g 3) (.g 17) (.g 30)),
    ([0x0203, 0x45E5], .divu w0 (.g 3) (.g 17) (.g 30)),
    ([0x0203, 0x45E6], .rem w0 (.g 3) (.g 17) (.g 30)),
    ([0x0203, 0x45E7], .remu w0 (.g 3) (.g 17) (.g 30))] = true := by decide +kernel

theorem decode_bit : decodesTo [
    ([0x0243, 0x4400], .clz w0 (.g 3) (.g 17)),
    ([0x0243, 0x4401], .ctz w0 (.g 3) (.g 17)),
    ([0x0243, 0x4402], .popc w0 (.g 3) (.g 17)),
    ([0x0243, 0x4403], .brev w0 (.g 3) (.g 17)),
    ([0x0243, 0x4404], .bswap w0 (.g 3) (.g 17)),
    ([0x0243, 0x4405], .sextb w0 (.g 3) (.g 17)),
    ([0x0243, 0x4406], .sexth w0 (.g 3) (.g 17)),
    ([0x0243, 0x4407], .sextw w0 (.g 3) (.g 17)),
    ([0x0243, 0x4408], .zextb w0 (.g 3) (.g 17)),
    ([0x0243, 0x4409], .zexth w0 (.g 3) (.g 17)),
    ([0x0243, 0x440A], .zextw w0 (.g 3) (.g 17))] = true := by decide +kernel

theorem decode_pred : decodesTo [
    ([0x02C3, 0x45E2], .lea w0 (.g 3) (.g 17) (.g 30) 2),
    ([0x0305, 0x45E0], .cmp w0 .eq 5 (.g 17) (.g 30)),
    ([0x0346, 0x47FF], .cmpi w0 .eq 6 (.g 17) 0x3FF),
    ([0x0305, 0x45E1], .cmp w0 .ne 5 (.g 17) (.g 30)),
    ([0x034E, 0x47FF], .cmpi w0 .ne 6 (.g 17) 0x3FF),
    ([0x0305, 0x45E2], .cmp w0 .lt 5 (.g 17) (.g 30)),
    ([0x0356, 0x47FF], .cmpi w0 .lt 6 (.g 17) 0x3FF),
    ([0x0305, 0x45E3], .cmp w0 .ge 5 (.g 17) (.g 30)),
    ([0x035E, 0x47FF], .cmpi w0 .ge 6 (.g 17) 0x3FF),
    ([0x0305, 0x45E4], .cmp w0 .ltu 5 (.g 17) (.g 30)),
    ([0x0366, 0x47FF], .cmpi w0 .ltu 6 (.g 17) 0x3FF),
    ([0x0305, 0x45E5], .cmp w0 .geu 5 (.g 17) (.g 30)),
    ([0x036E, 0x47FF], .cmpi w0 .geu 6 (.g 17) 0x3FF),
    ([0x0305, 0x45E6], .cmp w0 .bits 5 (.g 17) (.g 30)),
    ([0x0376, 0x47FF], .cmpi w0 .bits 6 (.g 17) 0x3FF),
    ([0x0305, 0x45E7], .cmp w0 .bitc 5 (.g 17) (.g 30)),
    ([0x037E, 0x47FF], .cmpi w0 .bitc 6 (.g 17) 0x3FF),
    ([0x0383, 0x45E6], .sel w0 (.g 3) 6 (.g 17) (.g 30)),
    ([0x03C1, 0x0870], .pand w0 1 2 7),
    ([0x03C1, 0x0871], .por w0 1 2 7),
    ([0x03C1, 0x0872], .pxor w0 1 2 7),
    ([0x03C1, 0x0873], .pandn w0 1 2 7),
    ([0x03C1, 0x0804], .pnot w0 1 2),
    ([0x03C1, 0x0805], .pmov w0 1 2)] = true := by decide +kernel

theorem decode_mem : decodesTo [
    ([0x0403, 0x47F8], .ldb w0 (.g 3) (.g 17) 0x3F8),
    ([0x0443, 0x47F8], .ldbu w0 (.g 3) (.g 17) 0x3F8),
    ([0x0483, 0x47F8], .ldh w0 (.g 3) (.g 17) 0x3F8),
    ([0x04C3, 0x47F8], .ldhu w0 (.g 3) (.g 17) 0x3F8),
    ([0x0503, 0x47F8], .ldw w0 (.g 3) (.g 17) 0x3F8),
    ([0x0543, 0x47F8], .ldwu w0 (.g 3) (.g 17) 0x3F8),
    ([0x0583, 0x47F8], .ldd w0 (.g 3) (.g 17) 0x3F8),
    ([0x0603, 0x47F8], .stb w0 (.g 3) (.g 17) 0x3F8),
    ([0x0643, 0x47F8], .sth w0 (.g 3) (.g 17) 0x3F8),
    ([0x0683, 0x47F8], .stw w0 (.g 3) (.g 17) 0x3F8),
    ([0x06C3, 0x47F8], .std w0 (.g 3) (.g 17) 0x3F8),
    ([0x0703, 0x440C], .lda w0 .b .system (.g 3) (.g 17)),
    ([0x0743, 0x4400], .stl w0 .b .core (.g 3) (.g 17)),
    ([0x0703, 0x4409], .lda w0 .h .device (.g 3) (.g 17)),
    ([0x0743, 0x4405], .stl w0 .h .cluster (.g 3) (.g 17)),
    ([0x0703, 0x4406], .lda w0 .w .cluster (.g 3) (.g 17)),
    ([0x0743, 0x440A], .stl w0 .w .device (.g 3) (.g 17)),
    ([0x0703, 0x4403], .lda w0 .d .core (.g 3) (.g 17)),
    ([0x0743, 0x440F], .stl w0 .d .system (.g 3) (.g 17))] = true := by decide +kernel

theorem decode_atomic : decodesTo [
    ([0x0783, 0x45E0], .amo w0 .add (.g 3) (.g 17) (.g 30)),
    ([0x0783, 0x45E1], .amo w0 .swp (.g 3) (.g 17) (.g 30)),
    ([0x0783, 0x45E2], .amo w0 .and (.g 3) (.g 17) (.g 30)),
    ([0x0783, 0x45E3], .amo w0 .or (.g 3) (.g 17) (.g 30)),
    ([0x0783, 0x45E4], .amo w0 .xor (.g 3) (.g 17) (.g 30)),
    ([0x0783, 0x45E5], .amo w0 .min (.g 3) (.g 17) (.g 30)),
    ([0x0783, 0x45E6], .amo w0 .max (.g 3) (.g 17) (.g 30)),
    ([0x0783, 0x45E7], .amo w0 .minu (.g 3) (.g 17) (.g 30)),
    ([0x0783, 0x45E8], .amo w0 .maxu (.g 3) (.g 17) (.g 30)),
    ([0x0783, 0x45E9], .amo w0 .addw (.g 3) (.g 17) (.g 30)),
    ([0x07C3, 0x45E0], .cas w0 false (.g 3) (.g 17) (.g 30)),
    ([0x07C3, 0x45E1], .cas w0 true (.g 3) (.g 17) (.g 30)),
    ([0x0800, 0x0001], .fence w0 .acq .cluster),
    ([0x0800, 0x0006], .fence w0 .rel .device),
    ([0x0800, 0x000B], .fence w0 .full .system)] = true := by decide +kernel

theorem decode_msg : decodesTo [
    ([0x0840, 0x4459], .send w0 (.g 17) 5 9),
    ([0x0880, 0x45E0], .hdef w0 (.g 17) (.g 30)),
    ([0x08C0, 0x4400], .hen w0 (.g 17)),
    ([0x08C0, 0x4401], .hdis w0 (.g 17)),
    ([0x08C0, 0x4402], .hsetp w0 (.g 17)),
    ([0x08C0, 0x4403], .hclrp w0 (.g 17)),
    ([0x0900, 0x7000], .spawn w0 28),
    ([0x0940, 0x4400], .tdec w0 (.g 17)),
    ([0x0983, 0x4400], .wfm w0 (.g 3) (.g 17)),
    ([0x09C0, 0x4400], .bar w0 (.g 17)),
    ([0x09C0, 0x4401], .bara w0 (.g 17)),
    ([0x09C0, 0x4402], .barw w0 (.g 17))] = true := by decide +kernel

theorem decode_seq1 : decodesTo [
    ([0x0A00, 0x4400], .jmpr w0 (.g 17)),
    ([0x0A00, 0x4401], .jmprCall w0 (.g 17)),
    ([0x0A40, 0xFFF0], .tgt w0 0xFFF0),
    ([0x0A80, 0x4400], .lps w0 (.g 17)),
    ([0x0AC0, 0x0155], .lpsi w0 0x155),
    ([0x0B00, 0x0000], .disb w0),
    ([0x0B00, 0x0001], .gang2 w0),
    ([0x0B00, 0x0002], .gang4 w0),
    ([0x0B00, 0x0003], .gang8 w0),
    ([0x0B00, 0x0004], .rejn w0),
    ([0x0B43, 0x4400], .movrGf w0 3 (.g 17)),
    ([0x0B43, 0x4401], .movrFg w0 (.g 3) 17),
    ([0x0B40, 0x4402], .movrGp w0 (.g 17)),
    ([0x0B43, 0x0003], .movrPg w0 (.g 3)),
    ([0x0B83, 0x0201], .srd w0 (.g 3) 0x201),
    ([0x0BC3, 0x0201], .swr w0 (.g 3) 0x201),
    ([0x0C03, 0x0201], .ssb w0 (.g 3) 0x201),
    ([0x0C43, 0x0201], .scb w0 (.g 3) 0x201),
    ([0x0C80, 0x0000], .cmit w0),
    ([0x0D00, 0xBEEF], .brk w0 0xBEEF),
    ([0x0CC0, 0x0000], .mver w0),
    ([0x0CC0, 0x0001], .gpub w0),
    ([0x0CC0, 0x0002], .grev w0),
    ([0x0CC0, 0x0003], .spgd w0)] = true := by decide +kernel

theorem decode_seq2 : decodesTo [
    ([0x0CC0, 0x0020], .mcall w0 0x20)] = true := by decide +kernel

theorem decode_float : decodesTo [
    ([0x7401, 0x0003, 0x45E0], .fadd (plain 1) false 3 17 30),
    ([0x7401, 0x0003, 0x45E9], .fsub (plain 1) true 3 17 30),
    ([0x7401, 0x0003, 0x45E2], .fmul (plain 1) false 3 17 30),
    ([0x7401, 0x0003, 0x45EB], .fdiv (plain 1) true 3 17 30),
    ([0x7401, 0x0003, 0x45E4], .fmin (plain 1) false 3 17 30),
    ([0x7401, 0x0003, 0x45ED], .fmax (plain 1) true 3 17 30),
    ([0x7401, 0x0003, 0x440E], .fsqrt (plain 1) true 3 17),
    ([0x7401, 0x0043, 0x45E8], .fma (plain 1) true 3 17 30),
    ([0x7401, 0x0043, 0x45E9], .fms (plain 1) true 3 17 30),
    ([0x7401, 0x0043, 0x45EA], .fnma (plain 1) true 3 17 30),
    ([0x7401, 0x0043, 0x45EB], .fnms (plain 1) true 3 17 30),
    ([0x7401, 0x0084, 0x45E0], .fcmp (plain 1) false .eq 4 17 30),
    ([0x7401, 0x0084, 0x45E1], .fcmp (plain 1) false .lt 4 17 30),
    ([0x7401, 0x0084, 0x45E2], .fcmp (plain 1) false .le 4 17 30),
    ([0x7401, 0x0084, 0x45E3], .fcmp (plain 1) false .un 4 17 30),
    ([0x7401, 0x0084, 0x45E4], .fcmp (plain 1) false .ne 4 17 30)] = true := by decide +kernel

theorem decode_conv1 : decodesTo [
    ([0x7401, 0x00C3, 0x4400], .fcvt (plain 1) .f32f64 (.fx 3) (.fx 17)),
    ([0x7401, 0x00C3, 0x4401], .fcvt (plain 1) .f64f32 (.fx 3) (.fx 17)),
    ([0x7401, 0x00C3, 0x4402], .fcvt (plain 1) .f16f32 (.fx 3) (.fx 17)),
    ([0x7401, 0x00C3, 0x4403], .fcvt (plain 1) .f32f16 (.fx 3) (.fx 17)),
    ([0x7401, 0x00C3, 0x4404], .fcvt (plain 1) .bf16f32 (.fx 3) (.fx 17)),
    ([0x7401, 0x00C3, 0x4405], .fcvt (plain 1) .f32bf16 (.fx 3) (.fx 17)),
    ([0x7401, 0x00C3, 0x4406], .fcvt (plain 1) .i64f64 (.gx (.g 3)) (.fx 17)),
    ([0x7401, 0x00C3, 0x4407], .fcvt (plain 1) .i64f32 (.gx (.g 3)) (.fx 17)),
    ([0x7401, 0x00C3, 0x4408], .fcvt (plain 1) .u64f64 (.gx (.g 3)) (.fx 17)),
    ([0x7401, 0x00C3, 0x4409], .fcvt (plain 1) .u64f32 (.gx (.g 3)) (.fx 17)),
    ([0x7401, 0x00C3, 0x440A], .fcvt (plain 1) .f64i64 (.fx 3) (.gx (.g 17))),
    ([0x7401, 0x00C3, 0x440B], .fcvt (plain 1) .f32i64 (.fx 3) (.gx (.g 17))),
    ([0x7401, 0x00C3, 0x440C], .fcvt (plain 1) .f64u64 (.fx 3) (.gx (.g 17))),
    ([0x7401, 0x00C3, 0x440D], .fcvt (plain 1) .f32u64 (.fx 3) (.gx (.g 17))),
    ([0x7401, 0x00C3, 0x440E], .fcvt (plain 1) .wf19f32 (.fx 3) (.fx 17)),
    ([0x7401, 0x00C3, 0x440F], .fcvt (plain 1) .f32wf19 (.fx 3) (.fx 17)),
    ([0x7401, 0x0103, 0x4408], .fcls (plain 1) true (.g 3) 17),
    ([0x7401, 0x0143, 0x4400], .fmv (plain 1) false 3 17),
    ([0x7401, 0x0143, 0x4401], .fneg (plain 1) false 3 17),
    ([0x7401, 0x0143, 0x4402], .fabs (plain 1) false 3 17),
    ([0x7401, 0x0143, 0x45EB], .fcpys (plain 1) true 3 17 30),
    ([0x7401, 0x0180, 0x4401], .tbld (plain 1) true false (.g 17)),
    ([0x7401, 0x0180, 0x4402], .tbld (plain 1) false true (.g 17)),
    ([0x7401, 0x01C3, 0x4400], .enc (plain 1) .e4m3 false (.g 3) 17)] = true := by decide +kernel

theorem decode_conv2 : decodesTo [
    ([0x7401, 0x0203, 0x4400], .dec (plain 1) .e4m3 3 (.g 17)),
    ([0x7401, 0x01C3, 0x4409], .enc (plain 1) .e5m2 true (.g 3) 17),
    ([0x7401, 0x0203, 0x4401], .dec (plain 1) .e5m2 3 (.g 17)),
    ([0x7401, 0x01C3, 0x4402], .enc (plain 1) .int8 false (.g 3) 17),
    ([0x7401, 0x0203, 0x4402], .dec (plain 1) .int8 3 (.g 17)),
    ([0x7401, 0x01C3, 0x440B], .enc (plain 1) .e2m1 true (.g 3) 17),
    ([0x7401, 0x0203, 0x4403], .dec (plain 1) .e2m1 3 (.g 17)),
    ([0x7401, 0x01C3, 0x4404], .enc (plain 1) .ta false (.g 3) 17),
    ([0x7401, 0x0203, 0x4404], .dec (plain 1) .ta 3 (.g 17)),
    ([0x7401, 0x01C3, 0x440D], .enc (plain 1) .tb true (.g 3) 17),
    ([0x7401, 0x0203, 0x4405], .dec (plain 1) .tb 3 (.g 17)),
    ([0x7401, 0x0243, 0x4400], .scal (plain 1) (.g 3) 17)] = true := by decide +kernel

theorem decode_vec1 : decodesTo [
    ([0x7402, 0x0003, 0x45E6], .vadd (plain 2) .f32 3 17 (.vec 30)),
    ([0x7402, 0x0043, 0x45E5], .vsub (plain 2) .fp16 3 17 (.vec 30)),
    ([0x7402, 0x0083, 0x45E0], .vmul (plain 2) .i8 3 17 (.vec 30)),
    ([0x7402, 0x00C3, 0x45E7], .vfma (plain 2) .f64 3 17 (.vec 30)),
    ([0x7402, 0x0103, 0x45E4], .vmin (plain 2) .bf16 3 17 (.vec 30)),
    ([0x7402, 0x0143, 0x45E3], .vmax (plain 2) .i64 3 17 (.vec 30)),
    ([0x7402, 0x0183, 0x45E8], .vand (plain 2) .i8 3 17 (.bcast (.gx (.g 30)))),
    ([0x7402, 0x01C3, 0x45E9], .vor (plain 2) .i16 3 17 (.bcast (.gx (.g 30)))),
    ([0x7402, 0x0203, 0x45EA], .vxor (plain 2) .i32 3 17 (.bcast (.gx (.g 30)))),
    ([0x7402, 0x0243, 0x45EB], .vshl (plain 2) .i64 3 17 (.bcast (.gx (.g 30)))),
    ([0x7402, 0x0283, 0x45E8], .vshr (plain 2) .i8 3 17 (.bcast (.gx (.g 30)))),
    ([0x7402, 0x02C3, 0x45E9], .vsar (plain 2) .i16 3 17 (.bcast (.gx (.g 30)))),
    ([0x7402, 0x0003, 0x45EE], .vadd (plain 2) .f32 3 17 (.bcast (.fx 30))),
    ([0x7402, 0x0305, 0x45E2], .vcmp (plain 2) .i32 .eq 5 17 (.vec 30)),
    ([0x7402, 0x030D, 0x45E2], .vcmp (plain 2) .i32 .ne 5 17 (.vec 30)),
    ([0x7402, 0x0315, 0x45E2], .vcmp (plain 2) .i32 .lt 5 17 (.vec 30)),
    ([0x7402, 0x031D, 0x45E2], .vcmp (plain 2) .i32 .ge 5 17 (.vec 30)),
    ([0x7402, 0x0325, 0x45E2], .vcmp (plain 2) .i32 .ltu 5 17 (.vec 30)),
    ([0x7402, 0x032D, 0x45E2], .vcmp (plain 2) .i32 .geu 5 17 (.vec 30)),
    ([0x7402, 0x0335, 0x45E7], .vcmp (plain 2) .f64 .le 5 17 (.vec 30)),
    ([0x7402, 0x033D, 0x45E7], .vcmp (plain 2) .f64 .un 5 17 (.vec 30)),
    ([0x7402, 0x0343, 0x45E1], .vsel (plain 2) .i16 3 17 (.vec 30)),
    ([0x7402, 0x0383, 0x4464], .vcvt (plain 2) .bf16 .f32 3 17),
    ([0x7402, 0x03C3, 0x4402], .vabs (plain 2) .i32 3 17)] = true := by decide +kernel

theorem decode_vec2 : decodesTo [
    ([0x7402, 0x03C3, 0x440A], .vneg (plain 2) .i32 3 17)] = true := by decide +kernel

theorem decode_vec21 : decodesTo [
    ([0x7402, 0x0403, 0x4402], .vred (plain 2) .i32 .sum (.gx (.g 3)) 17),
    ([0x7402, 0x0403, 0x4412], .vred (plain 2) .i32 .max (.gx (.g 3)) 17),
    ([0x7402, 0x0403, 0x4422], .vred (plain 2) .i32 .min (.gx (.g 3)) 17),
    ([0x7402, 0x0403, 0x4432], .vred (plain 2) .i32 .and (.gx (.g 3)) 17),
    ([0x7402, 0x0403, 0x4442], .vred (plain 2) .i32 .or (.gx (.g 3)) 17),
    ([0x7402, 0x0403, 0x4406], .vred (plain 2) .f32 .sum (.fx 3) 17),
    ([0x7402, 0x0443, 0x4400], .vbc (plain 2) .i8 3 (.gx (.g 17))),
    ([0x7402, 0x0443, 0x4407], .vbc (plain 2) .f64 3 (.fx 17)),
    ([0x7402, 0x0483, 0x45E1], .vperm (plain 2) .i16 3 17 30),
    ([0x7402, 0x04C3, 0x45E1], .vsld (plain 2) .i16 3 17 (.g 30)),
    ([0x7402, 0x0503, 0x45E3], .vins (plain 2) .i64 3 (.gx (.g 17)) (.g 30)),
    ([0x7402, 0x0503, 0x45EB], .vext (plain 2) .i64 (.gx (.g 3)) 17 (.g 30)),
    ([0x7402, 0x0543, 0x4406], .vld (plain 2) .f32 3 (.g 17)),
    ([0x7402, 0x0583, 0x4406], .vst (plain 2) .f32 3 (.g 17)),
    ([0x7402, 0x05C3, 0x45E2], .vlds (plain 2) .i32 3 (.g 17) (.g 30)),
    ([0x7402, 0x0603, 0x45E2], .vsts (plain 2) .i32 3 (.g 17) (.g 30)),
    ([0x7402, 0x0643, 0x45E2], .vgth (plain 2) .i32 3 (.g 17) 30),
    ([0x7402, 0x0683, 0x45E2], .vsct (plain 2) .i32 3 (.g 17) 30),
    ([0x7402, 0x7240, 0x06C3, 0x45E2], .vdotqq (plain3 2) .int8 3 17 30),
    ([0x7402, 0x0703, 0x45E0], .vdothh (plain 2) 3 17 30),
    ([0x7402, 0x7240, 0x0742, 0x45E3], .vdotnn (plain3 2) .e2m1 2 17 30),
    ([0x7402, 0x0783, 0x45E6], .vtopk (plain 2) .f32 3 17 (.g 30)),
    ([0x7402, 0x07C3, 0x440C], .venc (plain 2) .ta true 3 17),
    ([0x7402, 0x0803, 0x4405], .vdec (plain 2) .tb 3 17)] = true := by decide +kernel

theorem decode_vec22 : decodesTo [
    ([0x7402, 0x0843, 0x4400], .vsfu (plain 2) .exp2 3 17),
    ([0x7402, 0x0843, 0x4401], .vsfu (plain 2) .log2 3 17),
    ([0x7402, 0x0843, 0x4402], .vsfu (plain 2) .rcp 3 17),
    ([0x7402, 0x0843, 0x4403], .vsfu (plain 2) .rsq 3 17),
    ([0x7402, 0x0843, 0x4404], .vsfu (plain 2) .sin 3 17),
    ([0x7402, 0x0843, 0x4405], .vsfu (plain 2) .cos 3 17),
    ([0x7402, 0x0843, 0x4406], .vsfu (plain 2) .tanh 3 17),
    ([0x7402, 0x0843, 0x4407], .vsfu (plain 2) .erf 3 17),
    ([0x7402, 0x089E, 0x4401], .strmOn (plain 2) 2 (.g 17)),
    ([0x7402, 0x089F, 0x0000], .strmOff (plain 2) 3),
    ([0x7402, 0x08C1, 0x0870], .vmsk (plain 2) .and 1 2 7),
    ([0x7402, 0x08C1, 0x0871], .vmsk (plain 2) .or 1 2 7),
    ([0x7402, 0x08C1, 0x0872], .vmsk (plain 2) .xor 1 2 7),
    ([0x7402, 0x08C1, 0x0873], .vmsk (plain 2) .andn 1 2 7),
    ([0x7402, 0x08C1, 0x0804], .vmsk (plain 2) .not 1 2 0),
    ([0x7402, 0x08C1, 0x0805], .vmsk (plain 2) .mov 1 2 0)] = true := by decide +kernel

theorem decode_mat : decodesTo [
    ([0x7403, 0x0003, 0x4400], .mmaqq (plain 3) (.g 3) (.g 17)),
    ([0x7403, 0x0043, 0x4400], .mmahh (plain 3) (.g 3) (.g 17)),
    ([0x7403, 0x0083, 0x4400], .mmann (plain 3) (.g 3) (.g 17)),
    ([0x7403, 0x00C0, 0x4400], .mzero (plain 3) (.g 17)),
    ([0x7403, 0x0103, 0x4400], .mwait (plain 3) (.g 3) (.g 17)),
    ([0x7403, 0x0143, 0x4400], .mpoll (plain 3) (.g 3) (.g 17)),
    ([0x7403, 0x0180, 0x4402], .mtbl (plain 3) 2 (.g 17)),
    ([0x7403, 0x01C3, 0x45E0], .mlsf (plain 3) 3 (.g 17) (.g 30)),
    ([0x7403, 0x0203, 0x45E0], .mst (plain 3) (.g 3) (.g 17) (.g 30)),
    ([0x7403, 0x0403, 0x4400], .copy (plain 3) (.g 3) (.g 17)),
    ([0x7403, 0x0443, 0x4400], .cwait (plain 3) (.g 3) (.g 17)),
    ([0x7403, 0x0483, 0x4400], .cpoll (plain 3) (.g 3) (.g 17)),
    ([0x7403, 0x04C0, 0x4400], .bwait (plain 3) .free (.g 17)),
    ([0x7403, 0x0500, 0x4400], .bset (plain 3) .free (.g 17)),
    ([0x7403, 0x04C0, 0x4401], .bwait (plain 3) .filling (.g 17)),
    ([0x7403, 0x0500, 0x4401], .bset (plain 3) .filling (.g 17)),
    ([0x7403, 0x04C0, 0x4402], .bwait (plain 3) .full (.g 17)),
    ([0x7403, 0x0500, 0x4402], .bset (plain 3) .full (.g 17)),
    ([0x7403, 0x04C0, 0x4403], .bwait (plain 3) .draining (.g 17)),
    ([0x7403, 0x0500, 0x4403], .bset (plain 3) .draining (.g 17)),
    ([0x7403, 0x0543, 0x4400], .bstat (plain 3) (.g 3) (.g 17))] = true := by decide +kernel

theorem decode_sys : decodesTo [
    ([0x7404, 0x0009, 0x45E0], .gcall (plain 4) 9 17 30),
    ([0x7404, 0x0040, 0x0000], .gret (plain 4)),
    ([0x7404, 0x0083, 0x4405], .dsr (plain 4) (.g 3) (.g 17) 5),
    ([0x7404, 0x00C3, 0x7000], .cue (plain 4) (.g 3) 28),
    ([0x7404, 0x0100, 0x45E0], .emit (plain 4) (.g 17) (.g 30)),
    ([0x7404, 0x0143, 0x45E0], .rng (plain 4) (.g 3) (.g 17) (.g 30)),
    ([0x7404, 0x0180, 0x45C0], .hpost (plain 4) (.g 17) 28),
    ([0x7404, 0x01C0, 0x0000], .mret (plain 4)),
    ([0x7404, 0x0200, 0x45E0], .invpg (plain 4) (.g 17) (.g 30)),
    ([0x7404, 0x0240, 0x45E0], .keyld (plain 4) (.g 17) (.g 30)),
    ([0x7404, 0x02C0, 0x45E0], .ctxsv (plain 4) (.g 17) (.g 30)),
    ([0x7404, 0x0300, 0x45E0], .ctxld (plain 4) (.g 17) (.g 30)),
    ([0x7404, 0x0280, 0x4400], .keyz (plain 4) (.g 17)),
    ([0x7404, 0x0340, 0x0000], .halt (plain 4)),
    ([0x7404, 0x0380, 0x4400], .hrel (plain 4) (.g 17))] = true := by decide +kernel

/-- The examples of R331, and the third form. -/
theorem decode_hart : decodeWaitp 0x00C5950B = some (.waitpGeu 10 11 12) ∧ decodeWaitp 0x0000050B = some (.waitpQ 10) ∧
    decodeWaitp 0x00C5A50B = some (.waitpNe 10 11 12) ∧ decodeWaitp 0x00C5B50B = none ∧ decodeWaitp 0x02C5950B = none := by decide +kernel

/-! ### Terms the checks refuse, one for each check -/

theorem illFormed_fields : ([.send w0 (.g 1) 30 2, .spawn w0 29, .jmpr { w0 with nx := .go } (.g 1), .mcall w0 3,
    .fcvt (plain 1) .i64f64 (.fx 1) (.fx 2), .vadd (plain 2) .i32 1 2 (.bcast (.fx 3)), .vfma (plain 2) .i32 1 2 (.vec 3),
    .vand (plain 2) .f32 1 2 (.vec 3), .vcmp (plain 2) .f32 .ltu 1 2 (.vec 3), .vsel (plain 2) .f32 1 2 (.bcast (.gx (.g 3))),
    .vred (plain 2) .f32 .and (.fx 1) 2, .vbc (plain 2) .i8 1 (.fx 2), .vins (plain 2) .i8 1 (.fx 2) (.g 3),
    .vext (plain 2) .f32 (.gx (.g 1)) 2 (.g 3), .vdotnn (plain3 2) .int8 1 2 3, .vmsk (plain 2) .not 1 2 3,
    .gcall (plain 4) 4 1 1, .gcall (plain 4) 5 0 1, .dsr (plain 4) (.g 1) (.g 2) 6, .cue (plain 4) (.g 1) 29,
    .hpost (plain 4) (.g 1) 29] : List Instr).all (fun i => !i.wellFormed) = true := by decide +kernel

theorem illFormed_chains : ([
    -- five prefixes, a repeated prefix, a split run
    .movi { w0 with chain := [.imm 1, .imm 1, .imm 1, .imm 1, .imm 1] } (.g 1) 0, .lda { w0 with chain := [.ord .acqrel .core, .ord .acqrel .core] } .b .core (.g 1) (.g 2),
    .ldd { w0 with chain := [.imm 1, .ord .acqrel .core, .imm 1] } (.g 1) (.g 2) 0,
    -- a page that is not the instruction's, none where one is needed
    .add (plain 1) (.g 1) (.g 2) (.g 3), .fadd w0 false 1 2 3,
    -- prefixes that do not apply, a required one missing, a register code that names none
    .add { w0 with chain := [.imm 1] } (.g 1) (.g 2) (.g 3), .add { w0 with chain := [.src 1] } (.g 1) (.g 2) (.g 3),
    .add { w0 with chain := [.disp 1] } (.g 1) (.g 2) (.g 3), .add { w0 with chain := [.ord .acqrel .core] } (.g 1) (.g 2) (.g 3),
    .halt { w0 with chain := [.page 4, .cond true 1 false false 0] }, .add { w0 with chain := [.cond true 1 true false 0] } (.g 1) (.g 2) (.g 3),
    .add { w0 with chain := [.cond true 1 false true 0] } (.g 1) (.g 2) (.g 3),
    .vdotqq (plain 2) .e4m3 1 2 3, .cas { w0 with chain := [.src 36] } true (.g 1) (.g 2) (.g 3),
    .fma { w0 with chain := [.page 1, .src 32] } false 1 2 3] : List Instr).all (fun i => !i.wellFormed) = true := by decide +kernel

theorem wellFormed_some : ([.send w0 (.g 1) 30 1, .spawn w0 28, .mcall w0 4, .vcmp (plain 2) .f32 .un 1 2 (.vec 3), .gcall (plain 4) 5 1 1,
    .cas { w0 with chain := [.src 35] } true (.g 1) (.g 2) (.g 3)] : List Instr).all (fun i => i.wellFormed) = true := by decide +kernel

/-! ### States -/

/-- Stage 5. -/
def up5 : State := { State.reset with host := { HostSide.reset with boot := { Boot.reset with stage := 5 } } }

/-- Context 0 of core 0 is READY under tag 1 and has the turn. -/
def core0 (g : Core → Core) (f : Context → Context) : State :=
  { up5 with
    cores := [(0, g { Core.reset with ctxs := Core.reset.ctxs.set 0 (f { Context.reset with
      state := .ready, regs := { Regs.clear with tag := 1, pc := 0x100 } }) })]
    domains := [(1, { part := 0, killed := false, lastGen := 0, plan := [] })] }

def at0 (f : Regs → Regs) : State := core0 id (fun x => { x with regs := f x.regs })
def s0 : State := at0 id

/-- Core 0 in M mode, serving context 0. -/
def m0 (g : Core → Core) (f : Regs → Regs) : State :=
  let s := core0 (fun q => g { q with
    mmode := some { cause := 0x20, ctx := 0, core := false, epc := 0, val := 0 }
    ctxs := q.ctxs.set 8 { Context.reset with state := .ready, regs := f Regs.clear } }) id
  { s with turn := { s.turn with ctx := 8 } }

/-- A window over the whole own scratchpad for tag 1. -/
def ownWindow : Window :=
  { base := 0, limit := 0x7FF, dtag := 1, rd := true, wr := true, ex := false, space := true, v := true, clash := false }

/-- The own scratchpad open, with g1 an address in it and g2 a value. -/
def pad0 : State := core0 (fun q => { q with windows := q.windows.set 0 ownWindow })
  (fun x => { x with regs := { x.regs with g := (x.regs.g.set 1 0xFFF8000000000040).set 2 0x1122334455667788 } })

def out (o : Out) (f : State → Bool) : Bool := match o with | .next t => f t | _ => false

/-- Runs and Checked as tests that evaluate. -/
def checked (i : Instr) (w : Pre) (u : Uses) (s : State) : Bool :=
  !(s.mMode && (match i.page? with | some p => 1 ≤ p && p ≤ 3 | none => false)) && (!(u.priv && !s.mMode) && ((s.absentPort u).isNone &&
    ((hazard w u s.me.pending).isNone && s.queuesOpen)))

def runs (i : Instr) (w : Pre) (u : Uses) (s : State) : Bool :=
  checked i w u s && (w.holds s.regs && (s.portsReady u && (s.readSrcs u.srcs).2.2.isNone))

theorem checked_of {i w u s} (h : checked i w u s = true) : Checked i w u s := by
  simp only [checked, Bool.and_eq_true, Bool.not_eq_true', Option.isNone_iff_eq_none] at h
  exact h

theorem runs_of {i w u s} (h : runs i w u s = true) : Runs i w u s := by
  simp only [runs, checked, Bool.and_eq_true, Bool.not_eq_true', Option.isNone_iff_eq_none, and_assoc] at h
  exact h

/-! ### Decoding and stepping (BadWordsRefused, StepRunsDecoded) -/

theorem meets_BadWordsRefused : 5 ≤ chainPage [.page 5] ∧ chainPage [] = 0 ∧ 0x35 ≤ (Base.ofParcels 0x0D40 0).op.toNat ∧
    (Base.ofParcels 0x0024 0).op = 0x00 ∧ 36 ≤ (Base.ofParcels 0x0024 0).d.toNat ∧ isPrefixParcel 0xF000 = true ∧
    (0xF000 : Parcel).getLsbD 15 = true ∧ isPrefixParcel 0x7E00 = true ∧ (0x7E00 : Parcel).extractLsb' 9 3 = 7 := by decide +kernel

/-- An ADD at address 0x100 of physical memory, where M mode fetches it. -/
def codeM : State := { m0 id (fun r => { r with pc := 0x100 }) with mem := [(0x100, 3), (0x102, 0x20), (0x103, 0x04)], agenda := [.issue 0] }
def codeM' : State := ({ codeM with agenda := [] } : State).issuing [] 0 0 8

theorem meets_StepRunsDecoded_issue : ({ codeM with agenda := [] } : State).coreIssues 0 = true ∧
    ({ codeM with agenda := [] } : State).nextPlace 0 = some 0 ∧ ({ codeM with agenda := [] } : State).bankAt 0 0 = 8 ∧ (codeM'.me.wait.bind Wait.instr?) = none ∧ codeM'.stopsHere 0 8 = false ∧
    codeM'.me.attached = false ∧ (codeM'.fetchParcel codeM'.regs.pc).toOption = some 3 ∧
    (codeM'.fetchParcel (codeM'.regs.pc + 2)).toOption = some 0x420 ∧ decodeParcels [] = none ∧ decodeParcels [3] = none ∧
    decodeParcels [3, 0x420] = some (.add w0 (.g 3) (.g 1) (.g 2)) := by decide +kernel

/-- A bank with a kept wait, an attached follower, a hart at a WAITP. -/
def keptM : State := core0 id (fun x => { x with wait := some (.phase (.barw w0 (.g 1)) 0 false true) })
def followM : State := core0 id (fun x => { x with
  queue := [{ instr := .add w0 (.g 3) (.g 1) (.g 2), addr := 0x40, next := some 0x44, mine := none }]
  regs := { x.regs with gstat := { Gstat.none with inGang := true, size := 1 } } })
def hart0 : State := { up5 with dies := up5.dies.set 0 { Die.reset with sram := Memory.writeL [] 0 (leBytes 4 0x00C5950B) } }

theorem meets_StepRunsDecoded_others :
    keptM.coreIssues 0 = true ∧ keptM.nextPlace 0 = some 0 ∧
      (State.issuing keptM [] 0 0 0).me.wait.bind Wait.instr? = some (.barw w0 (.g 1)) ∧
    followM.coreIssues 0 = true ∧ followM.nextPlace 0 = some 0 ∧ (State.issuing followM [] 0 0 0).me.attached = true ∧
      (State.issuing followM [] 0 0 0).stopsHere 0 0 = false ∧ (State.issuing followM [] 0 0 0).me.queue ≠ [] ∧
    hart0.up = true ∧ hart0.hartRead hart0.hart.pc.toNat 4 = some (leBytes 4 0x00C5950B) ∧
      decodeWaitp (BitVec.ofNat 32 0x00C5950B) = some (.waitpGeu 10 11 12) := by decide +kernel

/-! ### Selectors, guards, checks, traps -/

def nxPre (nx : Nx) : Pre := { w0 with nx := nx }

/-- A loop that ends and one that goes on, a full and an empty link stack, an END in a gate call. -/
theorem meets_SelectorTargets :
    bit (targetOf (nxPre .go) (at0 id).regs 0x100) 0 = false ∧ bit (targetOf (nxPre .go) (at0 (fun r => { r with t0 := 1 })).regs 0x100) 0 = true ∧
    ((at0 id).regs.getP (nxPre .goc).gocPred.1 != (nxPre .goc).gocPred.2) = false ∧
    ((at0 (fun r => r.setP 1 true)).regs.getP (nxPre .goc).gocPred.1 != (nxPre .goc).gocPred.2) = true ∧
    (at0 (fun r => { r with lc := 1, loops := [(7, 0x40)] })).regs.pfloor < 1 ∧ s0.regs.loops.length ≤ s0.regs.pfloor ∧
    1 < (at0 (fun r => { r with lc := 2 })).regs.lc.toNat ∧ bit s0.regs.ls 0 = false ∧
    8 ≤ (at0 (fun r => { r with link := .replicate 8 0 })).regs.link.length ∧ s0.regs.link.length < 8 ∧
    (at0 (fun r => { r with link := [0x44] })).regs.lfloor < 1 ∧ s0.regs.link.length ≤ s0.regs.lfloor ∧ s0.mMode = false := by decide +kernel

theorem test_loop : (match (at0 (fun r => { r with lc := 1, loops := [(7, 0x40)] })).select (nxPre .loop) 0x100 with
    | .ok t => t.regs.lc = 7 && t.regs.ls = 0x40 && t.regs.loops = [] && t.regs.pc = 0x104 | .error _ => false) = true := by decide +kernel

def bad : Pre := nxPre .go
def odd0 : State := at0 (fun r => { r with t0 := 1 })

theorem meets_GuardsAndPreciseTraps :
    Runs (.add bad (.g 1) (.g 2) (.g 3)) bad (.g3 (.g 1) (.g 2) (.g 3) false) odd0 ∧
    Runs (.cmp bad .eq 1 (.g 2) (.g 3)) bad { Uses.a2 (.g 2) (.g 3) with writes := rp 1 } odd0 ∧
    (odd0.readied.select bad odd0.regs.pc).toOption.isNone = true ∧
    Checked (.cmit { w0 with chain := [.cond false 1 false false 0] }) { w0 with chain := [.cond false 1 false false 0] } {} s0 ∧
    (Pre.holds { w0 with chain := [.cond false 1 false false 0] } s0.regs = false ∧ s0.me.wait = none) :=
  ⟨runs_of (by decide +kernel), runs_of (by decide +kernel), by decide +kernel, checked_of (by decide +kernel), by decide +kernel⟩

theorem test_selector_trap : out (exec (.add bad (.g 1) (.g 2) (.g 3)) (core0 (fun q => q.setDom 1 { DomState.reset 0 with tvec := 0x80 })
    (fun x => { x with regs := { x.regs with t0 := 1, g := x.regs.g.set 2 5 } })))
    (fun t => t.regs.tcause = 0x05 && t.regs.tval = 1 && t.regs.g[1] = 0 && t.regs.pc = 0x80) = true := by decide +kernel

/-- A port with a word of another domain; no word; none at all on core 0's north. -/
def ported : State := core0 (fun q => { q with ports := q.ports.set 1 [(9, 2)] }) id

theorem meets_ChecksTrapInOrder :
    (s0.mMode = false ∧ (m0 id id).mMode = true ∧ s0.absentPort (.g3 (.g 1) (.port .north) (.g 2) false) = some .north ∧ s0.absentPort (.g3 (.g 1) (.g 2) (.g 3) false) = none ∧ hazard w0 (.g3 (.g 1) (.g 2) (.g 3) false) [⟨0, 3⟩] = some ⟨0, 3⟩) ∧
    Checked (.add w0 (.g 1) (.port .east) (.g 2)) w0 (.g3 (.g 1) (.port .east) (.g 2) false) s0 ∧
    s0.portsReady (.g3 (.g 1) (.port .east) (.g 2) false) = false ∧
    Checked (.add w0 (.g 1) (.port .east) (.g 2)) w0 (.g3 (.g 1) (.port .east) (.g 2) false) ported ∧
    (ported.portsReady (.g3 (.g 1) (.port .east) (.g 2) false) = true ∧ w0.holds ported.regs = true ∧ (ported.readSrcs [.port .east, .g 2]).2.2 = some .east) :=
  ⟨by decide +kernel, checked_of (by decide +kernel), by decide +kernel, checked_of (by decide +kernel), by decide +kernel⟩

def vectored : State := core0 (fun q => q.setDom 1 { DomState.reset 0 with tvec := 0x80 }) id

theorem meets_TrapEntry :
    (vectored.mMode = false ∧ vectored.regs.tcause = 0 ∧ vectored.regs.gstat.inGang = false ∧ (vectored.dom 0 1).tvec ≠ 0 ∧ bit (vectored.dom 0 1).tvec 0 = false ∧ (s0.dom 0 1).tvec = 0 ∧ s0.regs.dom = [] ∧ (at0 (fun r => { r with tcause := 1 })).regs.tcause ≠ 0 ∧ (m0 id id).mMode = true) ∧
    Runs (.brk w0 7) w0 {} vectored ∧
    ((Base.ofParcels 0x0D01 0).op = 0x34 ∧ (Base.ofParcels 0x0D01 0).d ≠ 0) :=
  ⟨by decide +kernel, runs_of (by decide +kernel), by decide +kernel⟩

theorem test_brk : out (exec (.brk w0 7) vectored) (fun t => t.regs.tcause = 0x01 && t.regs.tval = 0x0D000007 && t.regs.tpc = 0x100 &&
    t.regs.pc = 0x80) = true := by decide +kernel

/-! ### Integer and predicate instructions -/

def g123 : State := at0 (fun r => { r with g := ((r.g.set 1 0xFFFFFFFFFFFFFFFF).set 2 2).set 3 0x8000000000000000 })

theorem meets_IntegerResults :
    Runs (.add w0 (.g 4) (.g 1) (.g 2)) w0 (.g3 (.g 4) (.g 1) (.g 2) false) g123 ∧
    Runs (.div w0 (.g 4) (.g 3) (.g 1)) w0 (.g3 (.g 4) (.g 3) (.g 1) true) g123 ∧
    Runs (.addi w0 (.g 4) (.g 1) 1) w0 (.g2 (.g 4) (.g 1) false) g123 ∧
    Runs (.movi w0 (.g 4) 0x8000) w0 (.g1 (.g 4) []) g123 ∧
    Runs (.clz w0 (.g 4) (.g 1)) w0 (.g2 (.g 4) (.g 1) false) g123 :=
  ⟨runs_of (by decide +kernel), runs_of (by decide +kernel), runs_of (by decide +kernel), runs_of (by decide +kernel), runs_of (by decide +kernel)⟩

theorem meets_next (w : Pre) (pc : Word) (s : State) (h : w.nx = .seq) : NextKnown w pc s := by simp [NextKnown, h]

theorem test_integers : out (exec (.add w0 (.g 4) (.g 1) (.g 2)) g123) (fun t => t.regs.g[4] = 1 && t.regs.pc = 0x104 && t.regs.instret = 1) = true ∧
    out (exec (.div w0 (.g 4) (.g 3) (.g 1)) g123) (fun t => t.regs.g[4] = 0x8000000000000000) = true ∧
    out (exec (.rem w0 (.g 4) (.g 3) (.g 1)) g123) (fun t => t.regs.g[4] = 0) = true ∧
    out (exec (.sar w0 (.g 4) (.g 3) (.g 2)) g123) (fun t => t.regs.g[4] = 0xE000000000000000) = true ∧
    out (exec (.mulh w0 (.g 4) (.g 3) (.g 1)) g123) (fun t => t.regs.g[4] = 0) = true ∧
    out (exec (.sub w0 (.g 0) (.g 1) (.g 2)) g123) (fun t => t.regs.g[0] = 0) = true := by decide +kernel

theorem meets_LeaShiftsAndAdds :
    Runs (.lea w0 (.g 4) (.g 1) (.g 2) 3) w0 (.g3 (.g 4) (.g 1) (.g 2) false) g123 ∧
    ((Base.ofParcels 0x02C0 4).op = 0x0B ∧ 4 ≤ (Base.ofParcels 0x02C0 4).f.toNat ∧ out (exec (.lea w0 (.g 4) (.g 1) (.g 2) 3) g123) (fun t => t.regs.g[4] = 15) = true) :=
  ⟨runs_of (by decide +kernel), by decide +kernel⟩

/-- Words of the own domain at the east and south ports. -/
def two : State := core0 (fun q => { q with ports := (q.ports.set 1 [(9, 1), (8, 1)]).set 2 [(5, 1)] }) id

theorem meets_SelReadsBoth :
    Runs (.sel w0 (.g 4) 1 (.port .east) (.port .south)) w0
      { Uses.g3 (.g 4) (.port .east) (.port .south) false with reads := rp 1 } two ∧
    (two.myCore.ports[Port.east.idx] = [(9, 1), (8, 1)] ∧ two.myCore.ports[Port.south.idx] = [(5, 1)] ∧ (Base.ofParcels 0x0380 8).op = 0x0E ∧ (Base.ofParcels 0x0380 8).f.getLsbD 3 = true ∧ out (exec (.sel w0 (.g 4) 1 (.port .east) (.port .south)) two) (fun t => t.regs.g[4] = 5 && t.myCore.ports[1] = [(8, 1)] &&
      t.myCore.ports[2] = []) = true) :=
  ⟨runs_of (by decide +kernel), by decide +kernel⟩

theorem meets_PredicateAndMoveResults :
    Runs (.cmp w0 .lt 1 (.g 1) (.g 2)) w0 { Uses.a2 (.g 1) (.g 2) with writes := rp 1 } g123 ∧
    Runs (.cmpi w0 .ltu 1 (.g 2) 0x3FF) w0 (.aw (.g 2) (rp 1)) g123 ∧
    Runs (.pandn w0 1 0 2) w0 (.rw (rp 0 ++ rp 2) (rp 1) false) g123 ∧
    Runs (.movrGf w0 3 (.g 1)) w0 (.aw (.g 1) (rf 3)) g123 ∧
    Runs (.movrGp w0 (.g 1)) w0 (.aw (.g 1) allPreds) g123 ∧
    Runs (.movrPg w0 (.g 4)) w0 (.g1 (.g 4) allPreds) g123 ∧
    (out (exec (.cmp w0 .lt 1 (.g 1) (.g 2)) g123) (fun t => t.regs.getP 1) = true ∧ out (exec (.movrGp w0 (.g 2)) g123) (fun t => t.regs.getP 1 && !t.regs.getP 2) = true) :=
  ⟨runs_of (by decide +kernel), runs_of (by decide +kernel), runs_of (by decide +kernel), runs_of (by decide +kernel), runs_of (by decide +kernel), runs_of (by decide +kernel), by decide +kernel⟩

theorem meets_OperandsAndResults : two.myCore.ports[Port.south.idx] = [(5, 1)] ∧ s0.neighbour 0 .east = some 1 ∧
    out (exec (.add w0 (.port .east) (.g 1) (.g 2)) g123) (fun t => (t.core 1).ports[3] = [(1, 1)]) = true := by decide +kernel

theorem meets_RegisterFrames :
    Runs (.rng w0 (.g 4) (.g 1) (.g 2)) w0 (.g3 (.g 4) (.g 1) (.g 2) true) g123 ∧
    Runs (.pxor w0 1 2 3) w0 (.rw (rp 2 ++ rp 3) (rp 1) false) g123 ∧
    Runs (.movrFg w0 (.g 4) 3) w0 (.g1 (.g 4) (rf 3)) g123 :=
  ⟨runs_of (by decide +kernel), runs_of (by decide +kernel), runs_of (by decide +kernel)⟩

/-! ### Jumps, loops, gangs, CSRs -/

def jumps (link : List Word) (x : Word) : State := at0 (fun r => { r with link := link, g := r.g.set 1 x })

theorem meets_JumpRegister :
    Runs (.jmpr w0 (.g 1)) w0 { Uses.a1 (.g 1) with jumps := true } (jumps [] 0x200) ∧
    Runs (.jmprCall w0 (.g 1)) w0 { Uses.a1 (.g 1) with jumps := true } (jumps (.replicate 8 0) 0x200) ∧
    Runs (.jmprCall w0 (.g 1)) w0 { Uses.a1 (.g 1) with jumps := true } (jumps [] 0x201) ∧
    ((Base.ofParcels 0x0A01 0).op = 0x28 ∧ (Base.ofParcels 0x0A01 0).d ≠ 0 ∧ out (exec (.jmprCall w0 (.g 1)) (jumps [] 0x200)) (fun t => t.regs.pc = 0x200 && t.regs.link = [0x104]) = true) :=
  ⟨runs_of (by decide +kernel), runs_of (by decide +kernel), runs_of (by decide +kernel), by decide +kernel⟩

theorem meets_TargetsAndLoops :
    Runs (.tgt w0 0xFFFF) w0 (.rw [] [⟨5, 2⟩] false) s0 ∧
    Runs (.lps w0 (.g 1)) w0 (.aw (.g 1) [⟨5, 0⟩, ⟨5, 1⟩]) s0 ∧
    s0.regs.loops.length < 4 ∧
    Runs (.lpsi w0 9) w0 (.rw [] [⟨5, 0⟩, ⟨5, 1⟩] false) (at0 (fun r => { r with loops := .replicate 4 (0, 0) })) ∧
    (out (exec (.tgt w0 0xFFFF) s0) (fun t => t.regs.t0 = 0xFE) = true ∧ out (exec (.lpsi w0 0x3FF) s0) (fun t => t.regs.lc = 1023 && t.regs.ls = 0x104 && t.regs.loops = [(0, 0)]) = true) :=
  ⟨runs_of (by decide +kernel), runs_of (by decide +kernel), by decide +kernel, runs_of (by decide +kernel), by decide +kernel⟩

/-- Two cores that hold the domain's key. -/
def keyed : Core → Core := fun q => { q with keys := q.keys.set 0 { KeySlot.empty with tag := 1, loaded := true } }
def ganged (f : Gstat → Gstat) : State :=
  let s := core0 keyed (fun x => { x with regs := { x.regs with gstat := f x.regs.gstat } })
  { s with cores := s.cores ++ [(1, keyed Core.reset)] }

theorem meets_Gangs :
    ((ganged id).regs.gstat.inGang = false ∧ (ganged id).regs.dom = [] ∧ coreX 0 % 2 = 0 ∧ (ganged id).mMode = false ∧ ((ganged id).core (troupeCore (troupeOf 0) 1)).ctxs[(0 : BankId)].state = .dormant ∧ ((ganged id).core (troupeCore (troupeOf 0) 1)).resident 1 = true) ∧
    Runs (.gang2 w0) w0 { jumps := true } (ganged id) ∧
    Runs (.gang4 w0) w0 { jumps := true } (ganged (fun g => { g with inGang := true, leader := true, size := 1 })) ∧
    Runs (.disb w0) w0 {} (ganged (fun g => { g with inGang := true, leader := true, size := 1 })) ∧
    Runs (.rejn w0) w0 {} (ganged id) ∧
    Runs (.rejn w0) w0 {} (ganged (fun g => { g with inGang := true, detached := true, size := 1 })) ∧
    Runs (.rejn w0) w0 {} (ganged (fun g => { g with inGang := true, size := 1 })) :=
  ⟨by decide +kernel, runs_of (by decide +kernel), runs_of (by decide +kernel), runs_of (by decide +kernel), runs_of (by decide +kernel), runs_of (by decide +kernel), runs_of (by decide +kernel)⟩

theorem test_gang2 : out (exec (.gang2 w0) (ganged id)) (fun t => (t.ctx 1 0).state = .ready && (t.ctx 1 0).regs.tag = 1 &&
    t.regs.gstat.leader && (t.ctx 1 0).regs.gstat.inGang && t.regs.pc = 0x104) = true := by decide +kernel

theorem meets_CsrReads :
    Runs (.srd w0 (.g 4) 0x00C) w0 { dst := some (.g 4), reads := csrRefs 0x00C, writes := (GReg.g 4).refs, long := csrLong 0x00C } s0 ∧
    ((s0.csrRead 0x00C).isSome = true ∧ ((m0 id id).csrRead 0x245).isSome = true ∧ (s0.csrRead 0x23).isNone = true ∧ out (exec (.srd w0 (.g 4) 0x004) s0) (fun t => t.regs.g[4] = 0x400002) = true) :=
  ⟨runs_of (by decide +kernel), by decide +kernel⟩

theorem meets_CsrWritesAndTraps :
    Runs (.swr w0 (.g 1) 0x009) w0 { srcs := [.g 1], reads := (GReg.g 1).refs ++ [], writes := csrRefs 0x009 } g123 ∧
    ((g123.csrRead 0x009).isSome = true ∧ csrReadOnly 0x009 = false ∧ (g123.csrWrite 0x009 5).isSome = true) ∧
    Runs (.ssb w0 (.g 1) 0x200) w0 { srcs := [.g 1], reads := (GReg.g 1).refs ++ csrRefs 0x200, writes := csrRefs 0x200 } g123 ∧
    Runs (.scb w0 (.g 1) 0x023) w0 { srcs := [.g 1], reads := (GReg.g 1).refs ++ csrRefs 0x023, writes := csrRefs 0x023 } g123 ∧
    (csrReadOnly 0x00C = true ∧ (g123.csrWrite 0x002 5).isNone = true ∧ out (exec (.ssb w0 (.g 2) 0x000) (at0 (fun r => { r with fflg := 1, g := r.g.set 2 2 }))) (fun t => t.regs.fflg = 3) = true) :=
  ⟨runs_of (by decide +kernel), by decide +kernel, runs_of (by decide +kernel), runs_of (by decide +kernel), by decide +kernel⟩

/-! ### Memory -/

theorem own_pad0 (n : Nat) (r w : Bool) (hn : n = 1 ∨ n = 2 ∨ n = 4 ∨ n = 8 ∨ n = 32) : OwnBytes pad0 0xFFF8000000000040 0x40 n r w := by
  rcases hn with rfl | rfl | rfl | rfl | rfl <;>
    exact ⟨by decide +kernel, by decide +kernel, by decide +kernel, by decide +kernel,
      ⟨ownWindow, by decide +kernel, by decide +kernel, by decide +kernel, by decide +kernel, by decide +kernel, by decide +kernel, by decide +kernel,
        fun _ => rfl, fun _ => rfl⟩, by decide +kernel, by decide +kernel, by decide +kernel⟩

def Except.isOk' {ε α : Type} : Except ε α → Bool | .ok _ => true | .error _ => false

/-- A store of g2 at g1 + 8 of the own scratchpad, then the load of it by the thread. -/
theorem meets_LoadAndStoreResults :
    Runs (.ldd w0 (.g 3) (.g 1) 0) w0 (.g2 (.g 3) (.g 1) true) pad0 ∧
    Runs (.std w0 (.g 2) (.g 1) 8) w0 (.a2 (.g 1) (.g 2)) pad0 ∧
    (Except.isOk' ((pad0.opened (.g2 (.g 3) (.g 1) true)).loadAt 0xFFF8000000000040 8 false) = true ∧
      Except.isOk' (pad0.storePlace 0xFFF8000000000048 8) = true ∧ pad0.me.storeBuf.any (·.acquire) = false ∧ pad0.mMode = false ∧
      out (exec (.std w0 (.g 2) (.g 1) 8) pad0) (fun t => (out (exec (.ldd w0 (.g 3) (.g 1) 8) t) (fun t => t.regs.g[3] = 0x1122334455667788)) &&
        (out (exec (.ldb w0 (.g 3) (.g 1) 8) t) (fun t => t.regs.g[3] = 0xFFFFFFFFFFFFFF88)) &&
        (out (exec (.ldhu w0 (.g 3) (.g 1) 10) t) (fun t => t.regs.g[3] = 0x5566))) = true) :=
  ⟨runs_of (by decide +kernel), runs_of (by decide +kernel), by decide +kernel⟩

/-- A guard granule over the bytes; M mode with the domain's window. -/
def guarded0 : State := pad0.updCore 0 (fun q => q.setDom 1 { DomState.reset 0 with guard := 2 })
def padM : State := { m0 (fun q => q) (fun r => { r with g := (r.g.set 1 0x1000).set 2 0x55 }) with mem := [] }

theorem meets_LoadAndStoreResults_guard : (guarded0.opened (.a2 (.g 1) (.g 2))).storePlace 0xFFF8000000000040 8 |> Except.isOk' := by decide +kernel

theorem meets_LoadAndStoreResults_mMode : padM.mMode = true ∧ Except.isOk' (padM.storePlace 0x1000 1) = true ∧
    out (exec (.stb w0 (.g 2) (.g 1) 0) padM) (fun t => t.mem = [(0x1000, 0x55)]) = true ∧
    out (exec (.stb w0 (.g 2) (.g 1) 0) guarded0) (fun t => t.regs.guardPending && t.me.storeBuf = []) = true := by decide +kernel

theorem meets_MemoryFrames : (chainOrd w0.chain).1 = .none ∧ Except.isOk' (pad0.loadAt 0xFFF8000000000040 8 false) = true ∧
    pad0.mMode = false ∧ pad0.me.storeBuf.any (·.acquire) = false ∧ Except.isOk' (pad0.storePlace 0xFFF8000000000040 8) = true ∧
    (match pad0.storePlace 0xFFF8000000000040 8 with | .ok l => !pad0.guarded l 0 | .error _ => false) = true := by decide +kernel

/-- g1 odd, in no space, in the deque region, in the accumulator window; an address with no tables. -/
def ptr (x : Word) : State := at0 (fun r => { r with g := r.g.set 1 x })
theorem meets_AccessTraps :
    Runs (.ldd w0 (.g 3) (.g 1) 0) w0 (.g2 (.g 3) (.g 1) true) (ptr 9) ∧ Runs (.amo w0 .add (.g 3) (.g 1) (.g 2)) w0 (.g3 (.g 3) (.g 1) (.g 2) true) (ptr 9) ∧
    ((2 : Nat) ^ 56 ≤ 0x100000000000000 ∧ 0x1F800 ≤ 0xFFF800000001F800 % 0x20000 ∧ s0.mMode = false ∧
      (match s0.translate 0 1 0x1000 with | .error (.code _) => true | _ => false) = true ∧
      out (exec (.ldd w0 (.g 3) (.g 1) 0) (core0 (fun q => q.setDom 1 { DomState.reset 0 with tvec := 0x80 }) (fun x => { x with regs := { x.regs with g := x.regs.g.set 1 9 } })))
        (fun t => t.regs.tcause = 0x05 && t.regs.tval = 9) = true) :=
  ⟨runs_of (by decide +kernel), runs_of (by decide +kernel), by decide +kernel⟩

theorem meets_AtomicAndFenceResults :
    Runs (.amo w0 .add (.g 3) (.g 1) (.g 2)) w0 (.g3 (.g 3) (.g 1) (.g 2) true) pad0 ∧ Runs (.fence w0 .full .system) w0 {} pad0 ∧
    Runs (.cmit w0) w0 {} pad0 ∧
    (pad0.me.verifs = [] ∧ pad0.me.storeBuf = [] ∧ pad0.regs.guardPending = false ∧ pad0.me.outbox = [] ∧
      Except.isOk' (pad0.checkAccess 0xFFF8000000000040 8 .atomic) = true ∧
      out (exec (.amo w0 .swp (.g 3) (.g 1) (.g 2)) pad0) (fun t => t.regs.g[3] = 0 && (t.core 0).scratch.read 0x40 = 0x88) = true ∧
      out (exec (.cas w0 true (.g 3) (.g 1) (.g 2)) pad0) (fun t => (t.core 0).scratch.read 0x47 = 0x11) = true ∧
      out (exec (.cmit w0) pad0) (fun t => t.me.restorable) = true) :=
  ⟨runs_of (by decide +kernel), runs_of (by decide +kernel), runs_of (by decide +kernel), by decide +kernel⟩

/-- A pending verification, and a pending guard fault. -/
theorem meets_AtomicAndFenceResults_waits :
    Runs (.fence w0 .rel .core) w0 {} (core0 id (fun x => { x with verifs := [⟨0, true, false⟩] })) ∧
    Runs (.fence w0 .acq .device) w0 {} (at0 (fun r => { r with guardPending := true })) :=
  ⟨runs_of (by decide +kernel), runs_of (by decide +kernel)⟩

theorem meets_MemoriesKept : Safe.memories codeM ∧ out (step codeM) (fun t => t.regs.pc = 0x104) = true :=
  ⟨⟨by decide +kernel, by decide +kernel, by decide +kernel, by decide +kernel, by decide +kernel⟩, by decide +kernel⟩

/-! ### Scalar floating point -/

def fl : State := at0 (fun r => { r with f := ((r.f.set 1 0x3F800000).set 2 0x40000000).set 3 0xBF800000, g := r.g.set 1 7 })

theorem meets_FloatArithmetic : Runs (.fadd (plain 1) false 3 1 2) (plain 1) (.rw (rf 1 ++ rf 2) (rf 3) false) fl ∧
    Runs (.fma (plain 1) true 3 1 2) (plain 1) (.rw (rf 1 ++ rf 2 ++ rf 3) (rf 3) true) fl ∧
    Runs (.fsqrt (plain 1) false 3 1) (plain 1) (.rw (rf 1) (rf 3) true) fl ∧
    ((16 : Fl) &&& (at0 (fun r => { r with fen := 16 })).regs.fen ≠ 0 ∧ s0.me.event = none ∧ (fp64.value 1).isNan = false ∧
      out (exec (.fma (plain 1) false 3 1 2) fl) (fun t => t.regs.f[3] = 0x3F800000) = true ∧
      out (exec (.fdiv (plain 1) false 4 1 0) fl) (fun t => t.regs.f[4] = 0x7F800000 && t.regs.fflg = 8) = true) :=
  ⟨runs_of (by decide +kernel), runs_of (by decide +kernel), runs_of (by decide +kernel), by decide +kernel⟩

theorem meets_FloatTestsAndMoves : Runs (.fcmp (plain 1) false .lt 1 3 2) (plain 1) (.rw (rf 3 ++ rf 2) (rp 1) false) fl ∧
    Runs (.fcls (plain 1) false (.g 4) 3) (plain 1) (.g1 (.g 4) (rf 3)) fl ∧ Runs (.fneg (plain 1) false 4 1) (plain 1) (.rw (rf 1) (rf 4) false) fl ∧
    Runs (.fcvt (plain 1) .f32i64 (.fx 4) (.gx (.g 1))) (plain 1) { srcs := [.g 1], reads := (GReg.g 1).refs, writes := rf 4 } fl ∧
    Runs (.scal (plain 1) (.g 4) 2) (plain 1) (.g1 (.g 4) (rf 2)) fl ∧
    (out (exec (.fcvt (plain 1) .f32i64 (.fx 4) (.gx (.g 1))) fl) (fun t => t.regs.f[4] = 0x40E00000) = true ∧
      out (exec (.scal (plain 1) (.g 4) 2) fl) (fun t => t.regs.g[4] = 128) = true ∧
      out (exec (.fcls (plain 1) false (.g 4) 3) fl) (fun t => t.regs.g[4] = 2) = true) :=
  ⟨runs_of (by decide +kernel), runs_of (by decide +kernel), runs_of (by decide +kernel), runs_of (by decide +kernel), runs_of (by decide +kernel),
    by decide +kernel⟩

theorem meets_CodeTables : Runs (.tbld (plain 1) false true (.g 1)) (plain 1) { srcs := [.g 1], reads := (GReg.g 1).refs, writes := [⟨6, 0⟩], long := true } pad0 ∧
    Runs (.enc (plain 1) .e4m3 false (.g 4) 2) (plain 1) { Uses.g1 (.g 4) (rf 2) with tables := [] } fl ∧
    Runs (.dec (plain 1) .ta 4 (.g 1)) (plain 1) { Uses.aw (.g 1) (rf 4) with tables := [⟨6, 0⟩] } fl ∧
    (Except.isOk' (pad0.readImage 0xFFF8000000000040) = true ∧ (ptr 9).regs.g[1].toNat % 64 ≠ 0 ∧ (fl.regs.codes .e4m3).valid = true ∧
      (fl.regs.codes .ta).valid = false ∧ out (exec (.enc (plain 1) .e4m3 false (.g 4) 2) fl) (fun t => t.regs.g[4] = 0x40) = true) :=
  ⟨runs_of (by decide +kernel), runs_of (by decide +kernel), runs_of (by decide +kernel), by decide +kernel⟩

/-! ### Vectors -/

def ve : State := at0 (fun r => { r with v := (r.v.set 1 0x40000000_3F800000).set 2 0x3F800000_40400000, g := (r.g.set 1 5).set 2 1, m := r.m.set 1 0x0F })
/-- A finished stream in v28. -/
def streamed : State := at0 (fun r => { r with streams := r.streams.set 0 { Stream.off with on := true } })

theorem meets_VectorElements : Runs (.vadd (plain 2) .f32 3 1 (.vec 2)) (plain 2) { srcs := [], reads := rv 1 ++ rv 2, writes := rv 3 } ve ∧
    Runs (.vabs (plain 2) .i32 3 1) (plain 2) { reads := rv 1, writes := rv 3 } ve ∧
    Runs (.vfma (plain 2) .f32 3 1 (.vec 2)) (plain 2) { srcs := [], reads := rv 1 ++ rv 2 ++ rv 3, writes := rv 3, long := true } ve ∧
    (ve.regs.streaming 3 = false ∧ streamed.regs.streaming 28 = true ∧ (streamed.regs.streams[(0 : Fin 4)]).inner.toNat = 0 ∧
      out (exec (.vadd (plain 2) .f32 3 1 (.vec 2)) ve) (fun t => lane t.regs.v[3] 4 0 = 0x40800000 && lane t.regs.v[3] 4 1 = 0x40400000) = true ∧
      out (exec (.vsub (plain 2) .i8 3 2 (.vec 1)) ve) (fun t => lane t.regs.v[3] 1 2 = 0xC0) = true) :=
  ⟨runs_of (by decide +kernel), runs_of (by decide +kernel), runs_of (by decide +kernel), by decide +kernel⟩

theorem readable (s : State) (n : VReg) (h : s.regs.streaming n = false) : ∃ s1 x, s.readV n = .ok (s1, x) := ⟨s, s.regs.v[n], by simp [State.readV, h]⟩

theorem meets_VectorMoves : Runs (.vbc (plain 2) .i8 3 (.gx (.g 1))) (plain 2) { srcs := [.g 1], reads := (GReg.g 1).refs, writes := rv 3 } ve ∧
    Runs (.vperm (plain 2) .i8 3 1 2) (plain 2) { reads := rv 1 ++ rv 2, writes := rv 3 } ve ∧
    Runs (.vsld (plain 2) .i8 3 1 (.g 2)) (plain 2) { srcs := [.g 2], reads := rv 1 ++ (GReg.g 2).refs, writes := rv 3 } ve ∧
    Runs (.vins (plain 2) .i8 3 (.gx (.g 1)) (.g 2)) (plain 2) { srcs := [.g 1, .g 2], reads := (GReg.g 1).refs ++ (GReg.g 2).refs, writes := rv 3 } ve ∧
    Runs (.vdec (plain 2) .e4m3 3 1) (plain 2) { reads := rv 1, tables := selRefs .e4m3, writes := rv 3 } ve ∧
    (ve.regs.streaming 3 = false ∧
      out (exec (.vsld (plain 2) .i32 3 1 (.g 2)) ve) (fun t => lane t.regs.v[3] 4 0 = 0x40000000 && lane t.regs.v[3] 4 15 = 0) = true ∧
      out (exec (.vins (plain 2) .i32 3 (.gx (.g 1)) (.g 2)) ve) (fun t => lane t.regs.v[3] 4 1 = 5) = true ∧
      out (exec (.vext (plain 2) .i32 (.gx (.g 4)) 1 (.g 2)) ve) (fun t => t.regs.g[4] = 0x40000000) = true) :=
  ⟨runs_of (by decide +kernel), runs_of (by decide +kernel), runs_of (by decide +kernel), runs_of (by decide +kernel), runs_of (by decide +kernel),
    by decide +kernel⟩

theorem meets_VectorTests : Runs (.vcmp (plain 2) .i32 .ltu 1 1 (.vec 2)) (plain 2) { srcs := [], reads := rv 1 ++ rv 2, writes := rm 1 } ve ∧
    Runs (.vmsk (plain 2) .not 1 1 0) (plain 2) (.rw (rm 1 ++ rm 0) (rm 1) false) ve ∧
    Runs (.vred (plain 2) .i32 .sum (.gx (.g 4)) 1) (plain 2) { dst := some (.g 4), reads := rv 1, writes := (GReg.g 4).refs, long := true } ve ∧
    Runs (.vtopk (plain 2) .i32 3 1 (.g 2)) (plain 2) { srcs := [.g 2], reads := rv 1 ++ (GReg.g 2).refs, writes := rv 3, long := true } ve ∧
    (ve.regs.streaming 3 = false ∧ (ve.regs.codes .ta).valid = false ∧
      out (exec (.vred (plain 2) .i32 .sum (.gx (.g 4)) 1) ve) (fun t => t.regs.g[4] = 0x7F800000) = true ∧
      out (exec (.vtopk (plain 2) .i32 3 1 (.g 2)) ve) (fun t => lane t.regs.v[3] 1 0 = 1 && lane t.regs.v[3] 1 1 = 255) = true ∧
      out (exec (.vcmp (plain 2) .i32 .ltu 2 1 (.vec 2)) ve) (fun t => t.regs.m[2] = 0x0F) = true) :=
  ⟨runs_of (by decide +kernel), runs_of (by decide +kernel), runs_of (by decide +kernel), runs_of (by decide +kernel), by decide +kernel⟩

theorem meets_VectorMemory : Runs (.vld (plain 2) .i32 3 (.g 1)) (plain 2) { srcs := [.g 1], reads := (GReg.g 1).refs, writes := rv 3, long := true } pad0 ∧
    Runs (.vsts (plain 2) .i32 3 (.g 1) (.g 0)) (plain 2) { srcs := [.g 1, .g 0], reads := (GReg.g 1).refs ++ (GReg.g 0).refs ++ rv 3 } pad0 ∧
    (Except.isOk' (pad0.vload (plain 2) 4 3 (fun i => 0xFFF8000000000040 + BitVec.ofNat 64 (4 * i))) = true ∧
      Except.isOk' (pad0.vstore (plain 2) 4 0x1234 (fun i => 0xFFF8000000000040 + BitVec.ofNat 64 (4 * i)) true) = true ∧
      out (exec (.vst (plain 2) .i32 1 (.g 1)) (pad0.updRegs (fun r => { r with v := r.v.set 1 7 })))
        (fun t => t.me.storeBuf.length = 16 && out (exec (.vld (plain 2) .i32 3 (.g 1)) t) (fun t => lane t.regs.v[3] 4 0 = 7)) = true) :=
  ⟨runs_of (by decide +kernel), runs_of (by decide +kernel), by decide +kernel⟩

theorem meets_DotProducts : Runs (.vdothh (plain 2) 3 1 2) (plain 2) { reads := rv 1 ++ rv 2 ++ rf 3, tables := [], writes := rf 3, long := true, own := true } ve ∧
    Runs (.vdotqq (plain3 2) .e4m3 3 1 2) (plain3 2) { reads := rv 1 ++ rv 2 ++ (rf 8 ++ rf 3), tables := [], writes := rf 3, long := true, own := true } ve ∧
    ((ve.regs.codes .e4m3).valid = true ∧ (ve.regs.codes .e4m3).w4 = false ∧ (ve.regs.codes .e2m1).w4 = true ∧ (ve.regs.codes .tb).valid = false ∧
      -- 2.0 and 1.0 in BF16 by 3.0 and 1.0: 1·3 + 2·1 at the odd elements
      out (exec (.vdothh (plain 2) 3 1 2) ve) (fun t => t.regs.f[3] = 0x40A00000) = true) :=
  ⟨runs_of (by decide +kernel), runs_of (by decide +kernel), by decide +kernel⟩

/-- A pattern of one block in the own scratchpad at 0x40. -/
def pattern : State := pad0.updCore 0 (fun q => { q with scratch := [(0x42, 1), (0x48, 1), (0x4C, 1)] })

theorem meets_SpecialFunctions : Runs (.vsfu (plain 2) .rcp 3 1) (plain 2) { reads := rv 1, writes := rv 3, long := true } ve ∧
    Runs (.strmOn (plain 2) 0 (.g 1)) (plain 2) (.aw (.g 1) (rv 28)) pattern ∧ Runs (.strmOff (plain 2) 0) (plain 2) (.rw [] (rv 28) false) streamed ∧
    (out (exec (.vsfu (plain 2) .rcp 3 1) ve) (fun t => lane t.regs.v[3] 4 1 = 0x3F000000) = true ∧
      out (exec (.strmOn (plain 2) 0 (.g 1)) pattern) (fun t => t.regs.streaming 28 && (t.regs.streams[(0 : Fin 4)]).base = 0x10000) = true) :=
  ⟨runs_of (by decide +kernel), runs_of (by decide +kernel), runs_of (by decide +kernel), by decide +kernel⟩

/-! ### The monitor -/

/-- Memory that holds 8-byte words. -/
def words (l : List (Nat × Nat)) : Memory := l.foldl (fun m e => m.writeL e.1 (leBytes 8 e.2)) []

/-- Tag 1 has the first gate table; gate 3 is published with generation 5, gate 4 is free with generation 7. -/
def gates : Memory := words [(0xBFF0000008, 0xBFF0080001), (0xBFF00800C0, 0x4000), (0xBFF00800C8, 0x1000005), (0xBFF0080108, 7)]

def caller (g1 g2 g3 g4 : Word) : State :=
  { pad0 with mem := gates }.updRegs (fun r => { r with g := (((r.g.set 1 g1).set 2 g2).set 3 g3).set 4 g4 })

/-- A call enters M mode, and the monitor's service of it follows. -/
def callDone (i : Instr) (s : State) (f : State → Bool) : Bool := out (exec i s) (fun t => out (t.act (.serve 0)) f)
def callUses (reads writes : List (Fin 32)) : Uses := { reads := reads.map (fun k => ⟨0, k.val⟩), writes := writes.map (fun k => ⟨0, k.val⟩) }

theorem meets_MonitorCalls : Runs (.spgd w0) w0 (callUses [1, 2, 3] [1]) (caller 0x40 2 1 0) ∧ Runs (.grev w0) w0 (callUses [1] [1]) (caller 3 0 0 0) ∧
    Runs (.mver w0) w0 (callUses [] [1, 2, 3]) (caller 3 0 0 0) ∧ Runs (.mver w0) w0 (callUses [] [1, 2, 3]) (m0 id id) ∧
    Runs (.gpub w0) w0 (callUses [1, 2, 3, 4] [1, 2]) (caller 4 0x5000 9 0xFFF8000000000080) ∧ Runs (.mcall w0 4) w0 (callUses [] [1]) (caller 256 0 0 0) ∧
    ((caller 3 0 0 0).mMode = false ∧ (caller 3 0 0 0).myCore.callWaits = false ∧ (caller 3 0 0 0).me.flagsOut = false ∧ (m0 id id).mMode = true ∧
      ((caller 3 0 0 0).updCore 0 (fun q => { q with mqueue := [{ cause := 0x05, ctx := 1, core := false, epc := 0, val := 0 }] })).myCore.callWaits = true ∧
      (caller 3 0 0 0).gateEntry 1 3 = some 0xBFF00800C0 ∧ fld ((caller 3 0 0 0).slot 0xBFF00800C0 1) 24 2 = 1 ∧
      (caller 3 0 0 0).mem.wf = true ∧ policyOk (slotsOf ((caller 4 0 0 0).myCore.scratch.readN 0x80 64) 8) = true ∧
      fld ((caller 3 0 0 0).slot 0xBFF0080100 1) 24 2 ≠ 1 ∧ fld ((caller 3 0 0 0).slot 0xBFF0080100 1) 0 24 = 7 ∧ (0xFFF8000000000080 : Word).toNat = aliasBase + 0x80 ∧
      out (exec (.grev w0) (caller 3 0 0 0)) (fun t => ((t.core 0).mmode.map (·.cause)) = some 0x20 && (t.core 0).mepc = 0x104 && (t.core 0).mtval = 2 &&
        (t.ctx 0 8).state = .ready && t.regs.g[1] = 3) = true ∧
      callDone (.spgd w0) (caller 0x40 2 1 0) (fun t => (t.ctx 0 0).regs.g[1] = 0 && (t.dom 0 1).guard = 6) = true ∧
      callDone (.grev w0) (caller 3 0 0 0) (fun t => (t.core 0).mmode = none && (t.ctx 0 0).regs.g[1] = 0 && fld (t.slot 0xBFF00800C0 1) 24 2 = 2 &&
        (t.ctx 0 0).regs.pc = 0x104) = true ∧
      callDone (.gpub w0) (caller 4 0x5000 9 0xFFF8000000000080) (fun t => (t.ctx 0 0).regs.g[1] = 0 && (t.ctx 0 0).regs.g[2] = 0x8040001 &&
        t.slot 0xBFF0080100 0 = 0x5000 && t.slot 0xBFF0080100 1 = 0x1000008 && t.slot 0xBFF0080100 2 = 0x8000000000000009) = true ∧
      callDone (.gpub w0) (caller 3 0x5000 9 0xFFF8000000000080) (fun t => (t.ctx 0 0).regs.g[1] = 2) = true ∧
      callDone (.grev w0) (caller 256 0 0 0) (fun t => (t.ctx 0 0).regs.g[1] = 1) = true ∧
      callDone (.spgd w0) (caller 0x41 2 1 0) (fun t => (t.ctx 0 0).regs.g[1] = 1) = true ∧
      callDone (.mcall w0 4) (caller 0 0 0 0) (fun t => (t.ctx 0 0).regs.g[1] = BitVec.allOnes 64) = true) :=
  ⟨runs_of (by decide +kernel), runs_of (by decide +kernel), runs_of (by decide +kernel), runs_of (by decide +kernel), runs_of (by decide +kernel),
    runs_of (by decide +kernel), by decide +kernel⟩

/-- An entry waits for context 0; M mode serves context 0 while context 1 is READY. -/
def entryWaits : State := core0 (fun q => { q with mtvec := 0x2000, mqueue := [{ cause := 0x05, ctx := 0, core := false, epc := 0x100, val := 9 }] }) id
def serving (g1 : Word) (f : Context → Context) : State := m0 (fun q => { q with
  mepc := 0x300, ctxs := q.ctxs.set 1 (f { Context.reset with state := .ready }) }) (fun r => { r with g := r.g.set 1 g1 })

theorem meets_MonitorModeEntry : Runs (.mret (plain 4)) (plain 4) { priv := true, jumps := true } (serving 0 id) ∧
    Runs (.halt (plain 4)) (plain 4) { priv := true } (serving 0 (fun x => { x with outstanding := [⟨0, none⟩] })) ∧
    Runs (.hrel (plain 4) (.g 1)) (plain 4) { Uses.a1 (.g 1) with priv := true } (serving 0x11 id) ∧
    Runs (.hrel (plain 4) (.g 1)) (plain 4) { Uses.a1 (.g 1) with priv := true } (serving 0x20 id) ∧
    Runs (.hrel (plain 4) (.g 1)) (plain 4) { Uses.a1 (.g 1) with priv := true } (serving 0x41 id) ∧
    Runs (.invpg (plain 4) (.g 1) (.g 0)) (plain 4) { Uses.a2 (.g 1) (.g 0) with priv := true } (serving 0 id) ∧
    ((entryWaits.core 0).mmode = none ∧ (entryWaits.core 0).mqueue ≠ [] ∧ (entryWaits.core 0).dead = false ∧ (serving 0 id).mMode = true ∧
      (serving 0 id).myCore.mmode ≠ none ∧ (serving 0 id).myCore.halted = false ∧ fld 0x11 6 13 = 0 ∧ fld 0x41 6 13 = 1 ∧
      out (exec (.mmodeEntry 0) entryWaits) (fun t => (t.core 0).mcause = 0x05 && (t.core 0).mepc = 0x100 && (t.core 0).mtval = 9 &&
        (t.ctx 0 8).regs.pc = 0x2000 && (t.core 0).tdom = 1 && (t.core 0).mqueue = []) = true ∧
      out (exec (.mret (plain 4)) (serving 0 id)) (fun t => (t.core 0).mmode = none && (t.ctx 0 0).regs.pc = 0x300 && (t.ctx 0 1).regs.pc = 0) = true ∧
      out (exec (.halt (plain 4)) (serving 0 id)) (fun t => (t.ctx 0 1).halted && !(t.ctx 0 0).halted) = true ∧
      out (exec (.hrel (plain 4) (.g 1)) (serving 0x11 (fun x => { x with halted := true }))) (fun t => !(t.ctx 0 1).halted && (t.ctx 0 1).state = .dormant) = true ∧
      out (exec (.hrel (plain 4) (.g 1)) (serving 0x01 (fun x => { x with state := .held, event := some ⟨1, 0, 0, 0, true, 0⟩ })))
        (fun t => (t.ctx 0 1).event = none && (t.ctx 0 1).state = .ready) = true) :=
  ⟨runs_of (by decide +kernel), runs_of (by decide +kernel), runs_of (by decide +kernel), runs_of (by decide +kernel), runs_of (by decide +kernel),
    runs_of (by decide +kernel), by decide +kernel⟩

/-- Entries of tag 1 and of another in a cache of the cluster. -/
theorem test_invpg : out (exec (.invpg (plain 4) (.g 1) (.g 2)) ((m0 (fun q => { q with tlb := [
      { tag := 1, va := 0x1000, size := 4096, pa := 0, r := true, w := true, x := false, prot := false, ty := 0 },
      { tag := 2, va := 0x1000, size := 4096, pa := 0, r := true, w := true, x := false, prot := false, ty := 0 }] })
      (fun r => { r with g := (r.g.set 1 0x1008).set 2 1 }))))
    (fun t => (t.core 0).tlb.map (·.tag) = [2]) = true := by decide +kernel

def slot1Free (t : State) : State := t.updCtx 0 1 (fun x => { x with state := .dormant })

def monitor (g1 g2 : Word) (f : Context → Context) : State :=
  { m0 (fun q => { keyed q with ctxs := q.ctxs.set 1 (f Context.reset) }) (fun r => { r with g := (r.g.set 1 g1).set 2 g2 }) with
    mem := words [(0x1000, 0x77), (0x1060, 9)] }

theorem meets_KeysAndFrames : Runs (.keyld (plain 4) (.g 1) (.g 2)) (plain 4) { Uses.a2 (.g 1) (.g 2) with priv := true } (monitor 63 0x1000 id) ∧
    Runs (.keyz (plain 4) (.g 1)) (plain 4) { Uses.a1 (.g 1) with priv := true } (monitor 0x100 0 id) ∧
    Runs (.ctxsv (plain 4) (.g 1) (.g 2)) (plain 4) { Uses.a2 (.g 1) (.g 2) with priv := true } (monitor 1 0x4000 (fun x => { x with halted := true })) ∧
    Runs (.ctxld (plain 4) (.g 1) (.g 2)) (plain 4) { Uses.a2 (.g 1) (.g 2) with priv := true } (monitor 8 0x4000 id) ∧
    (homeOf 0x1000 = .dram ∧ (monitor 63 0x1000 id).me.storeBuf = [] ∧ poisonedIn (monitor 63 0x1000 id).poison 0x1000 128 = none ∧
      (monitor 63 0x1000 id).frameAt 0x1000 = none ∧ lookup (monitor 63 0x1000 id).lines 0x1000 = none ∧
      (List.range 30).all (fun i => (monitor 63 0x1000 id).mem.read (0x1062 + i) = 0) = true ∧
      out (exec (.keyld (plain 4) (.g 1) (.g 2)) (monitor 63 0x1000 id)) (fun t => (t.core 0).keys[63].tag = 9 && (t.core 0).keys[63].data = 0x77 &&
        (t.dies[0].keys.map (·.tag)) = [9]) = true ∧
      out (exec (.keyz (plain 4) (.g 1)) (monitor 0x100 0 id)) (fun t => !(t.core 0).keys[0].loaded) = true ∧
      -- a save of context 1 under tag 1, then its load
      out (exec (.ctxsv (plain 4) (.g 1) (.g 2)) (monitor 1 0x4000 (fun x => { x with halted := true, state := .ready, regs := { x.regs with tag := 1, pc := 0x40 } })))
        (fun t => (t.ctx 0 1).state = .saved && t.frames.map (·.1) = [0x4000] && (t.core 0).saveCounter = 1 &&
          out (exec (.ctxld (plain 4) (.g 1) (.g 2)) (slot1Free t))
            (fun t => (t.ctx 0 1).state = .ready && (t.ctx 0 1).halted && (t.ctx 0 1).regs.pc = 0x40 && t.frames.all (fun f => !f.2.live)) &&
          -- the frame written over: its fault domain is killed and FRAME_BAD is written
          out (exec (.ctxld (plain 4) (.g 1) (.g 2)) (slot1Free { t with frames := t.frames.map (fun f => (f.1, { f.2 with overlaid := [(0, 1)] })) }))
            (fun t => t.dies[0].log.count = 1 && (t.ctx 0 1).state = .dormant && t.frames = [])) = true ∧
      out (exec (.ctxld (plain 4) (.g 1) (.g 2)) (monitor 1 0x4000 id)) (fun t => t.dies[0].log.count = 1 && (t.ctx 0 1).state = .dormant) = true) :=
  ⟨runs_of (by decide +kernel), runs_of (by decide +kernel), runs_of (by decide +kernel), runs_of (by decide +kernel), by decide +kernel⟩

/-! ### Held contexts, stops, budgets -/

def heldEvent : FpEvent := { flags := 0x10, addr := 0x40, opA := 1, opB := 2, sent := false, again := 0 }
def eventful (st : CtxState) (f : Regs → Regs) : State :=
  core0 id (fun x => { x with event := some heldEvent, state := st, regs := f { x.regs with fflg := 0x11 } })
/-- An answer under tag 1 about the event at 0x40. -/
def reply (code : Word) : Message := { dest := 60, header := 0x100000000, payload := [code, 0x40], region := 0, origin := .core }
def entered : DomEntry :=
  { retpc := 0x500, lc := 0, ls := 0, caller := 1, callee := 2, lfloor := 0, pfloor := 0, gate := 0, cpart := 0, sreg := 6, window := 0
    fflg := 0, fen := 0, region := 0, lsf := 0, left := 0, limited := true, handle := 0 }
def replied (code : Word) (f : Regs → Regs) : State :=
  (eventful .held f).updCore 0 (fun q => { q with mqueue := [{ cause := 0x21, ctx := 0, core := false, epc := 0, val := 0, answer := some (reply code) }] })
/-- A restorable context whose restore image has the pc 0x900. -/
def restorable0 (on : Bool) : State := core0 id (fun x => { x with
  restorable := on, restore := some { regs := { x.regs with pc := 0x900 }, item := none, atStart := false } })

theorem meets_HeldContexts : ((eventful .ready id).ctx 0 0).event = some heldEvent ∧ ((eventful .ready id).core 0).streamHalted 1 = false ∧
    ((eventful .ready id).core 0).pmreq.stop.getLsbD 0 = false ∧ (reply 0x10010).tag = 1 ∧ fld (0x10010 : Word) 0 8 = 0x10 ∧
    ((replied 0x10 id).core 0).mqueue ≠ [] ∧ (at0 (fun r => { r with dom := [entered] })).regs.dom.reverse[0]? = some entered ∧
    (homeOf 0x1000 = .dram) ∧ (0x1000 : Nat) ∉ s0.poison ∧
    out (exec (.fpEvent 0 0) (eventful .ready id)) (fun t => (t.ctx 0 0).state = .held && t.net.length = 1 &&
      (match t.net with | [.message none m] => m.dest = 59 && m.payload = [0x10000000, 0x40, 1, 2] | _ => false)) = true ∧
    out (exec (.fpNoticeRetry 0 0) (eventful .held id)) (fun t => t.net.length = 1) = true ∧
    out (exec (.fpResume 0) (replied 0x10010 id)) (fun t => (t.ctx 0 0).state = .ready && (t.ctx 0 0).regs.fflg = 1 && (t.core 0).mqueue = []) = true ∧
    out (exec (.fpKill 0) (replied 0x11 id)) (fun t => (t.ctx 0 0).state = .dormant) = true ∧
    out (exec (.fpKill 0) (replied 0x11 (fun r => { r with dom := [entered] }))) (fun t => (t.ctx 0 0).state = .ready && (t.ctx 0 0).regs.pc = 0x500 &&
      (t.ctx 0 0).regs.g[6] = 2) = true ∧
    out (exec (.ceilingExpiry 0 0) (at0 (fun r => { r with dom := [entered], tag := 2 }))) (fun t => t.regs.pc = 0x500 && t.regs.tag = 1 && t.regs.g[6] = 3) = true ∧
    out (exec (.rollback 0 0 false) (restorable0 true)) (fun t => t.regs.pc = 0x900 && t.me.rolledBack) = true ∧
    out (exec (.rollback 0 0 false) (restorable0 false)) (fun t => (t.ctx 0 0).state = .dormant) = true ∧
    out (exec (.patrolScrub 0x1003 .uncorrectable) s0) (fun t => t.poison = [0x1000] && t.dies[0].log.count = 1) = true := by decide +kernel

def stopping (m : BitVec 8) (f : Context → Context) : State :=
  core0 (fun q => { q with pmreq := { q.pmreq with stop := m }, stopClock := some 0 }) f
/-- PFX.S 1 before an ADD where context 0 fetches it, and a request. -/
def atSafePoint : State :=
  let s := s0.withFetchWord 32 0x7C010003
  { s.updCore 0 (fun q => { q with pmreq := { q.pmreq with stop := 1 } }) with agenda := [] }
/-- Region 5 with its block at 0x2000: a pool of its own with a window of 2 units, USED 9, budget 4. -/
def region5 (clock : Nat) : State :=
  { at0 (fun r => { r with region := 5 }) with
    regions := [(5, 0x2000)], clock := clock
    mem := words [(0x2000, 0x1000000005), (0x2008, 0x1F0001), (0x2018, 0x200000004), (0x2030, 9), (0x2038, 20), (0x2040, 0x1000)] }

theorem meets_StopsAndBudgets : (s0.core 0).pmreq.stop = 0 ∧ (s0.ctx 0 0).state.quiet = false ∧ (s0.ctx 0 1).state.quiet = true ∧
    s0.requested 0 0 = false ∧ atSafePoint.requested 0 0 = true ∧ (atSafePoint.atSafe 0 0) = some 1 ∧
    ((stopping 1 id).core 0).stopClock = some 0 ∧ (region5 0).regionPa 5 = some 0x2000 ∧ (region5 0).mem.wf = true ∧ (region5 0).exhausted 5 = true ∧
    s0.exhausted 0 = false ∧ ((region5 0).chain 8 0x2000) = [0x2000] ∧ (region5 0).pools 5 = [0x2000] ∧
    out (exec (.pmreqStop 0 1) s0) (fun t => (t.core 0).pmreq.stop = 1) = true ∧
    out (exec (.preemptionNotice 0 2) s0) (fun t => (t.core 0).pmreq.stop = 2 && (t.ctx 0 1).halted && (t.core 0).stopDue.map (·.cause) = some 0x15) = true ∧
    out (exec (.safePointStop 0 0) atSafePoint) (fun t => (t.ctx 0 0).safe = some 1 && (t.ctx 0 0).halted) = true ∧
    out (exec (.forcedStop 0) { stopping 1 id with clock := 6580 }) (fun t => (t.core 0).pmreq.forced && (t.ctx 0 0).halted) = true ∧
    out (exec (.forcedStop 0) { stopping 1 id with clock := 6579 }) (fun t => !(t.ctx 0 0).halted) = true ∧
    out (exec (.pmreqFree 0 1) (core0 id (fun x => { x with state := .saved }))) (fun t => (t.ctx 0 0).state = .dormant) = true ∧
    out (exec (.budgetExhausted 0) (region5 0)) (fun t => (t.core 0).pmreq.stop = 1 && (t.core 0).stopBudget) = true ∧
    out (exec (.budgetWindowStart 5) (region5 0x3000)) (fun t => t.slot 0x2000 6 = 0 && t.slot 0x2000 8 = 0x3000) = true ∧
    out (exec (.budgetWindowStart 5) (region5 0x2FFF)) (fun t => t.slot 0x2000 6 = 9) = true ∧
    out (exec (.chargeFold 5) { region5 0 with unfolded := [(5, 7)] }) (fun t => t.slot 0x2000 6 = 16 && t.slot 0x2000 7 = 27 && t.unfolded = []) = true := by
  decide +kernel

/-! ### Messages, the call board, barriers -/

def sender (g1 : Word) (f : Context → Context) : State := core0 (fun q => { q with windows := q.windows.set 0 ownWindow })
  (fun x => f { x with regs := { x.regs with g := ((x.regs.g.set 1 g1).set 4 0x8000).set 5 3, region := 7 } })

theorem meets_MessagesAndTasks : Runs (.send w0 (.g 1) 4 1) w0 { srcs := [.g 1], reads := (GReg.g 1).refs ++ rangeRefs 4 2 } (sender 0x7FFFF id) ∧
    Runs (.spawn w0 4) w0 { reads := rangeRefs 4 4 } (sender 0 id) ∧ Runs (.tdec w0 (.g 1)) w0 (.a1 (.g 1)) (sender 0xFFF8000000000040 id) ∧
    ((sender 0 id).me.outboxUsed + 8 * 3 ≤ 2048 ∧ (m0 id id).myCore.credits ≠ 0 ∧ (0x8000 : Word).toNat < 0x800000000 ∧ fld (0x8000 : Word) 0 32 ≠ 0 ∧
      2048 < (sender 0 (fun x => { x with outbox := .replicate 254 { body := .dec 0 0, region := 0, tag := 1, after := 0 } })).me.outboxUsed + 8 * 3 ∧
      out (exec (.send w0 (.g 1) 4 1) (sender 0x45 id)) (fun t => match t.me.outbox with
        | [e] => (match e.body with | .message m => m.dest = 0x45 && m.payload = [0x8000, 3] && m.header = 0x100080005 && m.region = 7 | _ => false)
        | _ => false) = true ∧
      out (exec (.spawn w0 4) (sender 0 id)) (fun t => t.me.outbox.map (·.body) = [.task #v[0x8000, 3, 0, 0]]) = true ∧
      out (exec (.tdec w0 (.g 1)) (sender 0xFFF8000000000040 id)) (fun t => t.me.outbox.map (·.body) = [.dec 0 0x40]) = true ∧
      out (exec (.send w0 (.g 1) 4 1) (sender 0 (fun x => { x with outbox := .replicate 254 { body := .dec 0 0, region := 0, tag := 1, after := 0 } })))
        (fun t => t.me.wait = some (.reissue true)) = true) :=
  ⟨runs_of (by decide +kernel), runs_of (by decide +kernel), runs_of (by decide +kernel), by decide +kernel⟩

/-- An entry of tag 1 with handler 0x600, enabled, on channel 5; a message for it in the inbox. -/
def board (inbox : List Item) (g1 g2 : Word) : State :=
  (core0 (fun q => { q.setDom 1 { DomState.reset 0 with board := (Vector.replicate 64 0).set 5 0x1000800000600 } with inbox := inbox, installed := 1 })
    (fun x => { x with regs := { x.regs with g := (x.regs.g.set 1 g1).set 2 g2 } }))
def hello : Message := { dest := 5, header := 0x100000000, payload := [11, 12], region := 0, origin := .core }

theorem meets_CallBoard : Runs (.hdef w0 (.g 1) (.g 2)) w0 (.a2 (.g 1) (.g 2)) (board [] 63 0x1000000000700) ∧
    Runs (.hen w0 (.g 1)) w0 (.a1 (.g 1)) (board [] 32 0) ∧
    Runs (.wfm w0 (.g 20) (.g 1)) w0 { srcs := [.g 1], dst := some (.g 20), reads := (GReg.g 1).refs, writes := (GReg.g 20).refs ++ payloadRefs, long := true }
      (board [⟨hello, 0⟩] 5 0) ∧
    (fld (0x1000000000700 : Word) 42 6 = 0 ∧ fld (0x1000000000700 : Word) 48 16 = 1 ∧ bit 0x1000000000700 0 = false ∧
      fld ((board [] 0 0).entry 0 1 5) 0 32 = 0x600 ∧ fld ((board [] 0 0).entry 0 1 5) 48 16 = 1 ∧
      ((board [⟨hello, 0⟩] 5 0).myCore.inbox.find? (fun i => i.msg.chan = 5 && i.msg.tag = 1)) = some ⟨hello, 0⟩ ∧
      out (exec (.hdef w0 (.g 1) (.g 2)) (board [] 63 0x1000000000700)) (fun t => (t.dom 0 1).board[63] = 0x1000000000700) = true ∧
      out (exec (.hdis w0 (.g 1)) (board [] 32 0)) (fun t => (t.dom 0 1).board[5] = 0x1000000000600) = true ∧
      out (exec (.hsetp w0 (.g 1)) (board [] 32 0)) (fun t => (t.dom 0 1).pend = 32 && (t.core 0).inbox.length = 1 &&
        out (exec (.hclrp w0 (.g 1)) t) (fun t => (t.dom 0 1).pend = 0 && (t.core 0).inbox = [])) = true ∧
      out (exec (.wfm w0 (.g 20) (.g 1)) (board [⟨hello, 0⟩] 5 0)) (fun t => t.regs.g[1] = 11 && t.regs.g[2] = 12 && t.regs.g[3] = 0 &&
        t.regs.g[20] = 0x100000000 && (t.core 0).inbox = []) = true ∧
      out (exec (.wfm w0 (.g 20) (.g 1)) (board [] 5 0)) (fun t => t.me.state = .blocked) = true) :=
  ⟨runs_of (by decide +kernel), runs_of (by decide +kernel), runs_of (by decide +kernel), by decide +kernel⟩

/-- Barrier 3 of cluster 0 with a count of 2 of 3; another context waits for its phase. -/
def barred (g1 : Word) (b : Barrier) (f : Context → Context) : State :=
  let s := core0 (fun q => { q with ctxs := q.ctxs.set 1 { Context.reset with state := .blocked, wait := some (.phase (.barw w0 (.g 1)) 3 false false) } })
    (fun x => f { x with regs := { x.regs with g := x.regs.g.set 1 g1 } })
  { s with clusters := [(0, { Cluster.reset with barriers := Cluster.reset.barriers.set 3 b })] }
def twoOfThree : Barrier := { phase := false, count := 2, total := 3, tag := some 1 }

theorem meets_Barriers : Runs (.bar w0 (.g 1)) w0 (.a1 (.g 1)) (barred 0x303 twoOfThree id) ∧
    Runs (.bara w0 (.g 1)) w0 (.a1 (.g 1)) (barred 0x20003 .reset id) ∧ Runs (.barw w0 (.g 1)) w0 (.a1 (.g 1)) (barred 0x3 twoOfThree id) ∧
    (fld (0x303 : Word) 5 3 = 0 ∧ barCount 0x303 = 3 ∧ barId 0x303 = 3 ∧ barCount 0x20003 = 512) :=
  ⟨runs_of (by decide +kernel), runs_of (by decide +kernel), runs_of (by decide +kernel), by decide +kernel⟩

theorem test_barrier_waits : out (exec (.bar w0 (.g 1)) (barred 0x303 .reset id)) (fun t =>
      (t.cluster 0).barriers[(3 : Fin 32)] = { phase := false, count := 1, total := 3, tag := some 1 } && t.me.state = .blocked) = true ∧
    out (exec (.bara w0 (.g 1)) (barred 0x303 .reset id)) (fun t => t.regs.arrOpen = 8 && t.regs.pc = 0x104 &&
      out (exec (.barw w0 (.g 1)) t) (fun t => t.me.state = .blocked)) = true ∧
    out (exec (.barw w0 (.g 1)) (barred 0x3 twoOfThree id)) (fun t => t.regs.pc = 0x104) = true := by decide +kernel

/-! ### Arrivals, activations, what returns to a core -/

def running (s : State) : State := { s with partitions := s.partitions.set 0 { Partition.reset with state := .run } }

/-- Region 5 is LIVE with no budget of its own; tag 1 is installed and its keys stand in slot 0 of core 0; partition 0 is in RUN. -/
def alive (chan : Nat) (entry : Word) (g : Core → Core) (f : Context → Context) : State :=
  running { core0 (fun q => g { q.setDom 1 { DomState.reset 0 with board := (Vector.replicate 64 0).setIfInBounds chan entry } with
      installed := 1, keys := q.keys.set 0 { KeySlot.empty with tag := 1, loaded := true, stream := 9 } }) f with
    regions := [(5, 0x2000)]
    mem := words [(0x2000, 0x1000000005), (0x2008, 0x1F0001), (0x2018, 0xFFFFFFFF)] }

def hello5 : Message := { hello with region := 5, header := 0x100000005 }
/-- The message in flight; channel 5 has handler 0x600, quota 1, and is enabled or not. -/
def arriving (entry : Word) (g : Core → Core) : State := { alive 5 entry g id with net := [.message none hello5] }
def enabled5 : Word := 0x1002800000600
def disabled5 : Word := 0x1002000000600

theorem meets_Arrivals : hello5.core = 0 ∧ hello5.chan = 5 ∧ hello5.tag = 1 ∧ hello5.isNotice = false ∧ hello5.isAnswer = false ∧ hello5.isTask = false ∧
    hello5.isLaunch = false ∧ hello5.header.setWidth 6 = hello5.chan ∧
    (arriving enabled5 id).regionLive 5 = true ∧ ((arriving enabled5 id).core 0).resident 1 = true ∧
    (arriving enabled5 id).regionStarts 5 = true ∧ (arriving enabled5 id).mayStart 0 1 = true ∧
    ((arriving enabled5 id).ctx 0 0).state ≠ .dormant ∧ ((arriving enabled5 id).ctx 0 1).state = .dormant ∧
    fld enabled5 37 5 = 1 ∧ bit enabled5 35 = true ∧ bit disabled5 35 = false ∧
    -- it starts context 1; joins the inbox; finds the quota used; finds the partition stopped; wakes the cluster
    out (exec (.messageArrival 0) (arriving enabled5 id)) (fun t => t.net = [] && (t.core 0).inbox = [] && (t.ctx 0 1).state = .ready && (t.ctx 0 1).restorable &&
      (t.ctx 0 1).regs.pc = 0x600 && (t.ctx 0 1).regs.g[1] = 11 && (t.ctx 0 1).regs.g[2] = 12 && (t.ctx 0 1).regs.g[3] = 0 &&
      (t.ctx 0 1).regs.g[17] = 0x100000005 && (t.ctx 0 1).regs.region = 5) = true ∧
    out (exec (.messageArrival 0) (arriving disabled5 id)) (fun t => t.net = [] && (t.core 0).inbox = [⟨hello5, 0⟩] && (t.ctx 0 1).state = .dormant) = true ∧
    out (exec (.messageArrival 0) (arriving disabled5 (fun q => { q with inbox := [⟨hello5, 0⟩] }))) (fun t => t.net = [.refusal none (hello5.refuse false)]) = true ∧
    out (exec (.messageArrival 0) { arriving enabled5 id with partitions := s0.partitions }) (fun t => t.net = [.refusal none (hello5.refuse true)]) = true ∧
    out (exec (.messageArrival 0) { arriving enabled5 id with clusters := [(0, { Cluster.reset with gated := true })] })
      (fun t => (t.cluster 0).waking && !(t.cluster 0).gated && t.net.length = 1) = true := by decide +kernel

theorem meets_Arrivals_refusals : (hello5.refuse false).core = 0 ∧ (hello5.refuse false).origin = .core ∧ (hello5.refuse false).tag = 1 ∧
    (hello5.refuse false).region = 5 ∧
    out (exec (.refusalArrival 0) { arriving enabled5 id with net := [.refusal none (hello5.refuse false)] })
      (fun t => t.net = [] && (t.core 0).inbox = [⟨hello5.refuse false, 0⟩]) = true ∧
    out (exec (.refusalArrival 0) { arriving enabled5 (fun q => { q with inbox := .replicate 341 ⟨hello5, 0⟩ }) with net := [.refusal none (hello5.refuse false)] })
      (fun t => t.net = [] && (t.core 0).inbox.length = 341 && (t.core 0).refusals = [{ credit := none, msg := hello5.refuse false, again := 256 }]) = true ∧
    out (exec (.refusalRetry 0) { arriving enabled5 (fun q => { q with refusals := [{ credit := some 3, msg := hello5.refuse false, again := 256 }] }) with clock := 255 })
      (fun t => (t.core 0).inbox = [] && (t.core 0).refusals.length = 1) = true ∧
    out (exec (.refusalRetry 0) { arriving enabled5 (fun q => { q with refusals := [{ credit := some 3, msg := hello5.refuse false, again := 256 }] }) with clock := 256 })
      (fun t => (t.core 0).inbox = [⟨hello5.refuse false, 256⟩] && (t.core 0).refusals = []) = true := by decide +kernel

def stolen : TaskRec := { slots := #v[0x8000, 3, 4, 5], region := 5, pushed := 0 }
def entry61 : Word := 0x1000800000602
/-- Channel 61 is enabled with an empty deque; the neighbour to the north of core 8 holds a record. -/
def thief (l : List TaskRec) : State :=
  let q (l : List TaskRec) : Core := { Core.reset with installed := 1, doms := [(1, { DomState.reset 0 with deque := l, board := (Vector.replicate 64 0).set 61 entry61 })] }
  { alive 5 0 id id with cores := [(0, q l), (8, q [])] }

theorem meets_Activations :
    (match (alive 5 enabled5 (fun q => { q with inbox := [⟨hello5, 0⟩] }) id).choose 0 with | some (5, .item i, _) => i.msg = hello5 | _ => false) = true ∧
    (match (thief [stolen]).choose 0 with | some (61, .record d, _) => d = stolen | _ => false) = true ∧
    (match (thief [stolen]).choose 8 with | some (61, .theft, _) => true | _ => false) = true ∧
    (thief [stolen]).theftPort 8 = some .north ∧ (thief [stolen]).neighbour 8 .north = some 0 ∧ (thief [stolen, stolen]).victimGives 1 0 = some stolen ∧
    (thief [stolen]).ownerPops 0 = true ∧ (thief [stolen]).victimGives 1 0 = none ∧
    (thief []).victimGives 1 0 = none ∧ (thief []).mayStart 8 1 = true ∧ s0.mayStart 0 (s0.core 0).installed = false ∧
    out (exec (.activationStart 0) (alive 5 enabled5 (fun q => { q with inbox := [⟨hello5, 0⟩] }) id)) (fun t => (t.core 0).inbox = [] &&
      (t.ctx 0 1).state = .ready && (t.ctx 0 1).regs.g[1] = 11 && (t.ctx 0 1).regs.g[17] = 0x100000005) = true ∧
    out (exec (.activationStart 0) (thief [stolen])) (fun t => (t.dom 0 1).deque = [] && (t.ctx 0 0).regs.pc = 0x8000 && (t.ctx 0 0).regs.g[1] = 3 &&
      (t.ctx 0 0).regs.g[2] = 4 && (t.ctx 0 0).regs.g[3] = 5) = true ∧
    out (exec (.theftAttempt 8) (thief [{ stolen with pushed := 1 }, stolen])) (fun t => (t.dom 0 1).deque = [{ stolen with pushed := 1 }] &&
      (t.core 8).lastSteal = .north && (t.ctx 8 0).regs.pc = 0x8000) = true ∧
    out (exec (.activationEnd 0 0) (core0 id (fun x => { x with state := .blocked, wait := some .ending }))) (fun t => (t.ctx 0 0).state = .dormant) = true := by
  decide +kernel

/-- A context at a commit point with an entry to send. -/
def committed (b : OutBody) : State := alive 5 enabled5 id (fun x => { x with state := .blocked, wait := some (.reissue true), outbox := [{ body := b, region := 5, tag := 1, after := 0 }] })
def stored (l : List Store) : State := core0 id (fun x => { x with storeBuf := l, storeSeq := 2 })
def store8 (off : Nat) (r wc : Bool) : Store := { seq := 0, place := .scratch 0 off, bytes := [1, 2], release := r, acquire := false, ty := if wc then 1 else 0, prot := false, tag := 1, outer := 1, chan := 0, launch := none }
def decBlock (n : Nat) : State := { alive 5 enabled5 (fun q => { q with scratch := words [(0x40, n), (0x48, 0x8000), (0x50, 7)] }) id with
  net := [.dec 0 { body := .dec 0 0x40, region := 5, tag := 1, after := 0 } none] }

theorem meets_CoreReturns :
    (committed (.dec 0 0x40)).regionLive 5 = true ∧ Context.committing ((committed (.dec 0 0x40)).ctx 0 0) = true ∧ 0 < ((committed (.dec 0 0x40)).core 0).credits ∧
    ((committed (.dec 0 0x40)).core 0).streamHalted 1 = false ∧ recordOk 0x8000 = true ∧ (decBlock 1).regionLive 5 = true ∧
    out (exec (.longResultReturn 0 0) (core0 id (fun x => { x with outstanding := [⟨0x10, none⟩], state := .parked })))
      (fun t => (t.ctx 0 0).regs.lsf = 0x10 && (t.ctx 0 0).state = .ready) = true ∧
    out (exec (.storeBufferDrain 0 0 0) (stored [store8 0x40 false false])) (fun t => (t.core 0).scratch = [(0x40, 1), (0x41, 2)] && (t.ctx 0 0).storeBuf = []) = true ∧
    out (exec (.storeBufferDrain 0 0 1) (stored [store8 0x40 false false, store8 0x80 true false])) (fun t => (t.core 0).scratch = []) = true ∧
    out (exec (.storeBufferDrain 0 0 1) (stored [store8 0x40 false true, store8 0x80 false true])) (fun t => (t.core 0).scratch = [(0x80, 1), (0x81, 2)]) = true ∧
    out (exec (.verificationResolve 0 0) (core0 id (fun x => { x with verifs := [⟨0x40, true, false⟩] }))) (fun t => (t.ctx 0 0).verifs = []) = true ∧
    out (exec (.verificationResolve 0 0) (running (core0 id (fun x => { x with verifs := [⟨0x40, false, false⟩] }))))
      (fun t => ((t.core 0).mqueue.map (·.cause)) = [0x11] && t.partitions[0].state = .error) = true ∧
    out (exec (.outboxSend 0 0) (committed (.message hello5))) (fun t => t.net = [.message (some 0) { hello5 with key := some 9 }] && (t.core 0).credits = 15 &&
      (t.core 0).keys[0].used = 1) = true ∧
    out (exec (.outboxSend 0 0) (committed (.task #v[0x8000, 1, 2, 3]))) (fun t => (t.dom 0 1).deque.map (·.slots) = [#v[0x8000, 1, 2, 3]]) = true ∧
    out (exec (.outboxSend 0 0) (committed (.dec 3 0x40))) (fun t => t.net.length = 1 && (t.ctx 0 0).outbox = []) = true ∧
    out (exec (.streamHalt 0 0) (alive 5 0 (fun q => { q with keys := q.keys.set 0 { KeySlot.empty with tag := 1, loaded := true, used := 0x100000000 } }) id))
      (fun t => (t.core 0).keys[0].halted && (t.core 0).streamHalted 1) = true ∧
    out (exec (.tdecHome 0) (decBlock 1)) (fun t => (t.dom 0 1).deque.map (·.slots) = [#v[0x8000, 7, 0, 0]] && (t.core 0).scratch.read 0x40 = 0) = true ∧
    out (exec (.tdecHome 0) (decBlock 2)) (fun t => (t.dom 0 1).deque = [] && (t.core 0).scratch.read 0x40 = 1) = true := by decide +kernel


/-! ### The matrix engine, copies, gates -/

/-- A descriptor of 8-byte slots at 0x40 of the own scratchpad, the engines of the troupe, g1 at the descriptor and g2. -/
def engine (l : List (Nat × Nat)) (g1 g2 : Word) (f : Troupe → Troupe) : State :=
  { core0 (fun q => { q with windows := q.windows.set 0 ownWindow, scratch := words l })
      (fun x => { x with restorable := true, regs := { x.regs with g := (x.regs.g.set 1 g1).set 2 g2 } }) with
    troupes := [(0, f Troupe.reset)] }
def desc0 : Word := 0xFFF8000000000040
/-- Operands at 0x10000 and 0x20000, K = 32, tile 3, clearing the tile or not. -/
def tile3 (z : Bool) : List (Nat × Nat) := [(0x40, 0x10000), (0x48, 0x20000), (0x60, 0x4000000040), (0x68, if z then 0x4030020 else 0x30020)]
/-- The slots of that descriptor. -/
def tileSlots : List Word := [0x10000, 0x20000, 0, 0, 0x4000000040, 0x4030020, 0, 0]

def queuedMat : MatEntry := { owner := { core := 0, ctx := 0, tag := 1, region := 0 }, work := .st { tile := 0, first := 0, count := 1, fmt := 0, dstride := 0, dst := 0 }
                              seq := 0, order := 0, phase := .running, rg := 3, flags := 0, lsnew := false, stall := 0, left := 0, fault := none, accepted := 0 }
def fullMat (q : Troupe) : Troupe := { q with mat := .replicate 32 queuedMat, matSeq := 32 }
def owns3 (q : Troupe) : Troupe := { q with owners := q.owners.set 3 (some 1), flags := q.flags.set 3 0x55 }

theorem meets_MatrixInstructions :
    Runs (.mmahh w0 (.g 3) (.g 1)) w0 (.g2 (.g 3) (.g 1) true) (engine (tile3 true) desc0 0 id) ∧
    Runs (.mzero w0 (.g 2)) w0 (.a1 (.g 2)) (engine [] 0 3 id) ∧
    Runs (.mst w0 (.g 3) (.g 2) (.g 1)) w0 (.g3 (.g 3) (.g 2) (.g 1) true) (engine [] 0x10000 0x10003 owns3) ∧
    Runs (.mtbl w0 2 (.g 1)) w0 (.a1 (.g 1)) (engine [(0x50, 0x21)] desc0 0 id) ∧
    Runs (.mlsf w0 4 (.g 2) (.g 0)) w0 { srcs := [.g 2, .g 0], reads := (GReg.g 2).refs ++ (GReg.g 0).refs, writes := rv 4, long := true } (engine [] 0 3 owns3) ∧
    ((tileDesc .hh tileSlots).isSome = true ∧ tileDesc .hh (tileSlots.set 5 0x4030021) = none ∧ tileDesc .qq (tileSlots.set 2 4) = none ∧
      ((tileDesc .hh tileSlots).map (fun t => ((t.rows .hh).all (fun r => (s0.badRow 0 1 .load r.1 r.2).isNone)))) = some true ∧
      (engine (tile3 true) desc0 0 fullMat).troupes.all (fun q => 32 ≤ q.2.mat.length) = true ∧ 8 ≤ (16 : Nat) ∧
      out (exec (.mmahh w0 (.g 3) (.g 1)) (engine (tile3 true) desc0 0 (fun q => { q with matSeq := 7 }))) (fun t => t.regs.g[3] = 7 && !t.me.restorable &&
        (t.troupe 0).mat.length = 1 && (t.troupe 0).owners[3] = some 1 && (t.troupe 0).matSeq = 8) = true ∧
      out (exec (.mmahh w0 (.g 3) (.g 1)) (engine (tile3 false) desc0 0 id)) (fun t => (t.ctx 0 0).state = .dormant || t.regs.g[3] = 0 && (t.troupe 0).mat = []) = true ∧
      out (exec (.mmaqq w0 (.g 3) (.g 1)) (engine (tile3 true) desc0 0 fullMat)) (fun t => match t.me.wait with | some (.reissue false) => true | _ => false) = true ∧
      out (exec (.mzero w0 (.g 2)) (engine [] 0 3 id)) (fun t => (t.troupe 0).owners[3] = some 1 && (t.troupe 0).matSeq = 0 && (t.troupe 0).mat.length = 1) = true ∧
      out (exec (.mst w0 (.g 3) (.g 2) (.g 1)) (engine [] 0x10000 0x10003 owns3)) (fun t => (match (t.troupe 0).mat with
        | [y] => (match y.work with | .st z => z.tile = 3 && z.count = 2 && z.dst = 0x10000 | _ => false) | _ => false)) = true ∧
      out (exec (.mtbl w0 2 (.g 1)) (engine [(0x50, 0x21)] desc0 0 id)) (fun t => match (t.troupe 0).mat with
        | [y] => (match y.work with | .table p _ => p = 2 | _ => false) | _ => false) = true ∧
      out (exec (.mlsf w0 4 (.g 2) (.g 0)) (engine [] 0 3 owns3)) (fun t =>
        t.me.outstanding = [{ lsf := 0, flags := some { tile := 3, rg := 0, d := 4, order := 0 } }] && t.regs.pc = 0x104) = true) :=
  ⟨runs_of (by decide +kernel), runs_of (by decide +kernel), runs_of (by decide +kernel), runs_of (by decide +kernel), runs_of (by decide +kernel),
    by decide +kernel⟩

def ended0 : JobStatus := { seq := 0, owner := queuedMat.owner, status := 0x10003, stall := 9, taken := false }
def queuedCopy : CopyEntry := { owner := queuedMat.owner, phase := .queued, seq := 0, rows := 0, fault := none
                                desc := { src := 0, dst := 0, rowBytes := 1, rows := 1, sspace := 0, dspace := 0, chan := 0, notify := false, handle := none, sstride := 0, dstride := 0 } }
def liveJob (q : Troupe) : Troupe := { q with mat := [queuedMat], matSeq := 1, copies := [queuedCopy], copySeq := 1 }
def doneJob (q : Troupe) : Troupe := { q with matDone := [ended0], matSeq := 1, copyDone := [ended0], copySeq := 1 }

theorem meets_JobQueries :
    Runs (.mpoll w0 (.g 3) (.g 1)) w0 (.g2 (.g 3) (.g 1) true) (engine [] 0 0 liveJob) ∧ Runs (.mwait w0 (.g 3) (.g 1)) w0 (.g2 (.g 3) (.g 1) true) (engine [] 0 0 liveJob) ∧
    Runs (.cwait w0 (.g 3) (.g 1)) w0 (.g2 (.g 3) (.g 1) true) (engine [] 0x40000000 0 liveJob) ∧
    ((engine [] 0 0 liveJob).viewMat 0 = .live (matStatus 1 0 3 0 false) ∧ (engine [] 0 0 liveJob).viewMat 1 = .bad ∧ (engine [] 0 0 liveJob).viewMat 0x1000000 = .bad ∧
      (engine [] 0 0 doneJob).viewMat 0 = .done ended0 ∧ (engine [] 0 0 doneJob).viewCopy 0x40000000 = .done ended0 ∧ (JobView.done ended0).final = true ∧
      ((engine [] 0 0 liveJob).viewMat 0).final = false ∧ (engine [] 0 0 liveJob).viewCopy 0x40000000 = .live (copyStatus 0 0 0) ∧
      out (exec (.mwait w0 (.g 3) (.g 1)) (engine [] 0 0 doneJob)) (fun t => t.regs.g[3] = 0x10003 && t.regs.fflg = 16 && t.regs.mgst = 9 && t.me.restorable) = true ∧
      out (exec (.mwait w0 (.g 3) (.g 1)) (engine [] 0 0 liveJob)) (fun t => t.me.state = .blocked) = true ∧
      out (exec (.mpoll w0 (.g 3) (.g 1)) (engine [] 0 0 liveJob)) (fun t => t.regs.g[3] = matStatus 1 0 3 0 false) = true ∧
      out (exec (.cpoll w0 (.g 3) (.g 1)) (engine [] 0 0 liveJob)) (fun t => t.regs.g[3] = 5) = true ∧
      out (exec (.cwait w0 (.g 3) (.g 1)) (engine [] 0x40000000 0 liveJob)) (fun t => t.me.state = .blocked) = true) :=
  ⟨runs_of (by decide +kernel), runs_of (by decide +kernel), runs_of (by decide +kernel), by decide +kernel⟩

/-- Two rows of 64 bytes from physical space to the own scratchpad. -/
def copy2 : List (Nat × Nat) := [(0x40, 0x10000), (0x48, 0x1000), (0x50, 0x80002000040), (0x58, 0x4000000040)]

theorem meets_CopiesAndHandles :
    Runs (.copy w0 (.g 3) (.g 1)) w0 (.g2 (.g 3) (.g 1) true) (engine copy2 desc0 0 id) ∧
    Runs (.bset w0 .full (.g 2)) w0 (.a1 (.g 2)) (engine [] 0 7 id) ∧ Runs (.bwait w0 .full (.g 2)) w0 (.a1 (.g 2)) (engine [] 0 7 id) ∧
    Runs (.bstat w0 (.g 3) (.g 2)) w0 (.g2 (.g 3) (.g 2) true) (engine [] 0 7 id) ∧
    ((copyDesc [0x10000, 0x1000, 0x80002000040, 0x4000000040]).isSome = true ∧ copyDesc [0, 0, 0x2000000, 0] = none ∧
      (engine copy2 desc0 0 id).badCopyRow .store 1 0x1000 64 = none ∧ ((engine copy2 desc0 0 id).badCopyRow .store 1 0x1F800 64).isSome = true ∧
      out (exec (.copy w0 (.g 3) (.g 1)) (engine copy2 desc0 0 id)) (fun t => t.regs.g[3] = 0x40000000 && (t.troupe 0).copies.length = 1 && (t.troupe 0).copySeq = 1 &&
        !t.me.restorable) = true ∧
      out (exec (.bset w0 .full (.g 2)) (engine [] 0 7 id)) (fun t => (t.troupe 0).handles[7] = { state := .full, held := false, tag := 1 } &&
        out (exec (.bstat w0 (.g 3) (.g 2)) t) (fun t => t.regs.g[3] = 2) && out (exec (.bwait w0 .full (.g 2)) t) (fun t => t.regs.pc = 0x108)) = true ∧
      out (exec (.bwait w0 .full (.g 2)) (engine [] 0 7 id)) (fun t => t.me.state = .blocked) = true ∧
      out (exec (.bset w0 .full (.g 2)) (engine [] 0 7 (fun q => { q with handles := q.handles.set 7 { state := .full, held := true, tag := 1 } })))
        (fun t => t.me.state = .blocked) = true) :=
  ⟨runs_of (by decide +kernel), runs_of (by decide +kernel), runs_of (by decide +kernel), runs_of (by decide +kernel), by decide +kernel⟩

/-- Gate 3 of tag 1 admits partition 0, with a ceiling of 100 clocks; g1 is its handle. -/
def gateTable : Memory := words [(0xBFF0000008, 0xBFF0080001), (0xBFF00800C0, 0x4000), (0xBFF00800C8, 0x1000005), (0xBFF00800D0, 0x8000000000000064), (0xBFF00800D8, 1)]
def calling (g1 : Word) (f : Regs → Regs) : State :=
  { running (core0 keyed (fun x => { x with regs := f { x.regs with g := (x.regs.g.set 1 g1).set 9 77, link := [0x44], lc := 5, fflg := 3 } })) with mem := gateTable }
def inGate : State := calling 0x5030001 (fun r => { r with tag := 2, pc := 0x4000, g := r.g.set 6 1, dom := [{ entered with caller := 1, callee := 2, lfloor := 1 }] })
def ruses (d a b : Fin 32) : Uses := { srcs := [.g a, .g b], dst := some (.g d), reads := rg a ++ rg b, writes := rg d, long := true, own := true, jumps := true }

theorem meets_GateCalls :
    Runs (.gcall w0 6 1 0) w0 (ruses 6 1 0) (calling 0x5030001 id) ∧ Runs (.gret w0) w0 { jumps := true } inGate ∧
    Runs (.dsr w0 (.g 3) (.g 0) 0) w0 { srcs := [.g 0], dst := some (.g 3), reads := (GReg.g 0).refs, writes := (GReg.g 3).refs, long := true, priv := false } inGate ∧
    ((calling 0x5030001 id).mem.wf = true ∧ ((calling 0x5030001 id).gateOf 0x5030001).isSome = true ∧ (calling 0 id).gateOf 0x4030001 = none ∧
      ((calling 0x5030001 id).gateOf 0x5030001).map (fun g => (calling 0x5030001 id).admits g 1) = some true ∧ (calling 0 id).windowOk 0 = true ∧
      (calling 0 id).myCore.resident 1 = true ∧ (calling 0 id).partitions[(calling 0 id).partOf 1].state = .run ∧
      out (exec (.gcall w0 6 1 0) (calling 0x5030001 id)) (fun t => t.regs.pc = 0x4000 && t.regs.tag = 1 && t.regs.g[1] = 0x5030001 && t.regs.g[9] = 0 && t.regs.lc = 0 &&
        t.regs.fflg = 0 && fld (t.slot 0xBFF00800C0 1) 32 32 = 1 &&
        (match t.regs.dom with | [p] => p.retpc = 0x104 && p.lc = 5 && p.fflg = 3 && p.sreg = 6 && p.lfloor = 1 && p.limited && p.left = 100 | _ => false)) = true ∧
      out (exec (.gret w0) inGate) (fun t => t.regs.pc = 0x500 && t.regs.tag = 1 && t.regs.dom = [] && t.regs.g[1] = 0x5030001 && t.regs.g[9] = 0 && t.regs.g[6] = 0 &&
        t.regs.link = [0x44]) = true ∧
      out (exec (.dsr w0 (.g 3) (.g 0) 0) inGate) (fun t => t.regs.g[3] = 1) = true) :=
  ⟨runs_of (by decide +kernel), runs_of (by decide +kernel), runs_of (by decide +kernel), by decide +kernel⟩

/-! ### Cues, translation, engine steps -/

def cue0 (em : Bool) : Cue := { ord := 0, entry := #v[77, 5, 8, 9], emitted := em, replayed := false }
def stream2 : CueStream :=
  { seqid := 77, part := 0, outq := 3, ustudy := 9, state := .active, ended := false, nextOrd := 1, ackOrd := 1, truncOrd := none, ckref := 0, ckord := none
    retainBase := 0x8000, retainSize := 64, retainFull := false, cues := [cue0 false], journal := [], unsent := 0, firstClock := 0, flits := [], acked := 0, truncPos := none }
/-- Stream 2 of die 0; g1 to g4 hold the cue's slots, g5 the cue number, g6 the token; queue 3 is function 1's, enabled or not; a link to endpoint 9. -/
def cueing (q : CueStream) (en : Bool) (f : Regs → Regs) : State :=
  let s := at0 (fun r => f { r with g := ((((((r.g.set 1 77).set 2 5).set 3 8).set 4 9).set 5 0x2000000000000).set 6 5).set 7 3 })
  { s with
    dies := s.dies.set 0 { Die.reset with streams := [(2, q)] }
    host := { s.host with
      cplq := s.host.cplq.set 3 { CplQueue.reset with func := 1, base := 0x4000, log2n := 2, en := en }
      links := s.host.links.set 0 { Link.reset with up := true, peer := 9, profiles := 1 } } }
def streamOf (t : State) (f : CueStream → Bool) : Bool := match lookup t.dies[0].streams 2 with | some q => f q | none => false
def cueUses (d : GReg) (a : Fin 32) : Uses := { dst := some d, reads := rangeRefs a.val 4, writes := d.refs ++ rangeRefs a.val 4, long := true }

theorem meets_CuesAndPosts :
    Runs (.cue w0 (.g 9) 1) w0 (cueUses (.g 9) 1) (cueing stream2 true id) ∧ Runs (.emit w0 (.g 5) (.g 6)) w0 (.a2 (.g 5) (.g 6)) (cueing stream2 true id) ∧
    Runs (.hpost w0 (.g 7) 1) w0 { srcs := [.g 7], reads := (GReg.g 7).refs ++ rangeRefs 1 4 } (cueing stream2 true id) ∧
    (((cueing stream2 true id).dies[0].sequence 77).map (·.1) = some 2 ∧ (cueing stream2 true id).dies[0].sequence 78 = none ∧
      (cueing stream2 true id).cueOf 0x2000000000000 = some (0, 2, stream2, cue0 false) ∧ (cueing stream2 true id).cueOf 1 = none ∧
      (cueing stream2 true id).journalDue 0 2 = false ∧ (cueing stream2 true id).host.reaches 9 0 = true ∧ (cueing stream2 true id).host.reaches 8 0 = false ∧
      out (exec (.cue w0 (.g 9) 1) (cueing stream2 true id)) (fun t => t.regs.g[9] = 0x2000000000001 && streamOf t (fun q => q.nextOrd = 2 && q.cues.length = 2)) = true ∧
      out (exec (.cue w0 (.g 9) 1) (cueing { stream2 with retainSize := 32 } true id)) (fun t => t.me.state = .parked) = true ∧
      out (exec (.emit w0 (.g 5) (.g 6)) (cueing stream2 true id)) (fun t => (t.host.cplq[3].tail = 1) && streamOf t (fun q => q.cues.all (·.emitted))) = true ∧
      out (exec (.emit w0 (.g 5) (.g 6)) (cueing stream2 false id)) (fun t => t.dies[0].posts = [{ queue := 3, slots := #v[77, 5, 0x2000000000000, 0], cue := some 0x2000000000000 }]) = true ∧
      out (exec (.emit w0 (.g 5) (.g 6)) (cueing { stream2 with ackOrd := 0 } true id)) (fun t => t.me.state = .blocked) = true ∧
      out (exec (.hpost w0 (.g 7) 1) (cueing stream2 true id)) (fun t => t.host.cplq[3].tail = 1) = true ∧
      out (exec (.hpost w0 (.g 7) 1) (cueing stream2 false id)) (fun t => t.dies[0].posts = [{ queue := 3, slots := #v[77, 5, 8, 9], cue := none }]) = true) :=
  ⟨runs_of (by decide +kernel), runs_of (by decide +kernel), runs_of (by decide +kernel), by decide +kernel⟩

/-- A journalled cue that differs from the one the thread makes. -/
theorem test_replay : out (exec (.cue w0 (.g 9) 1) (cueing { stream2 with journal := [0] } true (fun r => { r with rplyMode := true, g := r.g.set 3 1 })))
    (fun t => t.regs.g[9] = 0x2000000000000 && t.regs.g[3] = 8 && t.regs.rplyMismatch && streamOf t (fun q => q.journal = [] && q.nextOrd = 1)) = true := by decide +kernel

def flit0 (n : Nat) : CueFlit := { first := 0, last := 0, sent := 0, resends := n }
def flying (n : Nat) : State := { cueing { stream2 with unsent := 1, ackOrd := 0, flits := [flit0 n] } true id with clock := 94000 }

theorem meets_CuesAndPosts_flits :
    out (exec (.cueFlitSend 0 2) { cueing stream2 true id with clock := 940 }) (fun t => streamOf t (fun q => q.unsent = 1 && q.flits.length = 1)) = true ∧
    out (exec (.cueFlitSend 0 2) (cueing { stream2 with ustudy := 8 } true id)) (fun t => streamOf t (fun q => q.state = .lost) && t.dies[0].log.count = 1) = true ∧
    out (exec (.cueAck 0 2 9 0) (flying 0)) (fun t => streamOf t (fun q => q.ackOrd = 1 && q.flits = [])) = true ∧
    out (exec (.cueAck 0 2 8 0) (flying 0)) (fun t => streamOf t (fun q => q.ackOrd = 0)) = true ∧
    out (exec (.cueFlitResend 0 2) (flying 2)) (fun t => streamOf t (fun q => q.flits = [{ flit0 3 with sent := 94000 }])) = true ∧
    out (exec (.cueFlitResend 0 2) (flying 3)) (fun t => streamOf t (fun q => q.state = .lost)) = true := by decide +kernel

/-- Hart 0 of die 0 with x11 and x12; the word 7 stands at 0x100 of its SRAM. -/
def hartAt (x11 x12 : Word) (tail : BitVec 32) : State :=
  { up5 with
    dies := up5.dies.set 0 { Die.reset with
      sram := words [(0x100, 7)], threads := Die.reset.threads.set 0 { Thread.reset with x := (Thread.reset.x.set 11 x11).set 12 x12, mtvec := 0x80 } }
    host := { up5.host with cmdq := up5.host.cmdq.set 0 { CmdQueue.reset with tail := tail } } }
def hartStays (t : State) : Bool := t.hart.pc = 0
/-- Tag 1 maps address 0 by a page of 1 GiB at 0; core 0 grants the tables. -/
def mapped : State :=
  { core0 (fun q => { q with windows := q.windows.set 0 { ownWindow with space := false, limit := 0xFFFFF } }) id with
    mem := words [(8, 0x10001), (0x10000, 0x11001), (0x11000, 0x12001), (0x12000, 0x47)] }
def shooting (f : Cluster → Cluster) : State := { mapped with clusters := [(0, f { Cluster.reset with shva := 1 })] }
def shot : Shootdown := { va := 0x10000, tag := 1, all := false }

theorem meets_WaitpAndTranslation :
    (hartAt 0x100 7 0).hartRead 0x100 8 = some (leBytes 8 7) ∧ (hartAt 0x80000 7 0).hartRead 0x80000 8 = none ∧
    (match mapped.walkAll 0 1 0x2345 with | .ok (l, es) => l.size = 0x40000000 && l.pa = 0 && es.length = 2 | _ => false) = true ∧
    (match s0.walkAll 0 1 0x2345 with | .error _ => true | _ => false) = true ∧
    out (exec (.waitpQ 10) (hartAt 0 0 3)) (fun t => t.x 10 = 3 && t.hart.pc = 4) = true ∧
    out (exec (.waitpQ 10) (hartAt 0 0 0)) hartStays = true ∧
    out (exec (.waitpGeu 10 11 12) (hartAt 0x100 7 0)) (fun t => t.x 10 = 7 && t.hart.pc = 4) = true ∧
    out (exec (.waitpGeu 10 11 12) (hartAt 0x100 8 0)) hartStays = true ∧
    out (exec (.waitpNe 10 11 12) (hartAt 0x100 8 0)) (fun t => t.x 10 = 7) = true ∧
    out (exec (.waitpNe 10 11 12) (hartAt 0x100 7 0)) hartStays = true ∧
    out (exec (.waitpGeu 10 11 12) (hartAt 0x101 7 0)) (fun t => t.hart.mcause = 4 && t.hart.mtval = 0x101 && t.hart.pc = 0x80) = true ∧
    out (exec (.waitpNe 10 11 12) (hartAt 0x80000 7 0)) (fun t => t.hart.mcause = 5) = true ∧
    out (exec (.pageWalk 0 1 0x2345) mapped) (fun t => (t.core 0).tlb.map (·.size) = [0x40000000] && (t.troupe 0).tlb.length = 1 && (t.cluster 0).walk.length = 2) = true ∧
    out (exec (.shootdownGo 0 .monitor 0x20001) (shooting id)) (fun t => (t.cluster 0).running = some shot) = true ∧
    out (exec (.shootdownGo 0 .monitor 0x20001) (shooting (fun x => { x with running := some shot }))) (fun t => (t.cluster 0).waiting = [shot]) = true ∧
    out (exec (.shootdownGo 0 (.thread 1) 0x20001) (shooting id)) (fun t => (t.cluster 0).running = some shot) = true ∧
    out (exec (.shootdownGo 0 (.thread 1) 0x20002) (shooting id)) (fun t => (t.cluster 0).refused && (t.cluster 0).running = none) = true ∧
    out (exec (.shootdownGo 0 (.host 1) 0x20001) (shooting id)) (fun t => (t.cluster 0).running = some shot) = true ∧
    out (exec (.shootdownGo 0 (.host 2) 0x20001) (shooting id)) (fun t => (t.cluster 0).refused && (t.cluster 0).running = none) = true := by decide +kernel

theorem meets_WaitpAndTranslation_complete : (shooting (fun x => { x with running := some shot })).clusterLeaves 0 (some 1) = true ∧
    { Troupe.reset with mat := [{ queuedMat with phase := .running }] }.begun (some 1) = true := by decide +kernel

/-! A job at the head of the matrix queue: two rows of operands in the issuing core's own scratchpad. -/
def desc3 (h : Option (Fin 32)) : TileDesc :=
  { abase := 0xFFF8000000000000, bbase := 0xFFF8000000000400, ascale := 0, bscale := 0, astride := 64, bstride := 64, k := 32, tile := 3, pair := 0
    zfirst := true, notify := true, chan := 5, handle := h, asstride := 0, bsstride := 0 }

def work3 (h : Option (Fin 32)) : MatWork := .mma .hh (desc3 h) 2 0 64
def headOf (w : MatWork) (ph : JobPhase) (rg : Nat) (q : Troupe) : Troupe := { q with mat := [{ queuedMat with work := w, phase := ph, rg := rg }], matSeq := 1 }
def filled (st : HandleState) (q : Troupe) : Troupe := { q with handles := q.handles.set 7 { state := st, held := false, tag := 1 } }
def doneWith (t : State) (err : Nat) : Bool := (t.troupe 0).mat.isEmpty && (match (t.troupe 0).matDone with | y :: _ => fld y.status 0 4 = 3 && fld y.status 4 4 = err | [] => false)
def head (t : State) (f : MatEntry → Bool) : Bool := match (t.troupe 0).mat with | x :: _ => f x | [] => false
def running3 (active : Bool) (rg : Nat) : State := engine [] 0 0 (fun q => { headOf (work3 none) .running rg q with active := active })

theorem meets_EngineSteps :
    out (exec (.matrixJobStart 0) (engine [] 0 0 (filled .full ∘ headOf (work3 (some 7)) .queued 0))) (fun t => head t (fun x => x.phase = .running) &&
      (t.troupe 0).request = some 0 && (t.troupe 0).handles[7] = { state := .draining, held := true, tag := 1 }) = true ∧
    out (exec (.matrixJobStart 0) (engine [] 0 0 (filled .filling ∘ headOf (work3 (some 7)) .queued 0))) (fun t => head t (fun x => x.phase = .queued)) = true ∧
    out (exec (.rowGroupCommit 0 0) (running3 false 0)) (fun t => (t.troupe 0).request = some 0 && head t (fun x => x.rg = 0)) = true ∧
    out (exec (.mzeroEntryRun 0) (engine [] 0 0 (owns3 ∘ headOf (.zero 3) .queued 0))) (fun t => (t.troupe 0).mat.isEmpty && (t.troupe 0).flags[3] = 0) = true ∧
    out (exec (.mtblEntryRun 0) (engine [] 0 0 (headOf (.table 2 .reset) .queued 0))) (fun t => (t.troupe 0).mat.isEmpty) = true ∧
    out (exec (.completionRetry 0) (engine [] 0 0 (fun q => { q with completions := [(1, hello), (0, hello)] }))) (fun t => t.net.length = 1 && (t.troupe 0).completions = [(1, hello)]) = true := by
  decide +kernel

def job3 (rg : Nat) : MatEntry := { queuedMat with work := work3 none, phase := .running, rg := rg }
def st3 : StDesc := { tile := 3, first := 2, count := 1, fmt := 0, dstride := 0, dst := 0xFFF8000000000100 }
def storing3 : State := engine [] 0 0 (fun q => { headOf (.st st3) .queued 0 q with acc := words [(0xC200, 0x1234)] })

/-- The row group is computed and commits; the eighth retires the job and sends its message; two mismatches retire it. -/
theorem meets_EngineSteps_group :
    (match (running3 true 0).runGroup 0 (job3 0) .hh (desc3 none) 2 with | (_, .ok g) => g.accs.length = 512 | _ => false) = true ∧
    out (exec (.rowGroupCommit 0 0) (running3 true 0)) (fun t => head t (fun x => x.rg = 1)) = true ∧
    out (exec (.rowGroupCommit 0 0) (running3 true 7)) (fun t => (t.troupe 0).mat.isEmpty && t.net.length = 1) = true ∧
    out (exec (.rowGroupCommit 0 2) (running3 true 0)) (fun t => doneWith t 3) = true := by decide +kernel

theorem meets_EngineSteps_store :
    (match storing3.runSt 0 { queuedMat with work := .st st3, phase := .queued, rg := 0 } st3 with | (_, f, .ok ()) => f = 0 | _ => false) = true ∧
    poisonedIn (storing3.troupe 0).accPoison (16384 * 3 + 256 * 2) 256 = none ∧
    out (exec (.mstEntryRun 0) storing3) (fun t => doneWith t 0 && (t.core 0).scratch.read 0x100 = 0x34 && (t.core 0).scratch.read 0x101 = 0x12) = true := by
  decide +kernel

def copyOwn : CopyDesc :=
  { src := 0x40, dst := 0x100, rowBytes := 3, rows := 1, sspace := 1, dspace := 1, chan := 5, notify := true, handle := some 7, sstride := 0, dstride := 0 }
def headCopy (d : CopyDesc) (ph : JobPhase) (q : Troupe) : Troupe := { q with copies := [{ queuedCopy with desc := d, phase := ph }], copySeq := 1 }
def copyDoneWith (t : State) (st : Word) : Bool := (t.troupe 0).copies.isEmpty && (match (t.troupe 0).copyDone with | y :: _ => y.status = st | [] => false)
def headC (t : State) (f : CopyEntry → Bool) : Bool := match (t.troupe 0).copies with | x :: _ => f x | [] => false

theorem meets_EngineFaultsAndCopies :
    out (exec (.copyJobStart 0) (engine [] 0 0 (headCopy copyOwn .queued))) (fun t => headC t (fun x => x.phase = .running) &&
      (t.troupe 0).handles[7] = { state := .filling, held := true, tag := 1 }) = true ∧
    out (exec (.copyJobStart 0) (engine [] 0 0 (filled .full ∘ headCopy copyOwn .queued))) (fun t => headC t (fun x => x.phase = .queued)) = true ∧
    out (exec (.copyJobRetire 0 .ok) (engine [(0x40, 0x332211)] 0 0 (headCopy copyOwn .running))) (fun t => copyDoneWith t 0x103 && t.net.length = 1 &&
      (t.core 0).scratch.read 0x102 = 0x33 && (t.troupe 0).handles[7].state = .full) = true ∧
    out (exec (.copyJobRetire 0 .abort) (engine [] 0 0 (headCopy { copyOwn with sspace := 4 } .running))) (fun t => copyDoneWith t 0x33) = true := by decide +kernel

/-- Operands at 0x10000, which nothing maps; region 5 names core 0's channel 9 as its fault service. -/
def faulting (fs : Nat) (w : MatWork) (ph : JobPhase) (f : Option JobFault) : State :=
  { engine [] 0 0 (fun q => { q with mat := [{ queuedMat with work := w, phase := ph, fault := f, owner := { queuedMat.owner with region := 5 } }], active := true, matSeq := 1 }) with
    regions := [(5, 0x2000)], mem := words [(0x2000, 0x1000000005), (0x2008, 0x1F0001), (0x2028, fs)] }
def unmapped3 : MatWork := .mma .hh { desc3 none with abase := 0x10000 } 2 0 64
def fault0 (n : Bool) : JobFault := { va := 0x2345, write := false, code := 0, since := 0, noticed := n, again := 0, walked := 0 }
def at1024 (s : State) (n : Nat) : State := { s with clock := n }
/-- The fault's address is mapped now. -/
def served : State := { mapped with troupes := (faulting 0 unmapped3 .suspended (some (fault0 true))).troupes }

theorem meets_EngineFaultsAndCopies_faults :
    (faulting 0 unmapped3 .running none).jobFault 0 true = none ∧
    ((faulting 0 unmapped3 .suspended (some (fault0 true))).jobFault 0 false).isSome = true ∧
    (faulting 0 unmapped3 .running none).regionFsvc 5 = none ∧
    (match served.walk 0 1 0x2345 with | .ok l => l.r | _ => false) = true ∧
    out (exec (.enginePageFault 0 false) (faulting 0 unmapped3 .running none)) (fun t => doneWith t 1) = true ∧
    out (exec (.faultRewalk 0 false) (at1024 served 1023)) (fun t => head t (fun x => x.phase = .suspended)) = true ∧
    out (exec (.faultRewalk 0 false) (at1024 served 1024)) (fun t => head t (fun x => x.phase = .running && x.fault.isNone)) = true ∧
    out (exec (.faultTimeout 0 false) (at1024 served 1048575)) (fun t => head t (fun x => x.phase = .suspended)) = true ∧
    out (exec (.faultTimeout 0 false) (at1024 served 1048576)) (fun t => doneWith t 1) = true := by decide +kernel

/-! ### Queues and commands -/

/-- A packet at an I/O virtual address. -/
def pkt (l : List Nat) : Packet := { addr := 0x8000000000004000, seq := 0, slots := Vector.ofFn (fun i => BitVec.ofNat 64 (l.getD i.val 0)) }
/-- Die 0's thread of queue 0, of a function, in a state; domain 1 of partition 0; words of memory. -/
def command (f : FuncId) (st : ThreadState) (m : List (Nat × Nat)) : State :=
  { up5 with
    dies := up5.dies.set 0 { Die.reset with threads := Die.reset.threads.set 0 { Thread.reset with state := st } }
    host := { up5.host with cmdq := up5.host.cmdq.set 0 { CmdQueue.reset with func := f, run := true, tail := 1, base := 0x6000 } }
    domains := [(1, { part := 0, killed := false, lastGen := 0, plan := [{ ownWindow with space := false, limit := 0xFFFFF }] })]
    mem := words m }
def hasPkt (f : FuncId) (l : List Nat) (m : List (Nat × Nat)) : State := command f (.fetched (pkt l)) m
/-- The state in which the die has taken its packet. -/
def taken0 (s : State) : State := match (s.thread 0 0).state with
  | .fetched p => ((s.setThread 0 0 .idle).extWrite (s.fnOf 0) p.decision (leBytes 8 0x8000000000000000)).getD s
  | _ => s
/-- What Performs asks. -/
def performs (s : State) (opc : Nat) : Bool :=
  s.host.boot.stage = 5 && !s.host.railFault && (match (s.thread 0 0).state with
    | .fetched p => p.opc = opc && (match (s.setThread 0 0 .idle).extWord (s.fnOf 0) p.decision with | some w => !bit w 63 | none => false) &&
        ((s.setThread 0 0 .idle).extWrite (s.fnOf 0) p.decision (leBytes 8 0x8000000000000000)).isSome &&
        s.cores.all (fun e => !e.2.einjArm)
    | _ => false)
/-- The status word of a packet that names one at 0x7000, and the signal's value at 0x7008. -/
def status (t : State) : Nat × Nat := ((t.slot 0x7000 0).toNat, (t.slot 0x7008 0).toNat)
def named (l : List Nat) : List Nat := (l.take 2) ++ [0x7008] ++ (l.drop 3) ++ .replicate (14 - l.length) 0 ++ [0x7000, 0]
def due3 (x : IrqVector) (n : Nat) : State := { up5 with vectors := [(67, x)], clock := n }
def irq (p : Nat) (m : Bool) : IrqVector := { holdoff := 2, count := 4, pending := p, masked := m, since := some 0 }

theorem meets_QueuesAndPackets :
    (command 0 .idle [(0x6000, 4)]).host.boot.stage = 5 ∧ (command 0 .idle []).extPa 0 0x6000 128 .load = some 0x6000 ∧
    (command 0 .idle []).extPa 0 0xD000000000 128 .load = none ∧
    out (exec (.queueDoorbell 3 9) s0) (fun t => t.host.cmdq[3].tail = 9) = true ∧
    out (exec (.queueRun 3) s0) (fun t => t.host.cmdq[3].run) = true ∧
    out (exec (.packetFetch 0 0) (command 0 .idle [(0x6000, 4), (0x6018, 0x7000), (0x6020, 9)])) (fun t => (t.thread 0 0).count = 1 &&
      (match (t.thread 0 0).state with | .fetched p => p.opc = 4 && p.slots[3] = 0x7000 && p.slots[4] = 9 && p.addr = 0x6000 | _ => false)) = true ∧
    out (exec (.packetFetch 0 0) (command 0 .idle [(0x6000, 0x13)])) (fun t => t.host.cmdq[0].stopped && t.host.cmdq[0].reason = 2) = true ∧
    out (exec (.packetFetch 0 0) (command 0 .idle [(0x6000, 0x204)])) (fun t => t.host.cmdq[0].reason = 3) = true ∧
    out (exec (.packetFetch 0 0) { command 0 .idle [(0x6000, 4)] with poison := [0x6000] }) (fun t => t.host.cmdq[0].reason = 1) = true ∧
    out (exec (.packetFetch 0 0) (command 2 .idle [(0x6000, 4)])) (fun t => t.host.cmdq[0].reason = 4) = true ∧
    out (exec (.completionHeadWrite 3 7) s0) (fun t => t.host.cplq[3].head = 7) = true ∧
    out (exec (.completionHeadWrite 3 0) { cueing stream2 true id with dies := up5.dies.set 0 { Die.reset with posts := [{ queue := 3, slots := #v[1, 2, 3, 4], cue := none }] } })
      (fun t => t.dies[0].posts = [] && t.host.cplq[3].tail = 1) = true ∧
    out (exec (.vectorFire 1 3) (due3 (irq 4 false) 0)) (fun t => t.host.msix = [(1, 3)] && (t.vector 1 3).pending = 0) = true ∧
    out (exec (.vectorFire 1 3) (due3 (irq 1 false) 1879)) (fun t => t.host.msix = []) = true ∧
    out (exec (.vectorFire 1 3) (due3 (irq 1 false) 1880)) (fun t => t.host.msix = [(1, 3)]) = true ∧
    out (exec (.vectorUnmask 1 3) (due3 (irq 4 true) 0)) (fun t => t.host.msix = [(1, 3)] && !(t.vector 1 3).masked) = true ∧
    out (exec (.hostMemAccess 0 0x100 (some [1, 2]) 2) s0) (fun t => t.mem = [(0x100, 1), (0x101, 2)]) = true ∧
    out (exec (.registerWrite (.bar 1 0x10C0) 0x12FF) (cueing stream2 true id)) (fun t => t.host.cmdq[3].base = 0) = true ∧
    out (exec (.registerWrite (.bar 0 0x10C0) 0x12FF) (cueing stream2 true id)) (fun t => t.host.cmdq[3].base = 0x1280) = true ∧
    out (exec (.registerWrite (.bar 0 0x818) 5) s0) (fun t => t.host.cmdq[3].func = 5) = true ∧
    out (exec (.registerWrite (.bar 0 0x108) 0x77) s0) (fun t => t.host.boot.addr = 0x77) = true ∧
    out (exec (.registerWrite (.dev (some 0) 0x20000000000) 0x80000) s0) (fun t => (t.cluster 0).drbase = 0) = true ∧
    out (exec (.registerWrite (.msix 1 3) 1) (due3 (irq 4 false) 0)) (fun t => (t.vector 1 3).masked && t.host.msix = []) = true ∧
    out (exec (.registerWrite (.msix 1 3) 0) (due3 (irq 4 true) 0)) (fun t => !(t.vector 1 3).masked && t.host.msix = [(1, 3)]) = true ∧
    out (exec (.hostMemAccess 0 0x100 none 2) { s0 with mem := [(0x101, 7)] }) (fun t => t.host.reads = [{ fn := 0, pa := 0x100, data := [0, 7], poison := false }]) = true ∧
    out (exec (.hostMemAccess 1 0x100 none 2) { s0 with domains := [] }) (fun t => t.host.reads.map (·.poison) = [true]) = true ∧
    out (exec (.hostMemAccess 1 0x100 (some [1, 2]) 2) { s0 with domains := [] }) (fun t => t.mem = []) = true := by decide +kernel

theorem meets_QueueCommands :
    out (exec (.cond 0 0) (hasPkt 0 [2, 0, 0, 0x5000, 9, 0x500] [(0x5000, 8)])) (fun t => (t.thread 0 0).skip = 5 && (t.thread 0 0).state = .idle) = true ∧
    out (exec (.cond 0 0) (hasPkt 0 [2, 0, 0, 0x5000, 8, 0x500] [(0x5000, 8)])) (fun t => (t.thread 0 0).skip = 0) = true ∧
    out (exec (.cond 0 0) (hasPkt 0 [2, 0, 0, 0x5000, 9, 0x500] [(0x8000000004008, 0x8000000000000001)])) (fun t => (t.thread 0 0).skip = 0) = true ∧
    out (exec (.wait 0 0) (hasPkt 0 [3, 0, 0, 0x5000, 9, 3] [])) (fun t => match (t.thread 0 0).state with | .polling _ => true | _ => false) = true ∧
    out (exec (.waitConditionMet 0 0) (command 0 (.polling (pkt (named [3, 0, 0, 0x5000, 9, 3]))) [(0x5000, 9)])) (fun t => (t.thread 0 0).state = .idle &&
      lookup t.host.cmdq[0].done 0 = some 1 && status t = (0, 1)) = true ∧
    out (exec (.waitConditionMet 0 0) (command 0 (.polling (pkt [3, 0, 0, 0x5000, 9, 3])) [(0x5000, 8)])) (fun t => (t.thread 0 0).state ≠ .idle) = true ∧
    out (exec (.signal 0 0) (hasPkt 0 [4, 0, 0, 0x5000, 2] [(0x5000, 8), (0x8000000004008, 3)])) (fun t => t.slot 0x8000000004008 0 = 4 &&
      out (exec (.queueFenceComplete 0 0) t) (fun t => t.slot 0x5000 0 = 10 && (t.thread 0 0).state = .idle)) = true ∧
    out (exec (.queueFence 0 0) (hasPkt 0 [5] [(0x8000000004008, 3)])) (fun t => out (exec (.queueFenceComplete 0 0) t) (fun t => (t.thread 0 0).state = .idle)) = true ∧
    out (exec (.queueFence 0 0) (hasPkt 0 [5] [(0x8000000004008, 2)])) (fun t => out (exec (.queueFenceComplete 0 0) t) (fun t => (t.thread 0 0).state ≠ .idle)) = true ∧
    performs (hasPkt 0 [6] []) 6 = true ∧
    out (exec (.copyHost 0 0 []) (hasPkt 0 [6, 0, 0, 0x8000000000005000, 0, 0, 4] [])) (fun t => t.slot 0x8000000004008 0 = 0x8000000000000000) = true := by decide +kernel

/-- Region 5 with tag 1 in memory, mapped; the words of a LAUNCH of it, whose decision stands in the host's memory. -/
def launching (w : Nat) : State :=
  { hasPkt 0 (named [1, 0, 0, 5]) [(0x2000, 0x1000000005), (0x2008, 0x1F0001), (0x8000000004008, w)] with regions := [(5, 0x2000)] }
def share0 (n : Nat) (l : List (Nat × Message)) : LaunchShare :=
  { queue := 0, seq := 0, slots := (pkt []).slots, region := 5, bucket := 0, handler := 0, prio := 0, shapes := .replicate 8 0, left := n, held := l }
def sharing (h : LaunchShare) : State := { command 0 .idle [] with dies := up5.dies.set 0 { Die.reset with shares := [(2, h)] } }
/-- The same to or from address 0x3000 of the domain, mapped at itself. -/
def copying (dir : Nat) : State :=
  { hasPkt 1 [6, 0, 0, 0x8000000000005000, 0x3000, 5, 4, dir] [(0x2000, 0x1000000005), (0x2008, 0x1F0001), (0x3000, 0x11), (0x8000000005000, 0x22),
      (8, 0x10001), (0x10000, 0x11001), (0x11000, 0x12001), (0x12000, 0x47)] with regions := [(5, 0x2000)] }

theorem meets_QueueCommands_launch :
    (launching 0xC000000000000000).regionPa 5 = some 0x2000 ∧
    out (exec (.launch 0 0) (launching 0xA000000000000000)) (fun t => status t = (1, 1) && (t.thread 0 0).state = .idle) = true ∧
    out (exec (.launch 0 0) (launching 0xC000000000000000)) (fun t => status t = (4, 1)) = true ∧
    bit ((launching 0).launchDecision 0 (pkt (named [1, 0, 0, 5]))).2 61 = true ∧
    bit ((running (launching 0)).launchDecision 0 (pkt (named [1, 0, 0, 5]))).2 62 = true ∧
    out (exec (.launch 0 0) (launching 0x8000000500000000)) (fun t => match (t.thread 0 0).state with | .fetched _ => t.net = [] | _ => false) = true ∧
    out (exec (.launchRetry 0) (sharing (share0 1 [(0, hello), (1, hello)]))) (fun t => t.net = [.message none hello] && lookup t.dies[0].shares 2 = some (share0 1 [(1, hello)])) = true ∧
    out (exec (.launchShareComplete 0 2) (sharing (share0 0 []))) (fun t => lookup t.dies[0].shares 2 = none) = true ∧
    out (exec (.launchShareComplete 0 2) (sharing (share0 1 []))) (fun t => lookup t.dies[0].shares 2 = some (share0 1 [])) = true ∧
    performs (copying 0) 6 = true ∧
    (match (taken0 (copying 0)).domPlace 1 0x3000 .store with | (t, .ok r) => t = taken0 (copying 0) && r = (0x3000, false) | _ => false) = true ∧
    out (exec (.copyHost 0 0 []) (copying 0)) (fun t => t.mem.read 0x3000 = 0x22) = true ∧
    out (exec (.copyHost 0 0 []) (copying 1)) (fun t => t.mem.read 0x8000000005000 = 0x11) = true := by decide +kernel

/-- A LAUNCH of two cores, decided for bucket 0 of the table at 0x3000. -/
def seeding : State :=
  { hasPkt 0 (named [1, 0, 0, 5, 0, 0, 0, 0, 0x3000, 77, 3]) [(0x2000, 0x1000000005), (0x2008, 0x1F0001), (0x3000, 1), (0x3080, 0x600),
      (8, 0x10001), (0x10000, 0x11001), (0x11000, 0x12001), (0x12000, 0x47), (0x8000000004008, 0x8000000000000000)] with
    regions := [(5, 0x2000)], partitions := up5.partitions.set 0 { Partition.reset with state := .run, clusters := 1 } }

theorem meets_QueueCommands_seeds : out (exec (.launch 0 0) seeding) (fun t => t.net.length = 2 && (t.thread 0 0).state = .idle &&
    (match lookup t.dies[0].shares 0 with | some h => h.left = 2 && h.handler = 0x600 | none => false)) = true := by decide +kernel

/-- The same copy where nothing is mapped, and the fault service of its region. -/
def unmappedCopy (fs : Nat) : State :=
  { hasPkt 1 [6, 0, 0, 0x8000000000005000, 0x3000, 5, 4, 0] [(0x2000, 0x1000000005), (0x2008, 0x1F0001), (0x2028, fs), (0x8000000005000, 0x22)] with regions := [(5, 0x2000)] }

theorem meets_QueueCommands_faults : performs (unmappedCopy 0) 6 = true ∧
    out (exec (.copyHost 0 0 []) (unmappedCopy 0)) (fun t => t.host.copies = [] && t.net = [] && (t.thread 0 0).state = .idle) = true ∧
    out (exec (.copyHost 0 0 []) (unmappedCopy 0x80009)) (fun t => (t.host.copies.map (·.fault.va)) = [0x3000] && t.net.length = 1) = true := by decide +kernel

/-! ### Regions, domains, streams, checkpoints -/

/-- A region block for creation at 0x3000, a root of partition 0 with every OVR bit, its budget window wn units. -/
def blockAt (wn : Nat) : List (Nat × Nat) := [(0x3000, 0x800000000), (0x3008, 0x1F0001), (0x3018, wn * 0x100000000 + 5), (0x3020, 0x400000)]
def creating (f : FuncId) (l : List Nat) (m : List (Nat × Nat)) : State := { hasPkt f (named l) m with regions := [(4, 0x2000)], clock := 6 }

theorem meets_RegionAndDomainCommands_regions :
    performs (creating 1 [7, 0, 0, 0x3000] (blockAt 2)) 7 = true ∧
    out (exec (.regionCreate 0 0) (creating 1 [7, 0, 0, 0x3000] (blockAt 2))) (fun t => lookup t.regions 5 = some 0x3000 && t.slot 0x3000 0 = 0x1800000005 &&
      t.slot 0x3000 8 = 6 && status t = (0x500, 4)) = true ∧
    out (exec (.regionCreate 0 0) (creating 1 [7, 0, 0, 0x3000] (blockAt 0))) (fun t => status t = (2, 4)) = true ∧
    out (exec (.regionCreate 0 0) (creating 1 [7, 0, 0, 0x3000] ((0x3010, 0x5000) :: blockAt 2))) (fun t => status t = (1, 4)) = true ∧
    out (exec (.regionCreate 0 0) (creating 2 [7, 0, 0, 0x8000000000003000] (blockAt 2))) (fun t => (t.thread 0 0).state = .idle && t.regions.length = 1) = true ∧
    out (exec (.regionCreate 0 0) (creating 1 [7, 0, 0, 0x3040] (blockAt 2))) (fun t => status t = (2, 4)) = true ∧
    out (exec (.regionKill 0 0) (creating 1 [8, 0, 0, 0x2000] [(0x2000, 0x1800000004), (0x2008, 0x1F0001)])) (fun t => fld (t.slot 0x2000 0) 36 2 = 2 && status t = (0, 4)) = true ∧
    out (exec (.regionKill 0 0) (creating 1 [8, 0, 0, 0x2040] [])) (fun t => status t = (2, 4)) = true := by decide +kernel

/-- Partition 0 of function 1 in a state. -/
def part0 (p : Partition) (f : FuncId) (l : List Nat) (m : List (Nat × Nat)) : State := { creating f l m with partitions := up5.partitions.set 0 p }
def inState (x : PartState) : Partition := { Partition.reset with state := x, nonce := 0x55 }

theorem meets_RegionAndDomainCommands_domains :
    performs (part0 .reset 1 [9, 0, 0, 1, 0x8000000000005000] []) 9 = true ∧ (part0 .reset 1 [] []).tagFree 2 = true ∧ (part0 .reset 1 [] []).tagFree 1 = false ∧
    out (exec (.domainCreate 0 0 2) (part0 .reset 1 [9, 0, 0, 1, 0x8000000000005000] [(0x8000000005010, 0x190000)])) (fun t =>
      (match t.domain? 2 with | some y => y.part = 0 && !y.killed && y.plan.length = 1 | none => false) && (t.dom 0 2).deque = []) = true ∧
    out (exec (.domainCreate 0 0 2) (part0 .reset 1 [9, 0, 0, 17, 0x8000000000005000] [])) (fun t => status t = (2, 4)) = true ∧
    out (exec (.domainCreate 0 0 2) (part0 (inState .run) 1 [9, 0, 0, 1, 0x8000000000005000] [])) (fun t => status t = (1, 4)) = true ∧
    out (exec (.domainCreate 0 0 2) (part0 .reset 0 [9, 0, 0, 1, 0x5000] [])) (fun t => status t = (1, 4)) = true ∧
    out (exec (.measure 0 0) (part0 (inState .run) 1 [10, 0, 0, 0x5000, 8] [])) (fun t => status t = (1, 4)) = true ∧
    out (exec (.lock 0 0) (part0 .reset 1 [11, 0, 0, 0, 0x8000000000005000] [])) (fun t => t.partitions[0].state = .locked) = true ∧
    out (exec (.lock 0 0) (part0 (inState .run) 1 [11, 0, 0, 0, 0x8000000000005000] [])) (fun t => status t = (1, 4)) = true ∧
    out (exec (.start 0 0) (part0 (inState .locked) 1 [11, 0, 0, 1, 0x8000000000005000] [(0x8000000005000, 0x55)])) (fun t => t.partitions[0].state = .run) = true ∧
    out (exec (.start 0 0) (part0 (inState .locked) 1 [11, 0, 0, 1, 0x8000000000005000] [(0x8000000005000, 0x56)])) (fun t => t.partitions[0].state = .locked &&
      t.dies[0].log.count = 1) = true ∧
    out (exec (.start 0 0) (part0 (inState .run) 1 [11, 0, 0, 1, 0x8000000000005000] [])) (fun t => status t = (1, 4)) = true ∧
    out (exec (.attest 0 0) (part0 (inState .run) 1 [11, 0, 0, 2, 0x8000000000005000, 0x8000000000006000] [])) (fun t => t.partitions[0].reports = 1) = true ∧
    out (exec (.teardown 0 0) (part0 (inState .run) 1 [11, 0, 0, 3] [])) (fun t => t.partitions[0].state = .unlocked && t.partitions[0].phase = 1 && t.partitions[0].nonce = 0) = true := by
  decide +kernel

theorem meets_RegionAndDomainCommands_scrubs :
    out (exec (.scrubPhaseDone 0) (part0 { Partition.reset with phase := 4 } 1 [] [(0x100, 7)])) (fun t => t.partitions[0].phase = 5 && t.mem.read 0x100 = 0) = true ∧
    out (exec (.scrubPhaseDone 0) (part0 .reset 1 [] [])) (fun t => t.partitions[0].phase = 0) = true ∧
    out (exec (.functionLevelReset 0) (part0 { Partition.reset with phase := 3 } 1 [] [])) (fun t => t.partitions[0].phase = 1 && t.partitions[0].restarts = 1) = true ∧
    performs (part0 .reset 0 [18, 0, 0, 0, 3, 0, 0x21] []) 18 = true ∧
    out (exec (.assign 0 0) { part0 .reset 0 [18, 0, 0, 0, 3, 0, 0x21] [] with domains := [] }) (fun t => t.partitions[0].clusters = 3 && t.partitions[0].valw = 1 &&
      t.partitions[0].malw = 2 && status t = (0, 4)) = true ∧
    out (exec (.assign 0 0) { part0 .reset 0 [18, 0, 0, 0, 0, 0, 0x21] [] with domains := [] }) (fun t => status t = (2, 4)) = true ∧
    out (exec (.assign 0 0) (part0 .reset 0 [18, 0, 0, 0, 3, 0, 0x21] [])) (fun t => status t = (1, 4)) = true ∧
    out (exec (.setReplay 0 0) (part0 .reset 0 [18, 0, 0, 0x100] [])) (fun t => t.partitions[0].replay) = true ∧
    out (exec (.clearReplay 0 0) (part0 { Partition.reset with replay := true } 0 [18, 0, 0, 0x200] [])) (fun t => !t.partitions[0].replay) = true ∧
    out (exec (.setReplay 0 0) (part0 .reset 1 [18, 0, 0, 0x100] [])) (fun t => status t = (1, 4)) = true := by decide +kernel

/-- Function 1's command with stream 2 and output queue 3; link 0 to endpoint 9 with profiles. -/
def streamingBy (f : FuncId) (l : List Nat) (q : Option CueStream) (pr : BitVec 3) (p : Partition) : State :=
  let s := part0 p f l []
  { s with
    dies := s.dies.set 0 { s.dies[0] with streams := match q with | some q => [(2, q)] | none => [] }
    host := { s.host with
      cplq := s.host.cplq.set 3 { CplQueue.reset with func := 1 }
      links := s.host.links.set 0 { Link.reset with up := true, peer := 9, profiles := pr } } }
def streaming (l : List Nat) (q : Option CueStream) (pr : BitVec 3) (p : Partition) : State := streamingBy 1 l q pr p
def registering : List Nat := [12, 0, 0, 0x300000063, 9, 0x8000, 64]
def emitted2 : CueStream := { stream2 with ckord := some 0, cues := [{ cue0 true with record := some 0 }] }

theorem meets_StreamsAndCheckpoints :
    performs (streaming registering none 1 .reset) 12 = true ∧ (streaming registering none 1 .reset).retainOk 1 0x8000 64 = true ∧
    out (exec (.register 0 0) (streaming registering none 1 .reset)) (fun t => status t = (0, 4) && (match lookup t.dies[0].streams 0 with
      | some x => x.seqid = 99 && x.outq = 3 && x.ustudy = 9 && x.state = .active && x.retainSize = 64 | none => false)) = true ∧
    out (exec (.register 0 0) (streaming registering none 1 { Partition.reset with replay := true })) (fun t => (match lookup t.dies[0].streams 0 with
      | some x => x.state = .replay | none => false) && t.host.transfers.length = 1) = true ∧
    out (exec (.register 0 0) (streaming registering none 0 { Partition.reset with replay := true })) (fun t => (match lookup t.dies[0].streams 0 with
      | some x => x.state = .lost | none => false)) = true ∧
    out (exec (.register 0 0) (streaming [12, 0, 0, 0x30000004D, 9, 0x8000, 64] (some stream2) 1 .reset)) (fun t => status t = (1, 4)) = true ∧
    out (exec (.register 0 0) (streaming [12, 0, 0, 0x300000063, 9, 0x8010, 64] none 1 .reset)) (fun t => status t = (2, 4)) = true ∧
    out (exec (.reassign 0 0) (streaming [13, 0, 0, 2, 8] (some stream2) 1 .reset)) (fun t => streamOf t (fun q => q.ustudy = 8 && q.state = .active && q.flits.length = 1)) = true ∧
    out (exec (.reassign 0 0) (streaming [13, 0, 0, 3, 8] (some stream2) 1 .reset)) (fun t => status t = (2, 4)) = true ∧
    out (exec (.trunc 0 0) (streaming [14, 0, 0, 2, 1] (some stream2) 1 .reset)) (fun t => status t = (1, 4)) = true := by decide +kernel

def ckpt0 (ph : CkptPhase) : Checkpoint :=
  { die := 0, queue := 0, packet := pkt (named [15, 0, 0, 1, 1, 9]), parts := 1, links := 1, endpoint := 9, phase := ph, image := none, before := [], saved := [], asked := [] }
def checkpointing (c : Option Checkpoint) (l : List Nat) (tr : List Transfer) (n : Nat) : State :=
  let s := streamingBy 0 l (some stream2) 7 .reset
  { s with clock := n, host := { s.host with checkpoint := c, transfers := tr } }

/-- A job of the partition's domain is still queued. -/
def unfinished (n : Nat) : State :=
  { checkpointing (some (ckpt0 (.draining 6))) [] [] n with troupes := [(0, { Troupe.reset with mat := [{ queuedMat with phase := .queued }] })] }

theorem meets_StreamsAndCheckpoints_checkpoints :
    ckptParts 1 (pkt [15, 0, 0, 1]) = some 1 ∧ performs (checkpointing none [15, 0, 0, 1, 1, 9] [] 6) 15 = true ∧
    (checkpointing none [15, 0, 0, 1, 1, 9] [] 6).host.ckptLinks 1 9 = [0] ∧
    out (exec (.checkpoint 0 0) (checkpointing none [15, 0, 0, 1, 1, 9] [] 6)) (fun t => match t.host.checkpoint with
      | some c => c.parts = 1 && c.phase = .draining 6 && c.image.isNone | none => false) = true ∧
    out (exec (.checkpoint 0 0) (checkpointing none [15, 0, 0, 1, 1, 8] [] 6)) (fun t => t.host.checkpoint.isNone && t.dies[0].log.count = 1 && status t = (3, 4)) = true ∧
    out (exec .checkpointQueueTimeout (unfinished 9400006)) (fun t => t.host.checkpoint.isNone && status t = (3, 4)) = true ∧
    out (exec .checkpointQueueTimeout (unfinished 9400005)) (fun t => t.host.checkpoint.isSome) = true ∧
    (unfinished 7).queuesEmpty 1 = false ∧
    out (exec .checkpointQueueTimeout (checkpointing (some (ckpt0 (.draining 6))) [] [] 9400006)) (fun t => t.host.checkpoint.isSome) = true ∧
    out (exec (.checkpointManifestAck true) (checkpointing (some (ckpt0 .manifest)) [] [{ tag := 77, link := 0, body := .manifest, src := 0 }] 6))
      (fun t => t.host.checkpoint.isNone && status t = (0, 4) && streamOf t (fun q => q.ckref = 77)) = true ∧
    out (exec (.checkpointManifestAck false) (checkpointing (some (ckpt0 .manifest)) [] [{ tag := 77, link := 0, body := .manifest, src := 0 }] 6))
      (fun t => t.host.checkpoint.isNone && status t = (3, 4)) = true ∧
    out (exec (.summary 0 0) (checkpointing none [16, 0, 0, 0x8000000000005000, 8] [] 6)) (fun t => fld (BitVec.ofNat 64 (status t).1) 0 8 = 1) = true := by decide +kernel

/-- PEER_COPY of 4 bytes between region 4 (tag 1) and endpoint 9; the pages of `copying`. -/
def peering (dir ep : Nat) : State :=
  let s := streamingBy 0 [17, 0, 0, ep, 0x3000, 4, 4, dir, 0, 0x100] none 7 .reset
  { s with mem := words [(0x2000, 0x1000000004), (0x2008, 0x1F0001), (0x3000, 0x44332211), (8, 0x10001), (0x10000, 0x11001), (0x11000, 0x12001), (0x12000, 0x47)] }

theorem meets_StreamsAndCheckpoints_peers :
    performs (peering 0 9) 17 = true ∧ (peering 0 9).host.linkTo 9 2 = some 0 ∧ (peering 0 9).host.linkTo 8 2 = none ∧
    out (exec (.peerCopy 0 0) (peering 0 9)) (fun t => t.host.transfers.map (·.body) = [.read 0x100 4] && t.host.jobs.length = 1) = true ∧
    out (exec (.peerCopy 0 0) (peering 1 9)) (fun t => t.host.transfers.map (·.body) = [.write 0x100 [0x11, 0x22, 0x33, 0x44]]) = true ∧
    out (exec (.peerCopy 0 0) (peering 0 8)) (fun t => t.host.transfers = [] && status t = (3, 4)) = true := by decide +kernel

theorem meets_StreamsAndCheckpoints_trunc : out (exec (.trunc 0 0) (let s := streaming [14, 0, 0, 2, 1] (some emitted2) 1 .reset
      { s with host := { s.host with cplq := s.host.cplq.set 3 { CplQueue.reset with func := 1, head := 1, tail := 1 } } }))
    (fun t => streamOf t (fun q => q.cues = [] && q.truncOrd = some 0)) = true ∧
  out (exec (.checkpoint 0 0) (checkpointing (some (ckpt0 (.draining 6))) [] [] 7)) (fun t => (match t.host.checkpoint with
    | some c => c.phase = .writing && c.image.isSome | none => false) && (match t.host.transfers with | [x] => x.link = 0 | _ => false)) = true := by
  decide +kernel

theorem meets_EngineFaultsAndCopies_notice : (faulting 0x80009 unmapped3 .running none).regionFsvc 5 = some 0x80009 ∧
    out (exec (.enginePageFault 0 false) (faulting 0x80009 unmapped3 .running none)) (fun t => head t (fun x => x.phase = .suspended && x.fault.isSome) && t.net.length = 1) = true ∧
    out (exec (.faultNoticeRetry 0 false) (faulting 0x80009 unmapped3 .suspended (some (fault0 false)))) (fun t => t.net.length = 1 &&
      head t (fun x => x.fault = some (fault0 true))) = true := by decide +kernel

/-- A stream of 64-byte strips of the own scratchpad. -/
def stripped (n : Nat) : State := (engine [(0x40, 9)] 0 0 id).updCtx 0 0 (fun x => { x with regs := { x.regs with
  streams := x.regs.streams.set 1 { Stream.off with on := true, base := desc0, inner := 2, outer := 1, istride := 64, popped := n } } })
theorem meets_EngineFaultsAndCopies_strips :
    out (exec (.streamStripFetch 0 0 1) (stripped 0)) (fun t => (t.ctx 0 0).regs.streams[1].ahead.map (·.data) = [9]) = true ∧
    out (exec (.streamStripFetch 0 0 1) (stripped 2)) (fun t => (t.ctx 0 0).regs.streams[1].ahead = []) = true := by decide +kernel

/-! ### Links, bring-up, power -/

def linked (l : Link) (tr : List Transfer) (m : List (Nat × Nat)) : State :=
  { command 0 .idle m with host := { (command 0 .idle []).host with boot := { Boot.reset with stage := 5 }, links := up5.host.links.set 3 l, transfers := tr } }
def link9 : Link := { Link.reset with up := true, peer := 9, profiles := 7 }
def link3 (t : State) : Link := t.host.links[3]
def sent (n : BitVec 16) : SentFlit := { kind := 1, seq := n, vc := 0, sent := 0, replays := 0 }
def fourth (t : State) (f : Link → Bool) : Bool := f (link3 t)

theorem meets_Links :
    out (exec (.flitReceive 3 5 6 ⟨1, 0, 0x0102⟩ true) (linked { link9 with buffer := [sent 5, sent 6, sent 7], spent := #v[4, 4], nextSeq := 8 } [] [])) (fun t => link3 t =
      { link9 with rxSeq := 5, txSeq := 6, buffer := [sent 7], spent := #v[3, 2], owed := #v[1, 0], nextSeq := 8 }) = true ∧
    out (exec (.flitReceive 3 5 6 ⟨5, 0, 0x0102⟩ false) (linked link9 [] [])) (fun t => link3 t = { link9 with replays := 1, replaying := [(5, 1)] }) = true ∧
    out (exec (.flitReceive 3 5 6 ⟨6, 0, 0x0102⟩ true) (linked link9 [] [])) (fun t => link3 t = link9) = true ∧
    out (exec (.flitReceive 3 5 6 ⟨1, 0, 0x0102⟩ false) (linked { link9 with replaying := [(5, 6)] } [] [])) (fun t => fourth t (fun l => l.up)) = true ∧
    out (exec (.flitReceive 3 5 6 ⟨1, 0, 0x0102⟩ false) (linked { link9 with replaying := [(5, 7)] } [] [])) (fun t => fourth t (fun l => !l.up && l.downs = 1)) = true ∧
    out (exec (.linkDown 3) (linked link9 [] [])) (fun t => fourth t (fun l => !l.up && l.busy && l.step = 1 && l.peer = 0 && l.downs = 1)) = true ∧
    out (exec (.linkStepGo 3) (linked { Link.reset with step := 1 } [] [])) (fun t => fourth t (·.busy)) = true ∧
    out (exec (.linkStepGo 3) (linked { Link.reset with step := 0 } [] [])) (fun t => fourth t (fun l => !l.busy)) = true ∧
    out (exec (.linkStepDone 3 true 9 7) (linked { Link.reset with step := 1, running := 5, busy := true } [] [])) (fun t => fourth t (fun l => l.peer = 9 && l.step = 6 && l.busy && l.stated.isSome)) = true ∧
    out (exec (.linkStepDone 3 true 0 0) (linked { Link.reset with step := 6, running := 6, busy := true } [] [])) (fun t => fourth t (fun l => l.up && !l.busy)) = true ∧
    out (exec (.linkStepDone 3 false 0 0) (linked { Link.reset with step := 6, running := 2, busy := true } [] [])) (fun t => fourth t (fun l => l.fail && l.failedAt = some 0)) = true ∧
    out (exec (.linkTrainRetry 3) { linked { Link.reset with fail := true, failedAt := some 0 } [] [] with clock := 9400000 }) (fun t => fourth t (fun l => l.busy && l.step = 1)) = true ∧
    out (exec (.linkTrainRetry 3) { linked { Link.reset with fail := true, failedAt := some 0 } [] [] with clock := 9399999 }) (fun t => fourth t (fun l => !l.busy)) = true ∧
    out (exec (.linkDisable 3 true) (linked link9 [] [])) (fun t => fourth t (fun l => l.disable && !l.up)) = true ∧
    out (exec (.linkDisable 3 false) (linked { Link.reset with disable := true } [] [])) (fun t => fourth t (fun l => !l.disable && l.busy)) = true := by decide +kernel

def peerJob (tags : List Word) : PeerJob := { die := 0, queue := 0, packet := pkt (named [17, 0, 0, 9, 0x3000, 4, 4, 0, 0, 0x100]), tags := tags, failed := 0 }
/-- A job of PEER_COPY waits for an answer; the pages of `peering`. -/
def answered (b : TransferBody) (tags : List Word) : State :=
  let s := peering 0 9
  { s with host := { s.host with transfers := [{ tag := 77, link := 0, body := b, src := 0 }], jobs := [peerJob tags], area := words [(0x100, 0x99)] } }

theorem meets_Links_transfers :
    out (exec (.peerWrite 0 5 0x200 [7, 8]) (answered (.image 0 4 4) [])) (fun t => t.host.area.read 0x201 = 8 && t.host.area.read 0x100 = 0x99 && t.host.acks = [(0, 5)]) = true ∧
    out (exec (.peerWrite 0 5 0x201 [7, 8]) (answered (.image 0 4 4) [])) (fun t => t.host.area.read 0x201 = 0) = true ∧
    out (exec (.peerRead 0 5 0x100 1) (answered (.image 0 4 4) [])) (fun t => t.host.transfers.map (·.body) = [.image 0 4 4, .answer 0x100 [0x99]]) = true ∧
    (match (answered (.read 0x100 4) [77]).domPlace 1 0x3000 .store with | (t, .ok r) => t.mem = (peering 0 9).mem && r = (0x3000, false) | _ => false) = true ∧
    out (exec (.readData 0 77 [1, 2, 3, 4]) (answered (.read 0x100 4) [77])) (fun t => t.host.jobs = [] && t.host.transfers = [] && t.mem.read 0x3003 = 4 && status t = (0, 4)) = true ∧
    out (exec (.readData 0 77 [1, 2, 3]) (answered (.read 0x100 4) [77])) (fun t => t.host.transfers.length = 1) = true ∧
    out (exec (.readData 0 78 [1, 2, 3, 4]) (answered (.read 0x100 4) [77])) (fun t => t.host.transfers.length = 1) = true ∧
    out (exec (.durableAck 0 77) (answered (.write 0x100 [1]) [77])) (fun t => t.host.jobs = [] && status t = (0, 4)) = true ∧
    out (exec (.durableAck 0 77) (answered (.write 0x100 [1]) [77, 78])) (fun t => t.host.jobs.map (·.tags) = [[78]]) = true ∧
    out (exec (.durableAck 0 77) (answered (.answer 0x100 [1]) [])) (fun t => t.host.transfers = []) = true ∧
    out (exec (.readData 0 77 (.replicate 32 0 ++ leBytes 8 4 ++ .replicate 32 1)) (let s := answered (.journal 0 2 0) []
        { s with dies := s.dies.set 0 { s.dies[0] with streams := [(2, { stream2 with state := .replay, cues := [], nextOrd := 0, ackOrd := 0 })] } }))
      (fun t => streamOf t (fun q => q.journal = [4] && q.nextOrd = 5 && q.ackOrd = 5 && q.state = .replay && q.cues.length = 1)) = true ∧
    out (exec (.durableAck 0 77) (checkpointing (some (ckpt0 .writing)) [] [{ tag := 77, link := 0, body := .image 0 4 4, src := 0 }] 6)) (fun t => (match t.host.checkpoint with
      | some c => c.phase = .manifest | none => false) && t.host.transfers.length = 1) = true := by decide +kernel

/-- A boot image of a kind and version with an empty body, whose SHA-256 stands in its header; its KEYID is 0. -/
def image (kind svn : Nat) : BootImage :=
  { bytes := leBytes 4 0x4F424D47 ++ leBytes 4 kind ++ leBytes 4 svn ++ .replicate 20 0 ++
      (leBytes 32 0xE3B0C44298FC1C149AFBF4C8996FB92427AE41E4649B934CA495991B7852B855).reverse ++ .replicate 576 0
    signed := true }
def slot (svn : Nat) : Vector BootImage 3 := #v[image 1 svn, image 2 svn, image 3 svn]
def noSlot : Vector BootImage 3 := .replicate 3 .none
/-- Version 1 is the least; KEYID 0 is the vendor's, or the owner's. -/
def fuses (owner : Bool) : Fuses := { Fuses.reset with svn := .replicate 3 1, vendor := if owner then 5 else 0, owner := if owner then 0 else 5 }
def boot0 (f : Fuses) (a b : Vector BootImage 3) : Boot := { Boot.reset with fuses := f, flash := #v[a, b] }
def flashed (f : Fuses) (a b : Vector BootImage 3) : State := { s0 with host := { s0.host with boot := boot0 f a b } }
def staged (f : Boot → Boot) (h : Hbm) (others : Nat) : State :=
  { s0 with host := { s0.host with boot := f Boot.reset, hbm := (Vector.replicate 12 { Hbm.reset with passed := others }).set 4 h } }
def bootOf (t : State) : Nat × Nat × Bool := (t.host.boot.stage.toNat, t.host.boot.err.toNat, t.host.boot.recovery)

theorem meets_BringUp :
    out (exec .coldStart (flashed (fuses false) (slot 1) (slot 0))) (fun t => bootOf t = (1, 0, false) && !t.host.boot.slot && t.cores = [] && t.host.boot.cold) = true ∧
    out (exec .coldStart (flashed (fuses true) (slot 0) (slot 1))) (fun t => bootOf t = (1, 0, false) && t.host.boot.slot && t.host.boot.owner) = true ∧
    out (exec .coldStart (flashed (fuses false) noSlot (slot 0))) (fun t => bootOf t = (0, 2, true)) = true ∧
    out (exec .coldStart (flashed (fuses false) noSlot noSlot)) (fun t => bootOf t = (0, 1, true)) = true ∧
    out (exec .coldStart { flashed (fuses false) (slot 1) noSlot with mem := [(0x100, 7), (0x8000000000100, 9)] })
      (fun t => t.mem = [(0x8000000000100, 9)]) = true ∧
    out (exec .warmPackageReset { flashed (fuses false) (slot 1) noSlot with mem := words [(0x100, 7)] }) (fun t => t.mem.read 0x100 = 7 && !t.host.boot.cold &&
      t.host.hbm[4].passed = 3) = true ∧
    out (exec .warmPackageReset (let s := flashed (fuses false) (slot 1) noSlot; { s with host := { s.host with railFault := true } })) (fun t => t.host.railFault && t.host.boot.err = 4) = true ∧
    out (exec .railFault s0) (fun t => t.host.railFault && t.host.boot.err = 4 && t.cores = []) = true ∧
    out (exec (.hbmStepGo 4 1) (staged (fun b => { b with stage := 2 }) .reset 0)) (fun t => t.host.hbm[4].busy && t.host.hbm[4].attempts = 1) = true ∧
    out (exec (.hbmStepGo 4 2) (staged (fun b => { b with stage := 2 }) .reset 0)) (fun t => !t.host.hbm[4].busy && t.host.hbm[4].step = 2) = true ∧
    out (exec (.hbmStepGo 4 1) (staged (fun b => { b with stage := 1 }) .reset 0)) (fun t => !t.host.hbm[4].busy) = true ∧
    out (exec (.hbmStepDone 4 7 []) (staged (fun b => { b with stage := 2 }) { Hbm.reset with step := 6, running := 3, busy := true, fails := (Vector.replicate 7 0).set 3 2 } 0)) (fun t =>
      t.host.hbm[4].fail && t.host.boot.err = 3 && t.host.boot.stack = 4) = true ∧
    out (exec (.hbmStepDone 4 0xFFFFFFFF []) (staged (fun b => { b with stage := 2 }) { Hbm.reset with step := 6, running := 6, busy := true, passed := 5 } 6)) (fun t =>
      t.host.hbm[4].passed = 6 && bootOf t = (3, 0, false)) = true ∧
    out (exec (.hbmStepDone 4 0xFFFFFFFF []) (staged (fun b => { b with stage := 2, cold := false }) { Hbm.reset with step := 6, running := 6, busy := true, passed := 5 } 6)) (fun t =>
      bootOf t = (4, 0, false)) = true ∧
    out (exec (.hbmRetrain 4 0) (staged id .reset 0)) (fun t => t.host.hbm[4].retrain = 100) = true ∧
    out (exec (.hbmStepGo 4 1) (staged (fun b => { b with stage := 2, err := 3 }) .reset 0)) (fun t => !t.host.hbm[4].busy) = true ∧
    out (exec .memoryClearComplete s0) (fun t => bootOf t = (5, 0, false)) = true ∧
    out (exec .memoryClearComplete (let s := staged (fun b => { b with stage := 3 }) .reset 0
      { s with host := { s.host with railFault := true } })) (fun t => bootOf t = (3, 0, false)) = true ∧
    out (exec .memoryClearComplete { staged (fun b => { b with stage := 3 }) .reset 0 with mem := [(0x100, 7), (0x8000000000100, 9)] })
      (fun t => bootOf t = (4, 0, false) && t.mem = [(0x8000000000100, 9)]) = true := by decide +kernel

theorem meets_BringUp_images : (fuses false).judge 0 (image 1 1) = .accepted false ∧ (fuses true).judge 0 (image 1 1) = .accepted true ∧
    (fuses false).judge 0 (image 1 0) = .lowSvn ∧ (fuses false).judge 0 (image 2 1) = .bad ∧
    (fuses false).judge 0 { image 1 1 with signed := false } = .bad := by decide +kernel

/-- Bring-up in recovery mode, the images below n accepted; the host's image stands at the start of host memory. -/
def recovering (n : Nat) (m : BootImage) : State :=
  { s0 with
    mem := Memory.writeL [] 0x8000000000000 m.bytes
    host := { s0.host with boot := { boot0 (fuses false) noSlot noSlot with
      stage := if n = 0 then 0 else 1, recovery := true, len := 0x280, running := Vector.ofFn (fun i => if i.val < n then [1] else []) } } }

theorem meets_BringUp_recovery :
    out (exec (.bootRecoveryGo true) (recovering 0 (image 1 1))) (fun t => bootOf t = (1, 0, false) && t.host.boot.running[0] ≠ []) = true ∧
    out (exec (.bootRecoveryGo true) (recovering 1 (image 2 1))) (fun t => bootOf t = (1, 0, false) && t.host.boot.running[1] ≠ []) = true ∧
    out (exec (.bootRecoveryGo false) (recovering 0 (image 1 1))) (fun t => bootOf t = (0, 1, true)) = true ∧
    out (exec (.bootRecoveryGo true) (recovering 0 (image 1 0))) (fun t => bootOf t = (0, 2, true)) = true ∧
    out (exec (.bootRecoveryGo true) { recovering 0 (image 1 1) with poison := [0x8000000000000] }) (fun t => bootOf t = (0, 1, true)) = true := by decide +kernel

/-- Stage 1 with images in flash; stage 4 with a monitor of two bytes at 0x1000, core 1 retired. -/
def verifying (a : Vector BootImage 3) : State :=
  { s0 with agenda := [.boot], host := { s0.host with boot := { boot0 (fuses false) a noSlot with stage := 1 } } }
def loading : State :=
  { s0 with
    agenda := [.boot]
    host := { s0.host with
      epochs := [(4, [1])]
      boot := { Boot.reset with stage := 4, running := #v[[], [],
        List.replicate 16 0 ++ leBytes 8 0x1000 ++ leBytes 8 2 ++ .replicate 608 0 ++ [7, 8]] } } }

theorem meets_BringUp_stages :
    out (step (verifying (slot 1))) (fun t => bootOf t = (2, 0, false) && t.host.boot.running[2] ≠ []) = true ∧
    out (step (verifying (slot 0))) (fun t => bootOf t = (1, 2, true)) = true ∧
    out (step (verifying noSlot)) (fun t => bootOf t = (1, 1, true)) = true ∧
    out (step loading) (fun t => bootOf t = (5, 0, false) && (t.core 0).mmode.isSome && (t.ctx 0 mBank).regs.pc = 0x1000 && (t.core 0).mtvec = 0x1000 &&
      (t.core 1).retired && (t.core 1).mmode.isNone && t.mem.read 0x1000 = 7 && t.mem.read 0x1001 = 8 && t.dies[2].epochs = [(4, [1])]) = true := by decide +kernel

/-- Troupes with a job ready, each with its request; WAKEN is 2. -/
def readied (n : Nat) (l : List (Nat × Bool × Option Nat)) : State :=
  { s0 with
    clock := n, host := { s0.host with power := { Power.reset with waken := 2 } }
    troupes := l.map (fun e => (e.1, { headOf (work3 none) .running 0 Troupe.reset with active := e.2.1, request := e.2.2 })) }
def asking (n : Nat) (active : Bool) (r : Option Nat) : State := readied n [(0, active, r)]
def throttled (clock thr updated : Nat) : State :=
  { s0 with clock := clock, host := { s0.host with power := { Power.reset with thr := thr, updated := updated } } }
/-- A troupe with a job of four clocks accepted at clock 5. -/
def issuing (active : Bool) (l : List (Nat × Nat)) : Troupe :=
  { Troupe.reset with active := active, issued := l, mat := [{ queuedMat with work := work3 none, left := 4, accepted := 5 }] }
def windowed (g : Vector Window 16 → Vector Window 16) : State := core0 (fun q => { q with windows := g q.windows }) id
def win (b l : BitVec 46) (t : Tag) (v sp : Bool) : Window := { base := b, limit := l, dtag := t, rd := true, wr := true, ex := false, space := sp, v := v, clash := false }

theorem meets_PowerAndRegisters :
    out (exec (.troupeAdmission 0) (asking 940 false (some 940))) (fun t => (t.troupe 0).active && (t.troupe 0).request = none && t.dies[0].admitted = 2) = true ∧
    out (exec (.troupeAdmission 0) (asking 940 false (some 941))) (fun t => !(t.troupe 0).active) = true ∧
    out (exec (.troupeIdle 0) (asking 4096 true none)) (fun t => !(t.troupe 0).active) = true ∧
    out (exec (.troupeIdle 0) (asking 4095 true none)) (fun t => (t.troupe 0).active) = true ∧
    -- of four, the two that asked first; at one interval the lower number
    out (exec (.troupeAdmission 0) (readied 1880 [(0, false, some 1000), (1, false, some 1000), (2, false, some 1880), (3, false, some 5)]))
      (fun t => (List.finRange 4).map (fun i => (t.troupe (Fin.castLE (by decide) i)).active) = [true, false, false, true]) = true ∧
    out (exec (.troupeAdmission 0) { asking 940 false (some 940) with troupes := [(0, { Troupe.reset with request := some 5 })] }) (fun t => !(t.troupe 0).active) = true ∧
    (let y := (issuing true [(0, 63)]).govern 63 64; y.mat.map (fun j => (j.left, j.stall)) = [(3, 0)] ∧ y.quietFrom = 64) ∧
    (let y := (issuing true [(0, 64)]).govern 63 64; y.mat.map (fun j => (j.left, j.stall)) = [(4, 1)] ∧ y.active = true) ∧
    (let y := (issuing false []).govern 6 64; y.mat.map (fun j => (j.left, j.stall)) = [(4, 1)] ∧ y.request = some 7) ∧
    out (exec (.throttleUpdate 3001) (throttled 940000 64 0)) (fun t => t.host.power.thr = 56 && t.host.power.avgw = 3001 && t.host.power.updated = 1) = true ∧
    out (exec (.throttleUpdate 3001) (throttled 940000 64 1)) (fun t => t.host.power.thr = 64) = true ∧
    out (exec (.throttleUpdate 3001) (throttled 940001 64 0)) (fun t => t.host.power.thr = 64) = true ∧
    out (exec (.throttleUpdate 2849) (throttled 940000 20 0)) (fun t => t.host.power.thr = 24) = true ∧
    out (exec (.throttleUpdate 2850) (throttled 940000 20 0)) (fun t => t.host.power.thr = 20) = true ∧
    out (exec (.clusterGateWrite 0 3) s0) (fun t => (t.cluster 1).gated && !(t.cluster 0).gated && t.host.power.failed[0] = 1 && t.host.power.gate[0] = 2) = true ∧
    out (exec (.clusterWake 0) { s0 with clusters := [(0, { Cluster.reset with gated := true })] }) (fun t => (t.cluster 0).waking && !(t.cluster 0).gated) = true ∧
    out (exec (.clusterSupplySettled 0) { s0 with clusters := [(0, { Cluster.reset with waking := true })] }) (fun t => !(t.cluster 0).waking) = true ∧
    out (exec (.clusterSupplySettled 0) { s0 with clusters := [(0, { Cluster.reset with waking := true, held := [(0, 0x008, 0x50000)] })] })
      (fun t => (t.cluster 0).shva = 5 && (t.cluster 0).held = []) = true ∧
    out (exec (.clusterSupplySettled 0) { s0 with clusters := [(0, { Cluster.reset with gated := true, held := [(0, 0x008, 0x50000)] })] })
      (fun t => (t.cluster 0).shva = 0 && (t.cluster 0).held.length = 1) = true ∧
    out (exec (.windowBoundWrite 0 2 true 0xFC0) (windowed (·.set 2 (win 1 2 1 true true)))) (fun t => (t.core 0).windows[2].limit = 0x3F && !(t.core 0).windows[2].v) = true ∧
    out (exec (.windowEnableWrite 0 2 0x1F0001) (windowed (·.set 2 (win 1 2 1 false true)))) (fun t => (t.core 0).windows[2].v && (t.core 0).windows[2].ex) = true ∧
    out (exec (.windowEnableWrite 0 2 0x1F0001) (windowed (fun w => (w.set 2 (win 1 2 1 false true)).set 3 (win 2 5 2 true true))))
      (fun t => !(t.core 0).windows[2].v && (t.core 0).windows[2].clash) = true ∧
    out (exec (.errorInjectArm 0 0x101) s0) (fun t => (t.core 0).einjArm && (t.core 0).einjType = 1) = true ∧
    fld (0x103 : Word) 0 2 = 3 ∧
    out (exec (.errorInjectArm 0 0x103) s0) (fun t => !(t.core 0).einjArm) = true := by decide +kernel

/-! ### Further forms of the statements' hypotheses -/

/-- A hart of die 0 at a word of its SRAM, or at an address where nothing answers. -/
def hartWord (v : Nat) (pc : Word) : State :=
  { up5 with
    agenda := [.hart 0 0]
    dies := up5.dies.set 0 { Die.reset with
      sram := Memory.writeL [] 0 (leBytes 4 v), threads := Die.reset.threads.set 0 { Thread.reset with pc := pc, mtvec := 0x80 } } }

theorem meets_StepRunsDecoded_harts :
    (hartWord 0x00100093 0).hartRead (hartWord 0x00100093 0).hart.pc.toNat 4 = some (leBytes 4 0x00100093) ∧ decodeWaitp (BitVec.ofNat 32 0x00100093) = none ∧
    (hartWord 0 0x80000).hartRead 0x80000 4 = none ∧ (hartWord 0 0x80000).hartRead 0x80000 2 = none ∧
    out (step (hartWord 0x00100093 0)) (fun t => t.x 1 = 1 && t.hart.pc = 4) = true ∧
    out (step (hartWord 0 0x80000)) (fun t => t.hart.mcause = 1 && t.hart.pc = 0x80 && t.hart.mepc = 0x80000) = true := by decide +kernel

/-- The context waits for an MLSF of row group 0 of tile 3. -/
def flagging (s : State) : State := s.updMe (fun x => { x with outstanding := [⟨0x10, some { tile := 3, rg := 0, d := 4, order := 1 }⟩] })
def names3 (q : Troupe) : Troupe := { q with mat := [queuedMat], flags := q.flags.set 3 0x55 }

theorem meets_ChecksTrapInOrder_flags : (flagging ported).me.flagsOut = true ∧ (flagging s0).mMode = false ∧
    out (exec (.add w0 (.g 1) (.port .east) (.g 2)) (flagging ported)) (fun t => t.me.wait = some (.reissue false) && t.myCore.ports[1] = [(9, 2)]) = true := by decide +kernel

theorem meets_CoreReturns_flags :
    out (exec (.longResultReturn 0 0) (flagging (engine [] 0 0 (fun q => { q with flags := q.flags.set 3 0x55 })))) (fun t => t.regs.v[4] = 0x55 && t.regs.lsf = 0x10 &&
      t.me.outstanding = []) = true ∧
    out (exec (.longResultReturn 0 0) (flagging (engine [] 0 0 (headOf (.zero 3) .queued 0)))) (fun t => t.me.outstanding.length = 1) = true := by decide +kernel

/-- Address 0 of tag 1 by a page with given bits, g1 at 0. -/
def paged (bits : Nat) : State := { mapped with mem := words [(8, 0x10001), (0x10000, 0x11001), (0x11000, 0x12001), (0x12000, bits)] }

/-- A page of type SO in host memory. -/
def soPage : State := (paged 0x8000000000077).updCore 0 (fun q => { q with windows := q.windows.set 0 { ownWindow with space := false, limit := 0x3FFFFFFFFFFF } })

/-- A protected page without a key in the engine; a page of type SO. -/
theorem meets_LoadAndStoreResults_pages :
    (match (paged 0xC7).storePlace 0x40 8 with | .ok l => l.place = .phys 0x40 && l.prot && l.ty = 0 | .error _ => false) = true ∧
    (paged 0xC7).engineKey 0x40 1 = none ∧
    out (exec (.std w0 (.g 2) (.g 1) 0x40) (paged 0xC7)) (fun t => (t.core 0).mqueue.map (·.cause) = [0x11] && t.me.storeBuf = []) = true ∧
    (match soPage.storePlace 0x40 8 with | .ok l => l.ty = 3 && Except.isOk' (soPage.keyHeld l) | .error _ => false) = true ∧ soPage.me.fenced = false ∧
    out (exec (.std w0 (.g 2) (.g 1) 0x40) soPage) (fun t => t.me.storeBuf.map (fun st => (st.release, st.acquire)) = [(true, true)] && t.me.fenced &&
      out (exec (.std w0 (.g 2) (.g 1) 0x48) t) (fun t => t.me.wait = some (.reissue false))) = true := by decide +kernel

/-- Lines never written stand under every key. -/
theorem keyStands_bare (s : State) (a n : Nat) (h : s.lines = []) : s.keyStands a n none := ⟨by simp, by simp [h, lookup]⟩

theorem meets_keyStands : padM.keyStands 0x1000 1 none ∧ (region5 0).keyStands 0x2000 128 none ∧ s0.keyStands 0x100 2 none :=
  ⟨keyStands_bare _ _ _ rfl, keyStands_bare _ _ _ rfl, keyStands_bare _ _ _ rfl⟩

theorem meets_AtomicAndFenceResults_wc :
    (stored [store8 0x40 false false, store8 0x80 false true]).wcFree (stored [store8 0x40 false false, store8 0x80 false true]).me = true ∧
    out (exec (.fence w0 .acq .core) (stored [store8 0x40 false false, store8 0x80 false true])) (fun t => t.me.storeBuf = [store8 0x40 false false]) = true ∧
    (stored [store8 0x40 false false, store8 0x40 false true]).wcFree (stored [store8 0x40 false false, store8 0x40 false true]).me = false ∧
    out (exec (.fence w0 .acq .core) (stored [store8 0x40 false false, store8 0x40 false true])) (fun t => t.me.storeBuf = []) = true ∧
    out (exec (.fence w0 .acq .core) ((stored [store8 0x40 true false, store8 0x80 false true]).updMe (fun x => { x with verifs := [⟨0, true, false⟩] })))
      (fun t => t.me.storeBuf.length = 2 && t.me.wait = some (.reissue false)) = true := by decide +kernel

theorem meets_MonitorCalls_waits : (caller 0 0 0 0).myCore.callWaits = false ∧ entryWaits.myCore.callWaits = true ∧ entryWaits.mMode = false := by decide +kernel

theorem meets_HeldContexts_later : (((replied 0x10 id).core 0).nextEntry.map (fun e => e.1.cause)) = some 0x21 ∧
    out (exec (.fpNoticeRetry 0 0) ((eventful .held id).updCtx 0 0 (fun x => { x with event := some { heldEvent with again := 256 } }))) (fun t => t.net = []) = true := by decide +kernel

def starting (f : Core → Core) : State := core0 (fun q => f { q with startClock := some 0 })
  (fun x => { x with restore := some { regs := x.regs, item := none, atStart := true } })

theorem meets_StopsAndBudgets_more :
    out (exec (.pmreqStop 0 2) (stopping 1 id)) (fun t => (t.core 0).pmreq.stop = 3 && (t.core 0).stopClock = some 0) = true ∧
    (starting (fun q => { q with pmreq := { q.pmreq with stop := 1 } })).newStart 0 0 = true ∧
    out (exec (.safePointStop 0 0) (starting (fun q => { q with pmreq := { q.pmreq with stop := 1 } }))) (fun t => (t.ctx 0 0).safe = none && (t.core 0).pmreq.stopped = 1) = true ∧
    (starting id).mayStart 0 1 = false := by decide +kernel

/-- A WFM of context 0 blocked on channel 5. -/
def wfm5 (s : State) : State := s.updCtx 0 0 (fun x => { x with state := .blocked, wait := some (.message (.wfm w0 (.g 20) (.g 1)) 5 0 none) })

theorem meets_Arrivals_waiting : (wfm5 (arriving enabled5 id)).wfms 0 1 5 ≠ [] ∧ (arriving enabled5 id).wfms 0 1 5 = [] ∧
    (arriving enabled5 id).opens 0 1 (some 3) = false ∧ (arriving enabled5 id).opens 0 1 none = true ∧
    out (exec (.messageArrival 0) (wfm5 (arriving enabled5 id))) (fun t => t.net = [] && (match (t.ctx 0 0).wait with
      | some (.message _ 5 _ (some m)) => m = hello5 | _ => false)) = true ∧
    out (exec (.messageArrival 0) { arriving enabled5 id with net := [.message none { hello5 with key := some 3 }] }) (fun t => t.net = [] &&
      (t.ctx 0 1).state = .dormant && t.dies[0].log.count = 1) = true := by decide +kernel

theorem meets_CallBoard_wfms : (board [] 32 0).wfms 0 1 5 = [] ∧ (board [] 32 0).myCore.installed = 1 ∧
    (let s := (board [] 32 0).updCtx 0 1 (fun x => { x with state := .blocked, regs := { x.regs with tag := 1 }, wait := some (.message (.wfm w0 (.g 20) (.g 1)) 5 0 none) })
     out (exec (.hsetp w0 (.g 1)) s) (fun t => (t.dom 0 1).pend = 0 && (t.core 0).inbox = [] && (match (t.ctx 0 1).wait with
      | some (.message _ 5 _ (some m)) => m.isDoorbell | _ => false))) = true ∧
    out (exec (.hsetp w0 (.g 1)) ((board [] 32 0).updCore 0 (fun q => { q with installed := 2 }))) (fun t => (t.dom 0 1).pend = 0 && (t.core 0).inbox = []) = true ∧
    out (exec (.hsetp w0 (.g 1)) ((board [] 32 0).updMe (fun x => { x with storeBuf := [store8 0x40 true false], verifs := [⟨0, true, false⟩] })))
      (fun t => t.me.wait = some (.reissue false)) = true ∧
    out (exec (.wfm w0 (.g 20) (.g 1)) ((board [] 5 0).updCore 0 (fun q => { q.setDom 2 { DomState.reset 0 with tvec := 0x80 } with installed := 2 })))
      (fun t => (t.ctx 0 0).state = .dormant) = true := by decide +kernel

theorem meets_CuesAndPosts_acked : out (exec (.cueFlitResend 0 2) { cueing { stream2 with unsent := 1, ackOrd := 0, flits := [flit0 3], acked := 1 } true id with clock := 94000 })
    (fun t => streamOf t (fun q => q.state = .active && q.flits = [{ flit0 4 with sent := 94000 }])) = true := by decide +kernel

theorem meets_WaitpAndTranslation_jobs : (running3 true 0).troupes.all (fun q => q.2.begun (some 1)) = true ∧
    (let s := { shooting (fun x => { x with running := some shot }) with troupes := (running3 true 0).troupes }
     out (exec (.shootdownComplete 0) s) (fun t => (t.cluster 0).running.isSome)) = true ∧
    out (exec (.shootdownComplete 0) (shooting (fun x => { x with running := some shot }))) (fun t => (t.cluster 0).running = none) = true := by decide +kernel

theorem meets_EngineSteps_waits :
    out (exec (.rowGroupCommit 0 0) ((running3 true 0).updTroupe 0 (fun q => { q with mat := q.mat.map (fun x => { x with left := 5 }) }))) (fun t => head t (fun x => x.rg = 0)) = true ∧
    (let s := ((running3 true 0).updTroupe 0 (fun q => { q with mat := q.mat.map (fun x => { x with order := 1 }) })).updCtx 0 0 (fun x => { x with
        outstanding := [⟨0, some { tile := 3, rg := 0, d := 4, order := 1 }⟩] })
     (s.troupe 0).mat.all (s.flagsRead 0) && out (exec (.rowGroupCommit 0 0) s) (fun t => head t (fun x => x.rg = 0))) = true ∧
    (match ({ storing3 with troupes := storing3.troupes.map (fun q => (q.1, { q.2 with accPoison := [0xC200] })) } : State).runSt 0 { queuedMat with work := .st st3, phase := .queued, rg := 0 } st3 with
      | (_, _, .error (.err 6)) => true | _ => false) = true ∧
    out (exec (.mstEntryRun 0) { storing3 with troupes := storing3.troupes.map (fun q => (q.1, { q.2 with accPoison := [0xC200] })) }) (fun t => doneWith t 6) = true := by decide +kernel

theorem meets_EngineFaultsAndCopies_again :
    (match (at1024 (faulting 0 unmapped3 .suspended (some (fault0 true))) 1024).walk 0 1 0x2345 with | .error (.code _) => true | _ => false) = true ∧
    out (exec (.faultRewalk 0 false) (at1024 (faulting 0 unmapped3 .suspended (some (fault0 true))) 1024)) (fun t => head t (fun x => x.fault = some { fault0 true with walked := 1024 })) = true ∧
    out (exec (.faultNoticeRetry 0 false) (faulting 0x80009 unmapped3 .suspended (some { fault0 false with again := 256 }))) (fun t => t.net = []) = true := by decide +kernel

theorem meets_QueueCommands_shares :
    (let s := hasPkt 0 [4, 0, 0, 0x5000, 2] [(0x5000, 8)]
     let t : State := { s with dies := s.dies.set 0 { s.dies[0] with shares := [(2, share0 1 [])] } }
     !t.sharesDone 0 0 && out (exec (.signal 0 0) t) (fun t => match (t.thread 0 0).state with | .fencing _ m => !m | _ => false)) = true := by decide +kernel

theorem meets_RegionAndDomainCommands_scrubbing :
    (let s := creating 1 [7, 0, 0, 0x3000] (blockAt 2)
     out (exec (.regionCreate 0 0) { s with partitions := s.partitions.set 0 { Partition.reset with phase := 1 } }) (fun t => status t = (1, 4))) = true ∧
    out (exec (.functionLevelReset 0) (let s := part0 { Partition.reset with phase := 3 } 1 [] []
      { s with dies := s.dies.map (fun d => { d with keys := [{ tag := 9, data := 0, tweak := 0 }] }) })) (fun t => t.dies[1].keys = []) = true := by decide +kernel

/-- A checkpoint that holds the sequence up to ordinal 4 has been loaded. -/
def loaded4 (s : State) : State :=
  { s with host := { s.host with loaded := some (77, { signatures := [], ckords := [(99, some 4)], regions := [], crc := 0 }) } }

theorem meets_StreamsAndCheckpoints_loaded :
    (loaded4 (streaming registering none 1 .reset)).checkpointOf 99 = some (77, some 4) ∧
    out (exec (.register 0 0) (loaded4 (streaming registering none 1 .reset))) (fun t => t.host.transfers.map (·.body) = [.journal 0 0 5] &&
      (match lookup t.dies[0].streams 0 with | some x => x.state = .replay && x.ckref = 77 && x.ckord = some 4 | none => false)) = true ∧
    out (exec (.trunc 0 0) (let s := streaming [14, 0, 0, 2, 1] (some { emitted2 with truncPos := some 2 }) 1 .reset
      { s with host := { s.host with cplq := s.host.cplq.set 3 { CplQueue.reset with func := 1, head := 1, tail := 1 } } })) (fun t => status t = (1, 4)) = true ∧
    out (exec (.peerCopy 0 0) { peering 1 9 with mem := words [(0x2000, 0x1000000004), (0x2008, 0x1F0001), (0x2028, 0x80009)] }) (fun t =>
      t.host.copies.map (·.work) = [.peerOut] && t.net.length = 1) = true ∧
    out (exec (.peerCopy 0 0) { peering 1 9 with mem := words [(0x2000, 0x1000000004), (0x2008, 0x1F0001)] }) (fun t => t.host.copies = [] && status t = (3, 4)) = true := by decide +kernel

/-! ### Forms of the statements' hypotheses: selectors, gangs, CSRs, memory -/

def trapsAt (s : State) (nx : Nx) (code : BitVec 8) (v : Word) : Bool :=
  match s.select (nxPre nx) 0x100 with | .error (.trap c x) => c = code && x = v | _ => false

/-- Odd targets of each selector; an END in a gate call, a plain one, and one with a guard fault pending. -/
theorem meets_SelectorTargets_odd :
    trapsAt (at0 (fun r => { r with t0 := 1 }.setP 1 true)) .goc 0x05 1 = true ∧ trapsAt (at0 (fun r => { r with lc := 2, ls := 3 })) .loop 0x05 3 = true ∧
    trapsAt (at0 (fun r => { r with t0 := 1 })) .call 0x05 1 = true ∧ trapsAt (at0 (fun r => { r with link := [5] })) .ret 0x05 5 = true ∧
    trapsAt (at0 (fun r => { r with dom := [entered] })) .fin 0x0E 1 = true ∧
    (match s0.select (nxPre .fin) 0x100 with | .ok t => t.me.wait = some .ending && t.me.state = .blocked && t.regs.pc = 0x100 | _ => false) = true ∧
    (match (at0 (fun r => { r with guardPending := true, gfa := 7 })).select (nxPre .fin) 0x100 with | .error (.guardFault a) => a = 7 | _ => false) = true := by
  decide +kernel

theorem meets_RegisterFrames_predicates :
    Runs (.cmpi w0 .eq 1 (.g 2) 2) w0 (.aw (.g 2) (rp 1)) g123 ∧ Runs (.pand w0 1 2 3) w0 (.rw (rp 2 ++ rp 3) (rp 1) false) g123 ∧
    Runs (.pnot w0 1 2) w0 (.rw (rp 2) (rp 1) false) g123 ∧ Runs (.pmov w0 0 2) w0 (.rw (rp 2) (rp 0) false) g123 ∧
    out (exec (.pnot w0 1 2) g123) (fun t => t.regs.getP 1 && t.regs.g = g123.regs.g) = true :=
  ⟨runs_of (by decide +kernel), runs_of (by decide +kernel), runs_of (by decide +kernel), runs_of (by decide +kernel), by decide +kernel⟩

/-- A gang whose follower is not DORMANT, or does not hold the domain; a gang of two that DISB disbands, its follower at a REJN. -/
def follower (f : Core → Core) (g : Context → Context) : State :=
  let s := ganged (fun g => { g with reason := 3 })
  { s with cores := s.cores.take 1 ++ [(1, let q := f (keyed Core.reset); { q with ctxs := q.ctxs.set 0 (g q.ctxs[0]) })] }
def gang2Of : State :=
  (follower id (fun x => { x with state := .blocked, wait := some (.rejoin 0x100), regs := { x.regs with gstat := { Gstat.none with inGang := true, size := 1 } } })).updCtx 0 0
    (fun x => { x with regs := { x.regs with gstat := { Gstat.none with inGang := true, leader := true, size := 1 } } })

theorem meets_Gangs_followers :
    out (exec (.gang2 w0) ((follower id (fun x => { x with state := .held })).updCore 0 (fun q => q.setDom 1 { DomState.reset 0 with tvec := 0x80 }))) (fun t => t.regs.tcause = 0x10) = true ∧
    out (exec (.gang2 w0) ((follower (fun _ => Core.reset) id).updCore 0 (fun q => q.setDom 1 { DomState.reset 0 with tvec := 0x80 }))) (fun t => t.regs.tcause = 0x10) = true ∧
    (follower id id).startDue 1 0 = false ∧ (follower id id).me.flagsOut = false ∧
    out (exec (.gang2 w0) (follower id id)) (fun t => t.regs.gstat.reason = 3 && (t.ctx 1 0).regs.gstat.reason = 3 && t.regs.gstat.leader) = true ∧
    gang2Of.gang 0 0 = [0, 1] ∧
    out (exec (.disb w0) gang2Of) (fun t => !(t.ctx 0 0).regs.gstat.inGang && (t.ctx 0 0).regs.gstat.reason = 1 && (t.ctx 1 0).regs.gstat.reason = 1 &&
      (t.ctx 1 0).state = .ready && (t.ctx 1 0).wait = none) = true ∧
    out (exec (.disb w0) s0) (fun t => t.regs.pc = 0x104 && t.regs.gstat = s0.regs.gstat) = true := by decide +kernel

theorem meets_CsrWritesAndTraps_values :
    (s0.csrWrite 0x002 5).isNone = true ∧ (s0.csrWrite 0x002 4).isSome = true ∧ (s0.csrWrite 0x003 6).isNone = true ∧ (s0.csrWrite 0x004 0x400006).isNone = true ∧
    (s0.csrWrite 0x004 0x400005).isSome = true ∧ (s0.csrWrite 0x004 0x410000).isNone = true ∧ (s0.csrWrite 0x004 0).isNone = true ∧
    (s0.csrWrite 0x004 0x2000300).isSome = true ∧
    out (exec (.swr w0 (.g 1) 0x002) ((at0 (fun r => { r with g := r.g.set 1 5 })).updCore 0 (fun q => q.setDom 1 { DomState.reset 0 with tvec := 0x80 })))
      (fun t => t.regs.tcause = 0x01 && t.regs.pc = 0x80) = true ∧ (m0 id id).mMode = true := by decide +kernel

/-- An M-mode store to a tile that a queued entry names; a tile it does not name. -/
def tileStore (busy : Bool) : State :=
  { m0 id (fun r => { r with g := (r.g.set 1 0xFFFA00000000C000).set 2 0x55 }) with
    troupes := [(0, if busy then headOf (.zero 3) .queued 0 Troupe.reset else Troupe.reset)] }

theorem meets_LoadAndStoreResults_busy :
    (match (tileStore true).storePlace 0xFFFA00000000C000 1 with | .ok l => (tileStore true).monitorWaits l && !(tileStore false).monitorWaits l | _ => false) = true ∧
    out (exec (.stb w0 (.g 2) (.g 1) 0) (tileStore true)) (fun t => t.me.state = .blocked && (t.troupe 0).acc.read 0xC000 = 0) = true ∧
    out (exec (.stb w0 (.g 2) (.g 1) 0) (tileStore false)) (fun t => (t.troupe 0).acc.read 0xC000 = 0x55) = true := by decide +kernel

/-- An atomic load behind a buffered store, and a store release. -/
theorem meets_MemoryFrames_ordered : Runs (.lda w0 .d .core (.g 3) (.g 1)) w0 (.g2 (.g 3) (.g 1) true) pad0 ∧
    Runs (.stl w0 .d .core (.g 2) (.g 1)) w0 (.a2 (.g 1) (.g 2)) pad0 ∧
    (out (exec (.lda w0 .d .core (.g 3) (.g 1)) pad0) (fun t => t.regs.g[3] = 0 && t.me.storeBuf = []) = true ∧
      out (exec (.stl w0 .d .core (.g 2) (.g 1)) pad0) (fun t => t.me.storeBuf.map (·.release) = [true]) = true ∧
      out (exec (.ldd { w0 with chain := [.ord .release .core] } (.g 3) (.g 1) 0) (pad0.updMe (fun x => { x with storeBuf := [store8 0x40 false false] })))
        (fun t => t.regs.g[3] = 0x201 && t.me.storeBuf = [] && (t.core 0).scratch.read 0x41 = 2) = true) :=
  ⟨runs_of (by decide +kernel), runs_of (by decide +kernel), by decide +kernel⟩

/-- A pending guard fault at a FENCE while an MLSF result is out: the trap waits, and the fault stays pending. -/
theorem meets_AtomicAndFenceResults_pending : (flagging (at0 (fun r => { r with guardPending := true }))).trapWaits = true ∧
    out (exec (.fence w0 .acq .device) (flagging (at0 (fun r => { r with guardPending := true }))))
      (fun t => t.regs.guardPending && t.me.wait = some (.reissue false)) = true := by decide +kernel

/-! ### Rounding, comparison, reduction -/

/-- 1 + 2^−24 is half way; 1 − 1 cancels, to −0 when rounding down; the square root of 2. -/
theorem meets_FloatArithmetic_rounds :
    (fp32.value 0x3F800000 = .fin false 0x800000 (-23)) ∧ ((fp32.value 0x3F800000).num + (fp32.value 0x33800000).num ≠ 0) ∧
    fp32.add 0 0x3F800000 0x33800000 = ⟨0x3F800000, 1⟩ ∧ fp32.add 2 0x3F800000 0x33800000 = ⟨0x3F800001, 1⟩ ∧ fp32.add 4 0x3F800000 0x33800000 = ⟨0x3F800001, 1⟩ ∧
    fp32.sub 3 0x3F800000 0x3F800000 = ⟨0x80000000, 0⟩ ∧ fp32.sqrt 0 0x40000000 = ⟨0x3FB504F3, 1⟩ := by
  decide +kernel

theorem meets_VectorTests_floats :
    numOrder (fp32.value 0x80000000) (fp32.value 0) = some .eq ∧ numOrder (fp32.value 0x7FC00000) (fp32.value 0) = none ∧
    vcmpElem .f32 .le 0x80000000 0 = ⟨1, 0⟩ ∧ vcmpElem .f32 .lt 0x7FC00000 0 = ⟨0, 16⟩ ∧ vcmpElem .f32 .ne 0x7FC00000 0 = ⟨1, 0⟩ ∧
    vcmpElem .f32 .eq 0x7F800001 0 = ⟨0, 16⟩ ∧ vcmpElem .f32 .un 0x7FC00000 0 = ⟨1, 0⟩ ∧
    vred .f32 .sum 0 ((List.replicate 16 none).set 3 (some 0x40000000)) = ⟨0x40000000, 0⟩ ∧
    vred .f32 .max 0 (.replicate 16 none) = ⟨0xFF800000, 0⟩ ∧
    vred .f32 .sum 0 (((List.replicate 16 none).set 0 (some 0x3F800000)).set 9 (some 0x40000000)) = ⟨0x40400000, 0⟩ ∧
    (vcvtElem .i32 .f32 1 0x40200000).bits = 2 ∧ (vcvtElem .i32 .f32 1 0x7FC00000) = ⟨0x7FFFFFFF, 16⟩ ∧ vcvtElem .f32 .i32 1 0xFFFFFFFF = ⟨0xBF800000, 0⟩ := by
  decide +kernel

/-! ### Entries, kills, stops, arrivals -/

/-- A store of context 0 to tile 3, which a queued entry names. -/
def held3 : Store := { store8 0 false false with place := .acc 0 0xC000 }
def busy3 (s : State) : State := { s with troupes := [(0, headOf (.zero 3) .queued 0 Troupe.reset)] }
/-- M mode on the entry of a stop request. -/
def stopServed : State := m0 (fun q => { q with
  mmode := some { cause := 0x15, ctx := 0, core := true, epc := 0, val := 0 }, pmreq := { q.pmreq with stopped := 3 } }) id

theorem meets_MonitorModeEntry_moved :
    out (exec (.mmodeEntry 0) (entryWaits.updCtx 0 0 (fun x => { x with regs := { x.regs with pc := 0x90 } }))) (fun t => (t.core 0).mepc = 0x90) = true ∧
    out (exec (.mmodeEntry 0) (entryWaits.updCtx 0 0 (fun x => { x with state := .dormant, regs := { x.regs with pc := 0x90 } }))) (fun t => (t.core 0).mepc = 0x100) = true ∧
    out (exec (.mret (plain 4)) stopServed) (fun t => (t.core 0).mmode = none && (t.core 0).pmreq.stopped = 0) = true ∧
    (busy3 (serving 0x11 id)).tileHeld held3 = true ∧
    out (exec (.hrel (plain 4) (.g 1)) (busy3 (serving 0x11 (fun x => { x with storeBuf := [held3] })))) (fun t => (t.ctx 0 1).isDying && (t.ctx 0 1).storeBuf = [held3]) = true := by
  decide +kernel

theorem meets_KeysAndFrames_waits : homeOf 0x8000000000000 ≠ .dram ∧ homeOf 0x8000000000000 ≠ .vault ∧
    (monitor 1 0x4000 id).frameHere 0x4000 = none ∧
    out (exec (.ctxsv (plain 4) (.g 1) (.g 2)) (monitor 1 0x4000 (fun x => { x with halted := true, state := .blocked, wait := some .dying, storeBuf := [held3] })))
      (fun t => t.me.wait = some (.reissue false) && (t.ctx 0 1).isDying) = true ∧
    out (exec (.ctxsv (plain 4) (.g 1) (.g 2)) (monitor 1 0x4000 (fun x => { x with halted := true, state := .ready, verifs := [⟨0, true, false⟩] })))
      (fun t => t.me.wait = some (.reissue false)) = true ∧
    out (exec (.ctxsv (plain 4) (.g 1) (.g 2)) (monitor 1 0x8000000000000 (fun x => { x with halted := true, state := .ready })))
      (fun t => (t.ctx 0 1).state = .ready && t.frames = []) = true := by decide +kernel

/-- M mode has entered for the answer. -/
def answeredM (code : Word) : State := (eventful .held id).updCore 0 (fun q => { q with
  mmode := some { cause := 0x21, ctx := 0, core := false, epc := 0, val := 0, answer := some (reply code) }
  ctxs := q.ctxs.set 8 { Context.reset with state := .ready } })

theorem meets_HeldContexts_entered :
    ((answeredM 0x10).ctx 0 mBank).state = .ready ∧ ((answeredM 0x10).ctx 0 mBank).regs.pc = ((answeredM 0x10).core 0).mtvec ∧
    out (exec (.fpResume 0) (answeredM 0x10)) (fun t => (t.ctx 0 0).state = .ready && (t.core 0).mmode = none) = true ∧
    out (exec (.fpKill 0) (busy3 ((replied 0x11 id).updCtx 0 0 (fun x => { x with storeBuf := [held3] })))) (fun t => (t.ctx 0 0).isDying) = true ∧
    out (exec (.rollback 0 0 false) (busy3 ((restorable0 true).updCtx 0 0 (fun x => { x with storeBuf := [held3] })))) (fun t => !t.me.rolledBack && t.regs.pc = 0x100) = true ∧
    out (exec (.rollback 0 0 false) (busy3 ((restorable0 false).updCtx 0 0 (fun x => { x with storeBuf := [held3] })))) (fun t => t.me.isDying) = true := by
  decide +kernel

theorem meets_StopsAndBudgets_limits :
    ((stopping 1 (fun x => { x with regs := { x.regs with dom := [entered] } })).ctx 0 0).toUnwind = true ∧
    out (exec (.safePointStop 0 0) (stopping 1 (fun x => { x with state := .blocked, wait := some (.reissue false), regs := { x.regs with dom := [entered] } })))
      (fun t => (t.core 0).pmreq.stopped = 0) = true ∧
    ({ atSafePoint.updCore 0 (fun q => { q with stopClock := some 0 }) with clock := 6580 } : State).stopExpired 0 = true ∧
    out (exec (.safePointStop 0 0) { atSafePoint.updCore 0 (fun q => { q with stopClock := some 0 }) with clock := 6580 }) (fun t => (t.core 0).pmreq.stopped = 0) = true ∧
    out (exec (.safePointStop 0 0) { atSafePoint.updCore 0 (fun q => { q with stopClock := some 0 }) with clock := 6579 }) (fun t => (t.ctx 0 0).safe = some 1) = true := by
  decide +kernel

def gatedCluster (g w : Bool) (s : State) : State := { s with clusters := [(0, { Cluster.reset with gated := g, waking := w })] }

theorem meets_Arrivals_gated :
    out (exec (.refusalArrival 0) (gatedCluster true false { arriving enabled5 id with net := [.refusal none (hello5.refuse false)] }))
      (fun t => (t.cluster 0).waking && t.net.length = 1) = true ∧
    out (exec (.refusalArrival 0) (gatedCluster false true { arriving enabled5 id with net := [.refusal none (hello5.refuse false)] }))
      (fun t => (t.cluster 0).waking && t.net.length = 1) = true ∧
    out (exec (.tdecHome 0) (gatedCluster true false (decBlock 1))) (fun t => (t.cluster 0).waking && t.net.length = 1) = true ∧
    out (exec (.tdecHome 0) (gatedCluster false true (decBlock 1))) (fun t => t.net.length = 1) = true := by decide +kernel

theorem meets_Activations_ends :
    out (exec (.activationEnd 0 0) (busy3 (core0 id (fun x => { x with state := .blocked, wait := some .dying, storeBuf := [held3] })))) (fun t => (t.ctx 0 0).isDying) = true ∧
    out (exec (.activationEnd 0 0) (core0 id (fun x => { x with state := .blocked, wait := some .dying, storeBuf := [held3] })))
      (fun t => (t.ctx 0 0).state = .dormant && (t.troupe 0).acc.read 0xC001 = 2) = true ∧
    ((m0 id id).core 0).served = some 0 ∧
    out (exec (.activationEnd 0 0) ((m0 id id).updCtx 0 0 (fun x => { x with state := .blocked, wait := some .ending }))) (fun t => (t.ctx 0 0).wait = some .ending) = true := by
  decide +kernel

/-! ### Gates, cues, translation -/

/-- An injection armed on the entry of gate 3. -/
def armedGate : State := (calling 0x5030001 id).updCore 0 (fun q => { q with einja := 0xBFF00800C0, einjArm := true })

theorem meets_GateCalls_armed : (armedGate.injection 0xBFF00800C0 64).isSome = true ∧ ((calling 0x5030001 id).injection 0xBFF00800C0 64) = none ∧
    out (exec (.gcall w0 6 1 0) armedGate) (fun t => t.regs.pc = 0x100 && t.regs.dom = [] && !(t.core 0).einjArm) = true := by decide +kernel

/-- The journal of stream 2 is being read; a verification stands before an HPOST. -/
theorem meets_CuesAndPosts_waits :
    (let s := cueing stream2 true id
     let s : State := { s with host := { s.host with transfers := [{ tag := 1, link := 0, body := .journal 0 2 0, src := 0 }] } }
     s.journalDue 0 2 && out (exec (.cue w0 (.g 9) 1) s) (fun t => t.me.state = .parked && streamOf t (fun q => q.nextOrd = 1))) = true ∧
    out (exec (.hpost w0 (.g 7) 1) ((cueing stream2 true id).updMe (fun x => { x with verifs := [⟨0, true, false⟩] })))
      (fun t => t.me.wait = some (.reissue false) && t.host.cplq[3].tail = 0) = true := by decide +kernel

theorem meets_WaitpAndTranslation_gated :
    out (exec (.shootdownGo 0 (.host 0) 0x20001) (gatedCluster true false mapped)) (fun t => (t.cluster 0).held = [(0, 16, 0x20001)] && (t.cluster 0).waking &&
      !(t.cluster 0).gated && (t.cluster 0).running = none) = true ∧
    out (exec (.shootdownGo 0 (.host 0) 0x20001) (gatedCluster false true mapped)) (fun t => (t.cluster 0).held = [(0, 16, 0x20001)] && (t.cluster 0).waking) = true := by
  decide +kernel

/-! ### Commands, streams, links -/

theorem meets_QueueCommands_stores :
    out (exec (.launchShareComplete 0 2) { sharing (share0 0 []) with cores := (stored [{ store8 0x40 false false with launch := some (0, 2) }]).cores })
      (fun t => lookup t.dies[0].shares 2 = some (share0 0 [])) = true ∧
    out (exec (.launchShareComplete 0 2) { sharing (share0 0 []) with cores := (stored [{ store8 0x40 false false with launch := some (0, 3) }]).cores })
      (fun t => lookup t.dies[0].shares 2 = none) = true := by decide +kernel

theorem meets_RegionAndDomainCommands_rails :
    out (exec (.scrubPhaseDone 0) (let s := part0 { Partition.reset with phase := 2 } 1 [] []
      { s with host := { s.host with railFault := true } })) (fun t => t.partitions[0].phase = 2) = true := by decide +kernel

/-- REASSIGN and TRUNC for every stream of endpoint 9: two streams, one of another endpoint. -/
def streamsOf9 (l : List Nat) (q : CueStream) : State :=
  let s := streaming l none 1 .reset
  { s with
    dies := s.dies.set 0 { s.dies[0] with streams := [(2, q), (5, { stream2 with ustudy := 7 })] }
    host := { s.host with cplq := s.host.cplq.set 3 { CplQueue.reset with func := 1, head := 1, tail := 1 } } }

theorem meets_StreamsAndCheckpoints_all : performs (streamsOf9 [13, 0, 0, 0x8000000000000000, 8, 9] stream2) 13 = true ∧
    performs (streamsOf9 [14, 0, 0, 0x8000000000000000, 5, 9] stream2) 14 = true ∧
    out (exec (.reassign 0 0) (streamsOf9 [13, 0, 0, 0x8000000000000000, 8, 9] stream2)) (fun t => streamOf t (fun q => q.ustudy = 8) &&
      (match lookup t.dies[0].streams 5 with | some x => x.ustudy = 7 | none => false) && status t = (0, 4)) = true ∧
    out (exec (.trunc 0 0) (streamsOf9 [14, 0, 0, 0x8000000000000000, 5, 9] emitted2)) (fun t => streamOf t (fun q => q.cues = []) && status t = (0, 4)) = true ∧
    out (exec (.trunc 0 0) (streamsOf9 [14, 0, 0, 0x8000000000000000, 5, 9] stream2)) (fun t => streamOf t (fun q => q.cues.length = 1) && status t = (1, 4)) = true ∧
    out (exec (.trunc 0 0) (streamsOf9 [14, 0, 0, 0x8000000000000000, 5, 6] stream2)) (fun t => streamOf t (fun q => q.cues.length = 1) && status t = (0, 4)) = true := by
  decide +kernel

/-- A checkpoint asks a context of its partition that still runs to stop, and waits for it. -/
theorem meets_StreamsAndCheckpoints_asks :
    (let s := { checkpointing (some (ckpt0 (.draining 6))) [] [] 7 with cores := (core0 id id).cores }
     s.listedCores = [0] && s.inParts 1 1 && (s.askParts 1).partsStopped 1 = false &&
       out (exec (.checkpoint 0 0) s) (fun t => (t.core 0).pmreq.stop.getLsbD 0 && (match t.host.checkpoint with | some c => c.phase = .draining 6 | none => false))) = true ∧
    out (exec (.checkpoint 0 0) (checkpointing (some (ckpt0 (.draining 6))) [] [] 7)) (fun t => match t.host.transfers with
      | [x] => (match x.body with | .image 0 len stop => 0 < len && len ≤ 65280 && len ≤ stop | _ => false) | _ => false) = true := by decide +kernel

theorem meets_Links_pieces :
    out (exec (.durableAck 0 77) (checkpointing (some (ckpt0 .writing)) [] [{ tag := 77, link := 0, body := .image 0 65280 65281, src := 0 }] 6)) (fun t =>
      t.host.transfers.map (·.body) = [.image 65280 1 65281]) = true ∧
    out (exec (.flitReceive 3 5 6 ⟨1, 0, 0⟩ true) (linked { link9 with rxSeq := 6 } [] [])) (fun t => fourth t (fun l => l.rxSeq = 6)) = true ∧
    out (exec (.flitReceive 3 0 6 ⟨1, 0, 0⟩ true) (linked { link9 with rxSeq := 0xFFFF } [] [])) (fun t => fourth t (fun l => l.rxSeq = 0)) = true := by decide +kernel

end Sys2Proof.Tests
end

namespace Sys2Proof

/-!
### Every step keeps every memory in canonical form (O24)

A memory changes by a write, a filter, a clear or a reset only, and each of these keeps its canonical form. So each function of the
model that gives a state has one rule here, `Safe.memories.f`: from the memories of the state it is given, those of the state it
gives. A rule's proof follows the function's definition: `h.f.g` is a change after a change, `.ite` and `split` are its cases, `.foldl`
its repetitions. Outcomes, effects that may stop, and optional results have such rules under `Safe.next`, `Safe.ends`, `Safe.given`.
-/

open Machine

-- Theorems are elaborated in turn: a thread that waits for another holds the address space of its whole stack.
set_option Elab.async false

/-! ### Outcomes, effects and results that leave the memories in canonical form -/

/-- The state an outcome goes on in, where it goes on, has its memories in canonical form. -/
def Safe.next : Out → Prop
  | .next s => Safe.memories s
  | _ => True

/-- What an effect gives satisfies `P`; the state it halts with, where it halts, has its memories in canonical form. -/
def Safe.ends {α : Type} (P : α → Prop) : Except Stop α → Prop
  | .ok a => P a
  | .error (.halt s) => Safe.memories s
  | .error _ => True

theorem Safe.next.of {s : State} (h : Safe.memories s) : Safe.next (.next s) := h

theorem Safe.next.ite {p : Prop} [Decidable p] {a b : Out} (ha : Safe.next a) (hb : Safe.next b) : Safe.next (if p then a else b) := by
  split
  · exact ha
  · exact hb

theorem Safe.ends.ok {α : Type} {P : α → Prop} {a : α} (h : P a) : Safe.ends P (.ok a) := h

theorem Safe.ends.halt {α : Type} {P : α → Prop} {s : State} (h : Safe.memories s) : Safe.ends P (.error (.halt s)) := h

theorem Safe.ends.trap {α : Type} {P : α → Prop} {c : BitVec 8} {v : Word} : Safe.ends P (.error (.trap c v)) := trivial

theorem Safe.ends.guardFault {α : Type} {P : α → Prop} {g : Word} : Safe.ends P (.error (.guardFault g)) := trivial

theorem Safe.ends.again {α : Type} {P : α → Prop} {c : Bool} : Safe.ends P (.error (.again c)) := trivial

theorem Safe.ends.fire {α : Type} {P : α → Prop} {pa : Nat} : Safe.ends P (.error (.fire pa)) := trivial

theorem Safe.ends.blocked {α : Type} {P : α → Prop} : Safe.ends P Machine.blocked := trivial

theorem Safe.ends.ite {α : Type} {P : α → Prop} {p : Prop} [Decidable p] {a b : Except Stop α} (ha : Safe.ends P a) (hb : Safe.ends P b) :
    Safe.ends P (if p then a else b) := by
  split
  · exact ha
  · exact hb

/-- An effect after another: what the first gives is what the second starts from. -/
theorem Safe.ends.bind {α β : Type} {P : α → Prop} {Q : β → Prop} {x : Except Stop α} {f : α → Except Stop β} (hx : Safe.ends P x)
    (hf : ∀ a, P a → Safe.ends Q (f a)) : Safe.ends Q (x >>= f) := by
  match x with
  | .ok a => exact hf a hx
  | .error (.halt _) => exact hx
  | .error (.trap ..) => trivial
  | .error (.guardFault _) => trivial
  | .error (.again _) => trivial
  | .error (.fire _) => trivial

theorem Safe.ends.of_eq_ok {α : Type} {P : α → Prop} {x : Except Stop α} {a : α} (hx : Safe.ends P x) (e : x = .ok a) : P a := by
  subst e; exact hx

theorem Safe.ends.of_eq_halt {α : Type} {P : α → Prop} {x : Except Stop α} {s : State} (hx : Safe.ends P x) (e : x = .error (.halt s)) :
    Safe.memories s := by
  subst e; exact hx

/-! ### The parts of the state that hold memories -/

theorem forall_mem_insert {α : Type} {P : Nat × α → Prop} {l : List (Nat × α)} {n : Nat} {v : α} (hl : ∀ e ∈ l, P e) (hv : P (n, v)) :
    ∀ e ∈ Machine.insert l n v, P e := by
  induction l with
  | nil => simpa [Machine.insert] using hv
  | cons a t ih =>
    obtain ⟨ha, ht⟩ := List.forall_mem_cons.mp hl
    unfold Machine.insert
    split
    · exact List.forall_mem_cons.mpr ⟨hv, hl⟩
    split
    · exact List.forall_mem_cons.mpr ⟨hv, ht⟩
    · exact List.forall_mem_cons.mpr ⟨ha, ih ht⟩

theorem Safe.memories.setCore {s : State} {c : CoreId} {x : Core} (h : Safe.memories s) (hx : x.scratch.wf = true) :
    Safe.memories (s.setCore c x) := by
  obtain ⟨hmem, hcores, hrest⟩ := h
  exact ⟨hmem, forall_mem_insert hcores hx, hrest⟩

theorem Safe.memories.updScratch {s : State} {c : CoreId} {f : Core → Core} (h : Safe.memories s)
    (hf : ∀ q, q.scratch.wf = true → (f q).scratch.wf = true) : Safe.memories (s.updCore c f) :=
  h.setCore (hf _ (wf_scratch h c))

theorem Safe.memories.updCore {s : State} {c : CoreId} {f : Core → Core} (h : Safe.memories s)
    (hf : ∀ q, (f q).scratch = q.scratch := by intro _; rfl) : Safe.memories (s.updCore c f) :=
  h.updScratch fun q hq => by rw [hf]; exact hq

theorem Safe.memories.setTroupe {s : State} {t : TroupeId} {x : Troupe} (h : Safe.memories s) (hx : x.acc.wf = true) :
    Safe.memories (s.setTroupe t x) := by
  obtain ⟨hmem, hcores, htroupes, hrest⟩ := h
  exact ⟨hmem, hcores, forall_mem_insert htroupes hx, hrest⟩

theorem Safe.memories.updAcc {s : State} {t : TroupeId} {f : Troupe → Troupe} (h : Safe.memories s)
    (hf : ∀ x, x.acc.wf = true → (f x).acc.wf = true) : Safe.memories (s.updTroupe t f) :=
  h.setTroupe (hf _ (wf_acc h t))

theorem Safe.memories.updTroupe {s : State} {t : TroupeId} {f : Troupe → Troupe} (h : Safe.memories s)
    (hf : ∀ x, (f x).acc = x.acc := by intro _; rfl) : Safe.memories (s.updTroupe t f) :=
  h.updAcc fun x hx => by rw [hf]; exact hx

theorem Safe.memories.updSram {s : State} {d : DieId} {f : Die → Die} (h : Safe.memories s)
    (hf : ∀ x, x.sram.wf = true → (f x).sram.wf = true) : Safe.memories (s.updDie d f) := by
  obtain ⟨hmem, hcores, htroupes, hdies, harea⟩ := h
  refine ⟨hmem, hcores, htroupes, fun e => ?_, harea⟩
  by_cases hd : d = e
  · subst hd
    rw [die_updDie_same]
    exact hf _ (hdies d)
  · rw [die_updDie_ne s f hd]
    exact hdies e

theorem Safe.memories.updDie {s : State} {d : DieId} {f : Die → Die} (h : Safe.memories s)
    (hf : ∀ x, (f x).sram = x.sram := by intro _; rfl) : Safe.memories (s.updDie d f) :=
  h.updSram fun x hx => by rw [hf]; exact hx

theorem Safe.memories.updArea {s : State} {f : HostSide → HostSide} (h : Safe.memories s) (hf : ∀ x, x.area.wf = true →
    (f x).area.wf = true) :
    Safe.memories (s.updHost f) := by
  obtain ⟨hmem, hcores, htroupes, hdies, harea⟩ := h
  exact ⟨hmem, hcores, htroupes, hdies, hf _ harea⟩

theorem Safe.memories.updHost {s : State} {f : HostSide → HostSide} (h : Safe.memories s)
    (hf : ∀ x, (f x).area = x.area := by intro _; rfl) : Safe.memories (s.updHost f) :=
  h.updArea fun x hx => by rw [hf]; exact hx

/-- Every die's SRAM is in canonical form where each die's is. -/
theorem forall_dies_map {f : Die → Die} {v : Vector Die 4} (hv : ∀ d : DieId, v[d].sram.wf = true)
    (hf : ∀ x, x.sram.wf = true → (f x).sram.wf = true) (d : DieId) : (v.map f)[d].sram.wf = true := by
  have hd : (v.map f)[d] = f v[d] := Vector.getElem_map ..
  rw [hd]
  exact hf _ (hv d)

section

variable {clock fresh : Nat} {agenda : List Move} {turn : Turn} {poison : List Nat} {spoilt : List (DieId × Word)}
  {lines : List (Nat × LineMeta)} {frames : List (Nat × Frame)} {net : List Flight} {clusters : List (Nat × Cluster)}
  {regions unfolded : List (Nat × Nat)} {domains : List (Nat × Domain)} {partitions : Vector Partition 32}
  {published : List (Nat × BitVec 32)} {revoking : List (Nat × (CoreId × BitVec 32))} {vectors : List (Nat × IrqVector)}

/-- A new physical memory in canonical form; the other memories stand. -/
theorem Safe.memories.withMem {s : State} {mem : Memory} (h : Safe.memories s) (hm : mem.wf = true) :
    Safe.memories ⟨clock, agenda, turn, fresh, mem, poison, spoilt, lines, frames, net, s.cores, s.troupes, clusters, s.dies, regions,
      unfolded, domains, partitions, published, revoking, vectors, s.host⟩ := by
  obtain ⟨_, hrest⟩ := h
  exact ⟨hm, hrest⟩

theorem Safe.memories.writeMem {s : State} {a : Nat} {bs : List Byte} (h : Safe.memories s) :
    Safe.memories ⟨clock, agenda, turn, fresh, s.mem.writeL a bs, poison, spoilt, lines, frames, net, s.cores, s.troupes, clusters,
      s.dies, regions, unfolded, domains, partitions, published, revoking, vectors, s.host⟩ :=
  h.withMem (Memory.wf_writeL bs h.1 a)

theorem Safe.memories.mapCores {s : State} {f : Nat × Core → Nat × Core} (h : Safe.memories s)
    (hf : ∀ e, e.2.scratch.wf = true → (f e).2.scratch.wf = true) :
    Safe.memories ⟨clock, agenda, turn, fresh, s.mem, poison, spoilt, lines, frames, net, s.cores.map f, s.troupes, clusters, s.dies,
      regions, unfolded, domains, partitions, published, revoking, vectors, s.host⟩ := by
  obtain ⟨hmem, hcores, hrest⟩ := h
  exact ⟨hmem, List.forall_mem_map.mpr fun e he => hf e (hcores e he), hrest⟩

theorem Safe.memories.mapTroupes {s : State} {f : Nat × Troupe → Nat × Troupe} (h : Safe.memories s)
    (hf : ∀ e, e.2.acc.wf = true → (f e).2.acc.wf = true) :
    Safe.memories ⟨clock, agenda, turn, fresh, s.mem, poison, spoilt, lines, frames, net, s.cores, s.troupes.map f, clusters, s.dies,
      regions, unfolded, domains, partitions, published, revoking, vectors, s.host⟩ := by
  obtain ⟨hmem, hcores, htroupes, hrest⟩ := h
  exact ⟨hmem, hcores, List.forall_mem_map.mpr fun e he => hf e (htroupes e he), hrest⟩

theorem Safe.memories.mapDies {s : State} {f : Die → Die} (h : Safe.memories s)
    (hf : ∀ x, x.sram.wf = true → (f x).sram.wf = true) :
    Safe.memories ⟨clock, agenda, turn, fresh, s.mem, poison, spoilt, lines, frames, net, s.cores, s.troupes, clusters, s.dies.map f,
      regions, unfolded, domains, partitions, published, revoking, vectors, s.host⟩ := by
  obtain ⟨hmem, hcores, htroupes, hdies, harea⟩ := h
  exact ⟨hmem, hcores, htroupes, forall_dies_map hdies hf, harea⟩

/-- What holds no memory may change. -/
theorem Safe.memories.other {s : State} (h : Safe.memories s) :
    Safe.memories ⟨clock, agenda, turn, fresh, s.mem, poison, spoilt, lines, frames, net, s.cores, s.troupes, clusters, s.dies, regions,
      unfolded, domains, partitions, published, revoking, vectors, s.host⟩ := h

end

theorem Safe.memories.setCluster {s : State} {c : ClusterId} {x : Cluster} (h : Safe.memories s) :
    Safe.memories (s.setCluster c x) := h.other

theorem Safe.memories.updCluster {s : State} {c : ClusterId} {f : Cluster → Cluster} (h : Safe.memories s) :
    Safe.memories (s.updCluster c f) := h.setCluster

theorem Safe.memories.setCtx {s : State} {c : CoreId} {k : BankId} {x : Context} (h : Safe.memories s) :
    Safe.memories (s.setCtx c k x) := h.updCore

theorem Safe.memories.updCtx {s : State} {c : CoreId} {k : BankId} {f : Context → Context} (h : Safe.memories s) :
    Safe.memories (s.updCtx c k f) := h.setCtx

theorem Safe.memories.updMe {s : State} {f : Context → Context} (h : Safe.memories s) : Safe.memories (s.updMe f) := h.updCtx

theorem Safe.memories.updRegs {s : State} {f : Regs → Regs} (h : Safe.memories s) : Safe.memories (s.updRegs f) := h.updMe

theorem Safe.memories.updDom {s : State} {c : CoreId} {t : Tag} {f : DomState → DomState} (h : Safe.memories s) :
    Safe.memories (s.updDom c t f) := h.updCore

theorem Safe.memories.onBank {s : State} {c : CoreId} {b : BankId} (h : Safe.memories s) : Safe.memories (s.onBank c b) := h.other

theorem Safe.memories.send {s : State} {f : Flight} (h : Safe.memories s) : Safe.memories (s.send f) :=
  h.other

/-! ### Results in parts -/

theorem Safe.memories.ite {p : Prop} [Decidable p] {a b : State} (ha : Safe.memories a) (hb : Safe.memories b) :
    Safe.memories (if p then a else b) := by
  split
  · exact ha
  · exact hb

/-- One more change, under a condition. -/
theorem Safe.memories.andThen {p : Prop} [Decidable p] {a b : State} (ha : Safe.memories a) (hb : Safe.memories a → Safe.memories b) :
    Safe.memories (if p then b else a) := .ite (hb ha) ha

/-- One more change, unless a condition holds. -/
theorem Safe.memories.orElse {p : Prop} [Decidable p] {a b : State} (ha : Safe.memories a) (hb : Safe.memories a → Safe.memories b) :
    Safe.memories (if p then a else b) := .ite ha (hb ha)

theorem Safe.memories.dite {p : Prop} [Decidable p] {a : p → State} {b : ¬p → State} (ha : ∀ x, Safe.memories (a x))
    (hb : ∀ x, Safe.memories (b x)) : Safe.memories (if x : p then a x else b x) := by
  split
  · exact ha _
  · exact hb _

theorem Safe.memories.fst {β : Type} {r : State × β} {t : State} {x : β} (h : Safe.memories r.1) (e : r = (t, x)) : Safe.memories t := by
  subst e; exact h

theorem Safe.memories.foldl {α : Type} {s : State} {f : State → α → State} {l : List α} (h : Safe.memories s)
    (hf : ∀ t x, Safe.memories t → Safe.memories (f t x)) : Safe.memories (l.foldl f s) := by
  induction l generalizing s with
  | nil => exact h
  | cons x l ih => exact ih (hf s x h)

theorem Safe.memories.foldr {α : Type} {s : State} {f : α → State → State} {l : List α} (h : Safe.memories s)
    (hf : ∀ x t, Safe.memories t → Safe.memories (f x t)) : Safe.memories (l.foldr f s) := by
  induction l with
  | nil => exact h
  | cons x l ih => exact hf x _ ih

theorem Safe.memories.foldl_fst {α β : Type} {r : State × β} {f : State × β → α → State × β} {l : List α} (h : Safe.memories r.1)
    (hf : ∀ r x, Safe.memories r.1 → Safe.memories (f r x).1) : Safe.memories (l.foldl f r).1 := by
  induction l generalizing r with
  | nil => exact h
  | cons x l ih => exact ih (hf r x h)

/-! ### Results chosen by a condition, effects in sequence, optional results -/

theorem Safe.memories.ite_fst {β : Type} {p : Prop} [Decidable p] {a b : State × β} (ha : Safe.memories a.1) (hb : Safe.memories b.1) :
    Safe.memories (if p then a else b).1 := by
  split
  · exact ha
  · exact hb

theorem Safe.ends.dite {α : Type} {P : α → Prop} {p : Prop} [Decidable p] {a : p → Except Stop α} {b : ¬p → Except Stop α}
    (ha : ∀ x, Safe.ends P (a x)) (hb : ∀ x, Safe.ends P (b x)) : Safe.ends P (if x : p then a x else b x) := by
  split
  · exact ha _
  · exact hb _

/-- An effect after a check. -/
theorem Safe.ends.check {α β : Type} {Q : β → Prop} {x : Except Stop α} {f : α → Except Stop β} (hx : Safe.ends (fun _ => True) x)
    (hf : ∀ a, Safe.ends Q (f a)) : Safe.ends Q (x >>= f) := hx.bind fun a _ => hf a

/-- An effect after a change of the state. -/
theorem Safe.ends.andThen {β : Type} {Q : β → Prop} {x : Except Stop State} {f : State → Except Stop β}
    (hx : Safe.ends Safe.memories x) (hf : ∀ t, Safe.memories t → Safe.ends Q (f t)) : Safe.ends Q (x >>= f) := hx.bind hf

/-- An effect after a change of the state that also answers. -/
theorem Safe.ends.andThenFst {α β : Type} {Q : β → Prop} {x : Except Stop (State × α)} {f : State × α → Except Stop β}
    (hx : Safe.ends (fun r => Safe.memories r.1) x) (hf : ∀ t a, Safe.memories t → Safe.ends Q (f (t, a))) : Safe.ends Q (x >>= f) :=
  hx.bind fun r hr => hf r.1 r.2 hr

/-- What ends an effect ends a larger one. -/
theorem Safe.ends.of_eq_error {α β : Type} {P : α → Prop} {Q : β → Prop} {x : Except Stop α} {e : Stop} (hx : Safe.ends P x)
    (he : x = .error e) : Safe.ends Q (.error e) := by
  subst he
  match e with
  | .halt _ => exact hx
  | .trap .. => trivial
  | .guardFault _ => trivial
  | .again _ => trivial
  | .fire _ => trivial

/-- What a list of checks ends with, where it does not go on. -/
theorem Safe.ends.mapM {α β : Type} {f : α → Except Stop β} {l : List α} (hf : ∀ x, Safe.ends (fun _ => True) (f x)) :
    Safe.ends (fun _ => True) (l.mapM f) := by
  induction l with
  | nil => trivial
  | cons x l ih =>
    rw [List.mapM_cons]
    exact .check (hf x) fun _ => .check ih fun _ => trivial

/-- What an optional result holds, where it holds something, satisfies `P`. -/
def Safe.given {α : Type} (P : α → Prop) : Option α → Prop
  | some a => P a
  | none => True

theorem Safe.given.some {α : Type} {P : α → Prop} {a : α} (h : P a) : Safe.given P (some a) := h

theorem Safe.given.none {α : Type} {P : α → Prop} : Safe.given P none := trivial

theorem Safe.given.ite {α : Type} {P : α → Prop} {p : Prop} [Decidable p] {a b : Option α} (ha : Safe.given P a) (hb : Safe.given P b) :
    Safe.given P (if p then a else b) := by
  split
  · exact ha
  · exact hb

theorem Safe.given.dite {α : Type} {P : α → Prop} {p : Prop} [Decidable p] {a : p → Option α} {b : ¬p → Option α}
    (ha : ∀ x, Safe.given P (a x)) (hb : ∀ x, Safe.given P (b x)) : Safe.given P (if x : p then a x else b x) := by
  split
  · exact ha _
  · exact hb _

theorem Safe.given.of_eq_some {α : Type} {P : α → Prop} {o : Option α} {a : α} (ho : Safe.given P o) (e : o = Option.some a) : P a := by
  subst e; exact ho

theorem Safe.given.map {α β : Type} {Q : β → Prop} {o : Option α} {f : α → β} (hf : ∀ a, o = Option.some a → Q (f a)) : Safe.given Q
    (o.map f) := by
  cases o with
  | none => trivial
  | some a => exact hf a rfl

theorem Safe.memories.getD {o : Option State} {s : State} (h : Safe.memories s) (ho : Safe.given Safe.memories o) :
    Safe.memories (o.getD s) := by
  cases o with
  | none => exact h
  | some t => exact ho

/-! ### What the cores, troupes and dies do leaves their memories in canonical form -/

theorem Machine.Core.nextEntry_wf {q r : Core} {m : MEntry} (h : q.scratch.wf = true) (e : q.nextEntry = some
    (m, r)) : r.scratch.wf = true := by
  unfold Core.nextEntry at e
  dsimp only at e
  split at e
  · cases e
  · cases e; exact h
  · cases e; exact h
  · split at e <;> (cases e; exact h)

theorem Machine.Core.entryDue_wf {q r : Core} {m : MEntry} (h : q.scratch.wf = true) (e : q.entryDue = some
    (m, r)) : r.scratch.wf = true := by
  unfold Core.entryDue at e
  split at e
  · split at e <;> cases e
    exact h
  · exact Core.nextEntry_wf h e

theorem Machine.Core.writeEinjc_wf {q r : Core} {x : Word} (h : q.scratch.wf = true)
    (e : q.writeEinjc x = some r) : r.scratch.wf = true := by
  unfold Core.writeEinjc at e
  dsimp only at e
  split at e <;> cases e
  exact h

theorem Machine.Core.installWindow_scratch (q : Core) (w : Window) : (q.installWindow w).scratch = q.scratch := by
  unfold Core.installWindow
  split <;> rfl

theorem Machine.Core.installPlan_scratch (q : Core) (t : Tag) (plan : List Window) : (q.installPlan t plan).scratch = q.scratch := by
  unfold Core.installPlan
  generalize hr : ({ q with windows := q.windows.map (fun w => if w.dtag = t then .reset else w) } : Core) = r
  have hq : r.scratch = q.scratch := by subst hr; rfl
  clear hr
  induction plan generalizing r with
  | nil => exact hq
  | cons w plan ih => exact ih _ ((Core.installWindow_scratch r w).trans hq)

theorem Machine.Troupe.freeHandle_acc (t : Troupe) (h : Option (Fin 32)) (taken : Bool) : (t.freeHandle h taken).acc = t.acc := by
  unfold Troupe.freeHandle
  split
  · split <;> rfl
  · rfl

theorem Machine.Troupe.dropRequest_acc (t : Troupe) : t.dropRequest.acc = t.acc := by
  unfold Troupe.dropRequest
  split <;> rfl

/-- A fold over jobs that leaves the accumulator memory at each one leaves it. -/
theorem foldl_acc {α : Type} {f : Troupe → α → Troupe} (hf : ∀ t e, (f t e).acc = t.acc) (l : List α) (t : Troupe) :
    (l.foldl f t).acc = t.acc := by
  induction l generalizing t with
  | nil => rfl
  | cons e l ih => exact (ih (f t e)).trans (hf t e)

theorem Machine.Troupe.killJobs_acc (t : Troupe) (p : JobOwner → Bool) : (t.killJobs p).acc = t.acc := by
  unfold Troupe.killJobs
  rw [Troupe.dropRequest_acc]
  refine (foldl_acc (fun t e => ?_) _ _).trans (foldl_acc (fun t e => ?_) _ _)
  · split
    · exact Troupe.freeHandle_acc ..
    · rfl
  · split
    · cases e.work with
      | mma => exact Troupe.freeHandle_acc ..
      | _ => rfl
    · rfl

theorem Machine.Troupe.setHandle_acc (t : Troupe) (h : Option (Fin 32)) (st : HandleState) (tag : Tag) :
    (t.setHandle h st tag).acc = t.acc := by
  unfold Troupe.setHandle
  split <;> rfl

theorem Machine.Troupe.asks_acc (t : Troupe) (clock : Nat) : (t.asks clock).acc = t.acc := by
  unfold Troupe.asks
  split
  · rfl
  · exact Troupe.dropRequest_acc t

theorem Machine.Troupe.rest_acc (t : Troupe) (clock : Nat) : (t.rest clock).acc = t.acc := by
  unfold Troupe.rest
  split <;> rfl

theorem Machine.Troupe.govern_acc (t : Troupe) (clock thr : Nat) : (t.govern clock thr).acc = t.acc := by
  unfold Troupe.govern
  dsimp only
  rw [Troupe.asks_acc, Troupe.rest_acc]
  split
  · split
    · rfl
    · split <;> rfl
  · rfl

/-- A fold over tiles keeps an accumulator memory in canonical form where each tile does. -/
theorem foldl_acc_wf {α : Type} {f : Troupe → α → Troupe} (hf : ∀ t e, t.acc.wf = true → (f t e).acc.wf = true) (l : List α) {t : Troupe}
    (ht : t.acc.wf = true) : (l.foldl f t).acc.wf = true := by
  induction l generalizing t with
  | nil => exact ht
  | cons e l ih => exact ih (hf t e ht)

theorem Machine.Troupe.scrub_wf {t : Troupe} (h : t.acc.wf = true) (tags : List Tag) : (t.scrub tags).acc.wf = true := by
  unfold Troupe.scrub
  dsimp only
  refine foldl_acc_wf (fun t i ht => ?_) _ h
  split
  · exact Memory.wf_clear ht _ _
  · exact ht

theorem Machine.Troupe.restoreFrom_wf {t : Troupe} (h : t.acc.wf = true) (u : Troupe) : (t.restoreFrom u).acc.wf = true := by
  unfold Troupe.restoreFrom
  dsimp only
  refine foldl_acc_wf (fun t i ht => ?_) _ h
  split
  · generalize u.acc.readN (16384 * i.val) 16384 = bs
    exact Memory.wf_writeL bs (Memory.wf_clear ht _ _) _
  · exact ht

theorem Machine.Memory.wf_restoreFrom {m : Memory} (h : m.wf = true) (img : Memory) (hit : Nat → Bool) :
    (m.restoreFrom img hit).wf = true := by
  unfold Memory.restoreFrom
  have hm : Memory.wf (m.filter fun b => !hit b.1) = true := Memory.wf_filter h _
  generalize m.filter (fun b => !hit b.1) = m' at hm
  induction img.filter (fun b => hit b.1) generalizing m' with
  | nil => exact hm
  | cons b l ih => exact ih _ (Memory.wf_writeL _ hm _)

theorem Machine.Die.learn_sram (d : Die) (published : List (Nat × List Nat)) : (d.learn published).sram = d.sram := by
  unfold Die.learn
  split
  · split <;> rfl
  · rfl

/-! ### Physical memory, records, interrupts (R222, R306, R329) -/

theorem wf_rekeyed {old : Option LineMeta} {new : LineMeta} {line : Nat} {m : Memory} (h : m.wf = true) :
    (rekeyed old new line m).wf = true := by
  unfold rekeyed
  split
  · exact h
  split
  · exact h
  · exact Memory.wf_writeL _ h _

theorem Safe.memories.touchLine {s : State} {key : Option EngineKey} {line : Nat} (h : Safe.memories s) :
    Safe.memories (s.touchLine key line) := by
  unfold State.touchLine
  exact .ite (h.withMem (wf_rekeyed h.1)) h

theorem Safe.memories.writePhys {s : State} {pa : Nat} {bs : List Byte} {prot : Option Tag} (h : Safe.memories s) :
    Safe.memories (s.writePhys pa bs prot) := .ite h (.writeMem (.foldl h fun _ _ h => h.touchLine))

theorem Safe.memories.setVector {s : State} {fn : FuncId} {v : Fin 64} {x : IrqVector} (h : Safe.memories s) :
    Safe.memories (s.setVector fn v x) := h.other

theorem Safe.memories.raise {s : State} {fn : FuncId} {v : Fin 64} (h : Safe.memories s) : Safe.memories (s.raise fn v) := h.setVector

theorem Safe.memories.log {s : State} {die : DieId} {r : Rec} (h : Safe.memories s) : Safe.memories (s.log die r) := by
  unfold State.log
  exact .ite h.updDie.raise h.updDie

theorem Safe.memories.inject {s : State} {pa n : Nat} (h : Safe.memories s) : Safe.memories (s.inject pa n).1 := by
  unfold State.inject
  split
  · exact h
  dsimp only
  split
  · exact h.updCore.log.other
  · exact h.updCore.log.other
  · exact h.updCore

theorem Safe.memories.readLines {s : State} {pa n : Nat} (h : Safe.memories s) : Safe.memories (s.readLines pa n) :=
  h.foldl fun _ _ h => h.inject

theorem Safe.memories.setSlot {s : State} {pa k : Nat} {w : Word} (h : Safe.memories s) : Safe.memories (s.setSlot pa k w) := h.writePhys

theorem Safe.memories.readRegion {s : State} {r : BitVec 32} (h : Safe.memories s) : Safe.memories (s.readRegion r) := by
  unfold State.readRegion
  split
  · exact h.foldl fun _ _ h => h.readLines
  · exact h

theorem Safe.memories.updLink {s : State} {k : Fin 16} {f : Link → Link} (h : Safe.memories s) : Safe.memories (s.updLink k f) :=
    h.updHost

theorem Safe.memories.updHbm {s : State} {k : Fin 12} {f : Hbm → Hbm} (h : Safe.memories s) : Safe.memories (s.updHbm k f) := h.updHost

theorem Safe.memories.updPower {s : State} {f : Power → Power} (h : Safe.memories s) : Safe.memories (s.updPower f) := h.updHost

theorem Safe.memories.updBoot {s : State} {f : Boot → Boot} (h : Safe.memories s) : Safe.memories (s.updBoot f) :=
  h.updHost

/-! ### Links (R332, R345) -/

theorem Safe.memories.loseStream {s : State} {d : DieId} {slot : Nat} (h : Safe.memories s) :
    Safe.memories (s.loseStream d slot) := by
  unfold State.loseStream
  split
  · exact .ite h h.updDie.log
  · exact h

theorem Safe.memories.loseStreams {s : State} (h : Safe.memories s) : Safe.memories s.loseStreams :=
  h.foldl fun _ _ h => h.foldl fun _ _ h => h.loseStream

theorem Safe.memories.takeLinkDown {s : State} {k : Fin 16} {fail : Bool} (h : Safe.memories s) :
    Safe.memories (s.takeLinkDown k fail) := by
  unfold State.takeLinkDown
  refine .andThen (.updLink (.foldl h.updHost fun s t h => ?_)) fun h => h.loseStreams
  split
  · exact h.updLink
  · exact h

theorem Safe.memories.linkGo {s : State} {k : Fin 16} (h : Safe.memories s) : Safe.memories (s.linkGo k) := h.updLink

theorem Safe.memories.autoTrain {s : State} {k : Fin 16} (h : Safe.memories s) : Safe.memories (s.autoTrain k) := .ite h h.updLink

theorem Safe.memories.linkHold {s : State} {k : Fin 16} {on : Bool} (h : Safe.memories s) : Safe.memories (s.linkHold k on) :=
  .orElse (Safe.memories.andThen h fun h => h.takeLinkDown).updLink fun h => h.autoTrain

theorem Safe.memories.linkWrite {s : State} {k : Fin 16} {w : Word} (h : Safe.memories s) : Safe.memories (s.linkWrite k w) :=
  .andThen (.andThen h.updLink fun h => h.linkHold) fun h => h.linkGo

/-! ### Power, clusters, device registers (R237, R348, R351) -/

theorem Safe.memories.regate {s : State} (h : Safe.memories s) : Safe.memories s.regate := h.foldl fun _ _ h => .ite h h.other

theorem Safe.memories.gateWrite {s : State} {d : DieId} {w : BitVec 32} (h : Safe.memories s) : Safe.memories (s.gateWrite d w) :=
  Safe.memories.regate (h.foldl fun _ _ h => h.updCluster.updPower)

theorem Safe.memories.wakeCluster {s : State} {c : ClusterId} (h : Safe.memories s) : Safe.memories (s.wakeCluster c) :=
  .ite h.updCluster.updPower.regate h

theorem Safe.memories.whenAwake {s : State} {c : ClusterId} {f : State → State} (h : Safe.memories s)
    (hf : ∀ t, Safe.memories t → Safe.memories (f t)) :
    Safe.memories (s.whenAwake c f) := .ite h.wakeCluster (.ite h (hf s h))

theorem Safe.memories.powerWrite {s : State} {off : Nat} {w : Word} (h : Safe.memories s) : Safe.memories (s.powerWrite off w) := by
  unfold State.powerWrite
  split
  · exact .ite h.updPower h
  · exact .ite h.updPower h
  · exact .dite (fun _ => h.gateWrite) fun _ => h

theorem Safe.memories.devWrite {s : State} {pa : Nat} {w : Word} (h : Safe.memories s) : Safe.memories (s.devWrite pa w) :=
  .dite (fun _ => h.updDie) fun _ => .dite (fun _ => .ite h.linkWrite h) fun _ => .ite h.powerWrite h

/-! ### Messages (R175 to R186) -/

theorem Safe.memories.credit {s : State} {credit : Option CoreId} (h : Safe.memories s) : Safe.memories (s.credit credit) := by
  unfold State.credit
  split
  · exact h.updCore
  · exact h

theorem Safe.memories.sendBack {s : State} {credit : Option CoreId} {m : Message} {perm : Bool} (h : Safe.memories s) :
    Safe.memories (s.sendBack credit m perm) := h.send

theorem Safe.memories.withdraw {s : State} {c : CoreId} {m : Message} (h : Safe.memories s) : Safe.memories (s.withdraw c m) :=
  .ite h (.ite h.updDom h.sendBack)

theorem Safe.memories.withdrawIf {s : State} {c : CoreId} {p : Message → Bool} (h : Safe.memories s) :
    Safe.memories (s.withdrawIf c p) :=
  h.updCore.foldl fun _ _ h => h.withdraw

/-! ### Writes of a place, store buffers, undo logs (R86, R90) -/

theorem Safe.memories.writePlace {s : State} {who : Option Tag} {prot : Bool} {p : Place} {bs : List Byte} (h : Safe.memories s) :
    Safe.memories (s.writePlace who prot p bs) := by
  unfold State.writePlace
  split
  · split
    · split
      · exact h.updCluster
      · exact .ite h.devWrite h
    · exact h.writePhys
  · exact h.updScratch fun _ hq => Memory.wf_writeL _ hq _
  · exact h.updAcc fun _ hx => Memory.wf_writeL _ hx _

theorem Safe.memories.perform {s : State} {st : Store} (h : Safe.memories s) : Safe.memories (s.perform st) := h.writePlace

theorem Safe.memories.drain {s : State} {c : CoreId} {k : BankId} (h : Safe.memories s) : Safe.memories (s.drain c k) :=
  h.updCtx.foldl fun _ _ h => h.perform

theorem Safe.memories.undo {s : State} {c : CoreId} {k : BankId} (h : Safe.memories s) : Safe.memories (s.undo c k) :=
  h.updCtx.foldr fun _ _ h => h.updScratch fun _ hq => Memory.wf_writeL _ hq _

theorem Safe.memories.disband {s : State} {c : CoreId} {k : BankId} {reason : BitVec 4} {cause : BitVec 8} (h : Safe.memories s) :
    Safe.memories (s.disband c k reason cause) :=
  h.foldl fun _ _ h => h.updCtx

/-! ### Gates, frames, kills, rollbacks (R199 to R213, R289, R300 to R304) -/

theorem Safe.memories.revokeNotice {s : State} {t : Tag} {idx : Nat} (h : Safe.memories s) :
    Safe.memories (s.revokeNotice t idx) := by
  unfold State.revokeNotice
  have hr : Safe.memories (match s.gateEntry t idx with | some a => s.readLines a 64 | none => s) := by
    split
    · exact h.readLines
    · exact h
  dsimp only
  split
  · exact .ite hr.other hr
  · exact hr

theorem Safe.memories.leaveGate {s : State} {t : Tag} {idx : Nat} (h : Safe.memories s) : Safe.memories (s.leaveGate t idx) := by
  unfold State.leaveGate
  split
  · exact h.readLines.setSlot.revokeNotice
  · exact h

theorem Safe.memories.orphan {s : State} {c : CoreId} {k : CtxId} {e : DomEntry} (h : Safe.memories s) :
    Safe.memories (s.orphan c k e) := h.send

theorem Safe.memories.launchEnded {s : State} {l : Option (DieId × Nat)} (h : Safe.memories s) :
    Safe.memories (s.launchEnded l) := by
  unfold State.launchEnded
  split
  · refine h.updDie fun x => ?_
    split <;> rfl
  · exact h

theorem Safe.memories.endKilled {s : State} {c : CoreId} {k : CtxId} (h : Safe.memories s) : Safe.memories (s.endKilled c k) :=
  .ite h.drain.undo.launchEnded.updCtx h.drain.updCtx

theorem Safe.memories.killCtx {s : State} {c : CoreId} {k : CtxId} (h : Safe.memories s) : Safe.memories (s.killCtx c k) :=
  .ite h (.endKilled (.foldl (.andThen h fun h => h.disband) fun _ _ h => h.leaveGate.orphan))

theorem Safe.memories.dropFrames {s : State} {p : Frame → Bool} (h : Safe.memories s) : Safe.memories (s.dropFrames p) := by
  unfold State.dropFrames
  refine .foldl h.other fun s e h => ?_
  have hl : Safe.memories (match e.2.entry with
      | some d => (s.leaveGate d.callee d.gate.toNat).orphan e.2.core e.2.ctx d
      | none => s) := by
    split
    · exact h.leaveGate.orphan
    · exact h
  exact .ite hl (.ite hl.launchEnded.updCtx hl.launchEnded)

theorem Safe.memories.dropRefusals {s : State} {c : CoreId} {p : Message → Bool} (h : Safe.memories s) :
    Safe.memories (s.dropRefusals c p) := h.updCore.foldl fun _ _ h => h.credit

theorem Safe.memories.killRegions {s : State} {rs : List Nat} (h : Safe.memories s) : Safe.memories (s.killRegions rs) := by
  unfold State.killRegions
  refine .foldl (.foldl (.foldl (.dropFrames (.foldl h fun s r h => ?_)) fun _ _ h => h.killCtx) fun _ _ h =>
    h.withdrawIf.dropRefusals.updCore) fun _ _ h => h.updTroupe fun _ => Troupe.killJobs_acc ..
  split
  · exact h.setSlot
  · exact h

theorem Safe.memories.killFaultDomain {s : State} {r : BitVec 32} (h : Safe.memories s) : Safe.memories (s.killFaultDomain r) :=
  h.killRegions

theorem Safe.memories.follow {s : State} {c : CoreId} {k : CtxId} (h : Safe.memories s) : Safe.memories (s.follow c k) := .ite h.updCore h

theorem Safe.memories.leaveM {s : State} {c : CoreId} (h : Safe.memories s) : Safe.memories (s.leaveM c) := by
  unfold State.leaveM
  dsimp only
  split
  · exact h.updCore.updCtx
  · exact h.updCore

theorem Safe.memories.unwind {s : State} {c : CoreId} {k : CtxId} {depth : Nat} {status : Nat} (h : Safe.memories s) :
    Safe.memories (s.unwind c k depth status) := .follow (.updCtx (.foldl (.andThen h fun h => h.disband) fun _ _ h => h.leaveGate))

theorem Safe.memories.killDomain {s : State} {t : Tag} (h : Safe.memories s) : Safe.memories (s.killDomain t) := by
  unfold State.killDomain
  refine .foldl (.foldl (.foldl (.foldl (.dropFrames (.other ?_)) fun _ _ h => h.killCtx) fun _ _ h => h.unwind) fun _ _ h =>
    h.withdrawIf.dropRefusals.updCore) fun _ _ h => h.updTroupe fun _ => Troupe.killJobs_acc ..
  split
  · exact h.other
  · exact h

theorem Safe.memories.queueEntry {s : State} {c : CoreId} {e : MEntry} (h : Safe.memories s) : Safe.memories (s.queueEntry c e) :=
  h.updCore

theorem Safe.memories.monitorFault {s : State} {c : CoreId} (h : Safe.memories s) : Safe.memories (s.monitorFault c) := h.updCore.log

/-! ### Integrity violations and rollback (R91, R303) -/

theorem Safe.memories.integrity {s : State} {die : DieId} {core : Option CoreId} {ctx : Nat} {t : Tag} {r : BitVec 32} {line : Nat}
    {pc : Word} {injected : Bool} (h : Safe.memories s) :
    Safe.memories (s.integrity die core ctx t r line pc injected) := by
  unfold State.integrity
  exact (h.killFaultDomain.andThen fun ht => ht.other).log

theorem Safe.memories.ctxIntegrity {s : State} {c : CoreId} {k : CtxId} {line : Nat} {injected : Bool} (h : Safe.memories s) :
    Safe.memories (s.ctxIntegrity c k line injected) := h.integrity.queueEntry

theorem Safe.memories.redeliver {s : State} {c : CoreId} {i : Item} (h : Safe.memories s) : Safe.memories (s.redeliver c i) := by
  unfold State.redeliver
  exact .ite h.withdraw h.updCore

theorem Safe.memories.rollbackCtx {s : State} {c : CoreId} {k : CtxId} {cause : Nat} (h : Safe.memories s) :
    Safe.memories (s.rollbackCtx c k cause) := by
  unfold State.rollbackCtx
  dsimp only
  split
  · exact h.ctxIntegrity
  · split
    · refine .log (.ite ?_ (.follow (.updCtx (.undo (.drain (.ite h.disband h))))))
      split
      · exact .redeliver (.updCtx (.undo (.drain (.ite h.disband h))))
      · exact .updCtx (.undo (.drain (.ite h.disband h)))
    · exact .log (.killFaultDomain (.ite h.disband h))

theorem Safe.memories.uncorrKilled {s : State} {p : Place} (h : Safe.memories s) : Safe.memories (s.uncorrKilled p) := by
  unfold State.uncorrKilled
  dsimp only
  split
  · exact .ite (h.updDie.andThen fun ht => ht.raise) h
  · exact h

theorem Safe.memories.rollbackEvent {s : State} {c : CoreId} {k : CtxId} {val : Word} (h : Safe.memories s) :
    Safe.memories (s.rollbackEvent c k val) := by
  unfold State.rollbackEvent
  exact h.rollbackCtx.orElse fun ht => ht.queueEntry

theorem Safe.memories.consumePoison {s : State} {c : CoreId} {k : CtxId} {p : Place} {pa : Nat} (h : Safe.memories s) :
    Safe.memories (s.consumePoison c k p pa) := by
  unfold State.consumePoison
  exact .ite h.updCtx (.rollbackEvent (.ite h h.uncorrKilled))

/-! ### The checks of an access (R84, R85) -/

theorem Safe.memories.checkSpace {s : State} {addr size : Nat} {kind : Kind} (h : Safe.memories s) :
    Safe.ends (fun _ => True) (s.checkSpace addr size kind) := by
  unfold State.checkSpace
  refine .ite (.ite (.ite .trap (.ok trivial)) ?_) (.ite .trap (.dite (fun _ => .ite (.ok trivial) .trap) fun _ => .ite (.ite
    (.ok trivial) .trap) (.ite ?_ (.ite (.ite .trap (.ite (.ok trivial) .trap)) .trap))))
  · split
    · exact .trap
    · exact .fire
    · exact .halt h.ctxIntegrity
    · exact .halt h.consumePoison
    · exact .ite .trap (.ite .trap (.ite .trap (.ite .trap (.ok trivial))))
  · split
    · exact .ite (.ite (.ok trivial) .trap) .trap
    · exact .trap

theorem Safe.memories.checkAccess {s : State} {addr size : Nat} {kind : Kind} (h : Safe.memories s) :
    Safe.ends (fun _ => True) (s.checkAccess addr size kind) := by
  unfold State.checkAccess
  exact .ite .trap h.checkSpace

/-! ### Guard granules (R227, R228) -/

theorem Safe.memories.guardTouch {s : State} {l : Loc} {i : Nat} {write : Bool} (h : Safe.memories s) :
    Safe.memories (s.guardTouch l i write) := by
  unfold State.guardTouch
  split
  · exact h.updRegs
  · exact h

/-! ### Reads of a place -/

theorem Safe.memories.fireWalk {s : State} {pa : Nat} (h : Safe.memories s) : Safe.memories (s.fireWalk pa).1 := h.inject

/-! ### Registers (R14) -/

theorem Safe.memories.writeG {s : State} {d : GReg} {x : Word} (h : Safe.memories s) : Safe.memories (s.writeG d x) := by
  unfold State.writeG
  split
  · exact h.updRegs
  · split
    · exact h.updCore
    · exact h

/-! ### Traps (R26, R204) -/

theorem Safe.memories.takeTrap {s : State} {cause : BitVec 8} {value : Word} (h : Safe.memories s) :
    Safe.memories (s.takeTrap cause value) := by
  unfold State.takeTrap
  refine .ite h.monitorFault (.ite h.updMe (.ite ?_ (h.updMe.andThen fun ht => ht.disband).updMe))
  split
  · exact h.updMe.killFaultDomain
  · exact h.updMe.unwind.log

/-! ### Blocking and commit points (R176, R370) -/

theorem Safe.memories.block {s : State} {w : Wait} (h : Safe.memories s) : Safe.memories (s.block w) := h.updMe

theorem Safe.memories.noRestore {s : State} (h : Safe.memories s) : Safe.memories s.noRestore := h.updMe

theorem Safe.memories.report {s : State} (h : Safe.memories s) : Safe.ends Safe.memories s.report := by
  unfold State.report
  exact .ite .blocked (.ite .guardFault (.ok h))

theorem Safe.memories.commitPoint {s : State} (h : Safe.memories s) : Safe.ends Safe.memories s.commitPoint := by
  unfold State.commitPoint
  exact .andThen h.report fun _ ht => .ite .again (.ok ht.updMe)

/-! ### The next-address selector (R43, R44) -/

theorem Safe.memories.jump {s : State} {a : Word} (h : Safe.memories s) : Safe.ends Safe.memories (s.jump a) := by
  unfold State.jump
  exact .ite .trap (.ok h.updRegs)

theorem Safe.memories.endActivation {s : State} (h : Safe.memories s) : Safe.ends Safe.memories s.endActivation := by
  unfold State.endActivation
  exact .ite .trap (.ite .trap (.ite .guardFault (.ok (.updMe (.ite h.disband h)))))

theorem Safe.memories.select {s : State} {w : Pre} {first : Word} (h : Safe.memories s) :
    Safe.ends Safe.memories (s.select w first) := by
  unfold State.select
  dsimp only
  split
  · exact .ok h.updRegs
  · exact h.endActivation
  · exact h.jump
  · exact .ite h.jump (.ok h.updRegs)
  · refine .ite ?_ (.andThen h.jump fun _ ht => .ok ht.updRegs)
    split
    · exact .ite .trap (.ok h.updRegs)
    · exact .trap
  · exact .ite .trap (.andThen h.jump fun _ ht => .ok ht.updRegs)
  · split
    · exact .ite .trap (.andThen h.jump fun _ ht => .ok ht.updRegs)
    · exact .trap

/-! ### What an instruction touches (R42, R48) -/

theorem Safe.memories.readSrcs {s : State} {l : List GReg} (h : Safe.memories s) : Safe.memories (s.readSrcs l).1 := by
  induction l generalizing s with
  | nil => exact h
  | cons r l ih =>
    cases r with
    | g n => exact ih h
    | port p =>
      unfold State.readSrcs
      split
      · exact ih h.updCore
      · exact ih h

/-! ### Gangs: forwarding (R152) -/

theorem Safe.memories.forwardTo {s : State} {i : Instr} {first : Word} {next : Option Word} {flw : List CoreId} (h : Safe.memories s) :
    Safe.memories (s.forwardTo i first next flw) := by
  unfold State.forwardTo
  exact h.foldl fun _ _ ht => .ite ht.updCtx ht

theorem Safe.memories.forward {s : State} {i : Instr} {first : Word} {flw : List CoreId} (h : Safe.memories s) :
    Safe.memories (s.forward i first flw) := h.forwardTo

theorem Safe.memories.forwardFetched {s : State} {i : Instr} (h : Safe.memories s) : Safe.memories (s.forwardFetched i) := by
  unfold State.forwardFetched
  exact .ite h h.updMe.forwardTo

/-! ### Retirement (R15, R46, R302) -/

theorem Safe.memories.retire {s : State} {i : Instr} {w : Pre} {longs : List RegRef} {isLong : Bool} {first : Word}
    {flw : List CoreId} (h : Safe.memories s) :
    Safe.memories (s.retire i w longs isLong first flw) := h.updMe.forward

theorem Safe.memories.fired {s : State} {pa : Nat} (h : Safe.memories s) : Safe.memories (s.fired pa) := by
  unfold State.fired
  exact h.fireWalk.andThen fun ht => ht.ctxIntegrity

theorem Safe.memories.next_settle {s : State} {r : Except Stop State} (h : Safe.memories s) (hr : Safe.ends Safe.memories r) :
    Safe.next (settle s r) := by
  unfold Machine.settle
  split
  · exact .of hr
  · exact .of hr
  · exact .of h.block
  · exact .of h.fired
  · exact .of h.takeTrap
  · exact .of (.takeTrap (.ite h h.updRegs))

theorem Safe.memories.next_finish {s : State} {i : Instr} {w : Pre} {longs : List RegRef} {isLong jumps : Bool}
    {eff : State → Except Stop State} {pre : State} (h : Safe.memories s) (heff : ∀ t, Safe.memories t → Safe.ends Safe.memories (eff t))
      (hpre : Safe.memories pre) :
    Safe.next (finish i w longs isLong jumps eff s pre) := by
  unfold Machine.finish
  exact hpre.next_settle (.andThen (heff _ h) fun _ ht => .ite (.andThen (.ok ht.updMe) fun _ hu => .ok hu.retire)
    (.andThen ht.updMe.select fun _ hu => .ok hu.retire))

theorem Safe.memories.next_runInstr {s : State} {i : Instr} {w : Pre} {u : Uses} {eff : List Word → State → Except Stop State}
    (h : Safe.memories s) (heff : ∀ x t, Safe.memories t → Safe.ends Safe.memories (eff x t)) :
    Safe.next (runInstr i w u eff s) := by
  unfold Machine.runInstr
  refine .ite (.of h.takeTrap) (.ite (.of h.takeTrap) ?_)
  split
  · exact .of h.takeTrap
  · split
    · exact .of h.takeTrap
    · refine .ite (.of h.block) (.ite (.of h.updMe.updRegs.retire) (.ite (.of h.block) ?_))
      split
      split
      · exact .of (.ite h.block (h.readSrcs.fst ‹_›).noRestore.takeTrap)
      · exact Safe.memories.next_finish (.ite (h.readSrcs.fst ‹_›).noRestore (h.readSrcs.fst ‹_›)) (fun _ ht => heff _ _ ht) h

theorem Safe.memories.next_keptOp {s : State} {β : Type} {i : Instr} {w : Pre} {u : Uses} {toWait : β → Wait}
    {ofWait : Wait → Option β} {start : List Word → State → Except Stop (State × β)} {poll : β → State → Option (Except Stop State)}
      (h : Safe.memories s) (hstart : ∀ x t, Safe.memories t → Safe.ends (fun r => Safe.memories r.1) (start x t))
      (hpoll : ∀ x t, Safe.memories t → Safe.given (Safe.ends Safe.memories) (poll x t)) :
    Safe.next (keptOp i w u toWait ofWait start poll s) := by
  unfold Machine.keptOp
  dsimp only
  split
  · refine .ite (h.next_finish (fun _ ht => ?_) h) (.of h.block)
    split
    · exact (hpoll _ _ ht).of_eq_some ‹_›
    · exact .halt ht.block
  · refine h.next_runInstr fun _ _ ht => .andThenFst (hstart _ _ ht) fun _ _ hu => .andThen hu.select fun _ _ => ?_
    dsimp only
    split
    · exact (hpoll _ _ hu).of_eq_some ‹_›
    · exact .halt hu.block

theorem Safe.memories.next_gOp3 {s : State} {i : Instr} {w : Pre} {d a b : GReg} {long : Bool} {op : Word → Word → Word}
    (h : Safe.memories s) :
    Safe.next (gOp3 i w d a b long op s) := by
  unfold Machine.gOp3
  exact h.next_runInstr fun _ _ ht => .ok ht.writeG

theorem Safe.memories.next_gOp2 {s : State} {i : Instr} {w : Pre} {d a : GReg} {op : Word → Word} (h : Safe.memories s) :
    Safe.next (gOp2 i w d a op s) := by
  unfold Machine.gOp2
  exact h.next_runInstr fun _ _ ht => .ok ht.writeG

theorem Safe.memories.next_gOp1 {s : State} {i : Instr} {w : Pre} {d : GReg} {reads : List RegRef} {op : State → Word}
    (h : Safe.memories s) :
    Safe.next (gOp1 i w d reads op s) := by
  unfold Machine.gOp1
  exact h.next_runInstr fun _ _ ht => .ok ht.writeG

theorem Safe.memories.next_pOp {s : State} {i : Instr} {w : Pre} {d a b : PReg} {reads : List RegRef} {op : Bool → Bool → Bool}
    (h : Safe.memories s) :
    Safe.next (pOp i w d a b reads op s) := by
  unfold Machine.pOp
  exact h.next_runInstr fun _ _ ht => .ok ht.updRegs

theorem Safe.memories.stopCtx {s : State} {c : CoreId} {k : CtxId} {safe : Option (BitVec 8)} (h : Safe.memories s) :
    Safe.memories (s.stopCtx c k safe) := by
  unfold State.stopCtx
  exact .updCore (.updCtx (.ite h.disband h))

/-! ### Charges (R263) -/

theorem Safe.memories.fold {s : State} {r : BitVec 32} (h : Safe.memories s) : Safe.memories (s.fold r) := by
  unfold State.fold
  split
  · exact h
  · dsimp only
    split
    · exact (h.readRegion.other.foldl fun _ _ ht => ht.setSlot).foldl fun _ _ ht => ht.setSlot
    · exact h.readRegion.other.foldl fun _ _ ht => ht.setSlot

theorem Safe.memories.foldAll {s : State} (h : Safe.memories s) : Safe.memories s.foldAll := h.foldl fun _ _ ht => ht.fold

theorem Safe.memories.foldCore {s : State} {c : CoreId} (h : Safe.memories s) : Safe.memories (s.foldCore c) :=
  h.foldl fun _ _ ht => ht.fold

/-! ### Stop requests -/

theorem Safe.memories.stopEntry {s : State} {c : CoreId} (h : Safe.memories s) : Safe.memories (s.stopEntry c) := by
  unfold State.stopEntry
  exact .ite (h.foldCore.foldl fun _ _ ht => ht.updCtx) h

theorem Safe.memories.stopRequest {s : State} {c : CoreId} {mask : BitVec 8} {sm budget : Bool} (h : Safe.memories s) :
    Safe.memories (s.stopRequest c mask sm budget) := by
  unfold State.stopRequest
  exact .ite h (h.updCore.foldl fun _ _ ht => .ite ht.stopCtx ht).stopEntry

theorem Safe.memories.freeCtxs {s : State} {c : CoreId} {mask : BitVec 8} (h : Safe.memories s) :
    Safe.memories (s.freeCtxs c mask) := by
  unfold State.freeCtxs
  exact h.foldl fun _ _ ht => .ite ht.other.updCtx ht

theorem Safe.memories.enterM {s : State} {c : CoreId} (h : Safe.memories s) : Safe.memories (s.enterM c) := by
  unfold State.enterM
  split
  · exact .ite h (.updCore (.orElse (h.setCore (Core.nextEntry_wf (wf_scratch h c) ‹_›)) fun ht => ht.updCtx))
  · exact h

/-! ### Writes -/

theorem Safe.memories.csrWriteLow {s : State} {n : Nat} {x : Word} (h : Safe.memories s) :
    Safe.given Safe.memories (s.csrWriteLow n x) := by
  unfold State.csrWriteLow
  dsimp only
  split
  · exact .some h.updCtx
  · exact .some h.updCtx
  · exact .ite (.some h.updCtx) .none
  · exact .ite (.some h.updCtx) .none
  · exact .ite (.some h.updCtx) .none
  · exact .some h.updDom
  · exact .some h.updCtx
  · exact .some h.updCtx
  · exact .some h.updCtx
  · exact .some h.updRegs
  · exact .some h.updRegs
  · exact .some h.updRegs
  · exact .some h.updDom
  · exact .some h.updDom
  · exact .none

theorem Safe.memories.csrWriteHigh {s : State} {n : Nat} {x : Word} (h : Safe.memories s) :
    Safe.given Safe.memories (s.csrWriteHigh n x) := by
  unfold State.csrWriteHigh
  dsimp only
  split
  · exact .some h
  · exact .some h.updCore
  · exact .some h.updCore
  · exact .some h.updCore
  · exact .some h.updCore
  · exact .some h.updCore
  · exact .some h.updCore
  · exact .map fun _ e => h.setCore (Core.writeEinjc_wf (wf_scratch h _) e)
  · exact .some h.stopRequest.freeCtxs
  · exact .ite (.some h.updCore) .none
  · exact .some h.updCore
  · refine .dite (fun _ => ?_) fun _ => .none
    split <;> exact .some h.updCore

theorem Safe.memories.csrWrite {s : State} {n : Nat} {x : Word} (h : Safe.memories s) :
    Safe.given Safe.memories (s.csrWrite n x) := by
  unfold State.csrWrite
  exact .ite h.csrWriteLow h.csrWriteHigh

/-! ### The instructions (R81, R82) -/

theorem Safe.ends.csrCheck {s : State} {i : Instr} {n : Nat} : Safe.ends (fun _ => True) (s.csrCheck i n) := by
  unfold State.csrCheck
  refine .ite .trap ?_
  split
  · exact .ok trivial
  · exact .trap

theorem Safe.memories.next_csrUpdate {s : State} {i : Instr} {w : Pre} {d : GReg} {n : Nat} {reads : List RegRef}
    {op : Word → Word → Word} (h : Safe.memories s) :
    Safe.next (csrUpdate i w d n reads op s) := by
  unfold Machine.csrUpdate
  refine h.next_runInstr fun _ _ ht => .check .csrCheck fun _ => .ite .trap ?_
  split
  · exact .ok (ht.csrWrite.of_eq_some ‹_›)
  · exact .trap

theorem Safe.memories.next_srd {s : State} {w : Pre} {d : GReg} {csr : BitVec 10} (h : Safe.memories s) :
    Safe.next (execSrd w d csr s) := by
  unfold execSrd
  exact h.next_runInstr fun _ _ ht => .check .csrCheck fun _ => .ok ht.writeG

/-! ### Jumps and loops (R78 to R80) -/

theorem Safe.memories.next_jmpr {s : State} {w : Pre} {a : GReg} (h : Safe.memories s) : Safe.next (execJmpr w a s) := by
  unfold execJmpr
  exact h.next_runInstr fun _ _ ht => ht.jump

theorem Safe.memories.next_jmprCall {s : State} {w : Pre} {a : GReg} (h : Safe.memories s) : Safe.next (execJmprCall w a s) := by
  unfold execJmprCall
  exact h.next_runInstr fun _ _ ht => .ite .trap (.ite .trap ht.updRegs.jump)

theorem Safe.memories.next_tgt {s : State} {w : Pre} {imm : BitVec 16} (h : Safe.memories s) : Safe.next (execTgt w imm s) := by
  unfold execTgt
  exact h.next_runInstr fun _ _ ht => .ok ht.updRegs

theorem Safe.memories.loopSetup {s : State} {w : Pre} {count : Word} (h : Safe.memories s) :
    Safe.ends Safe.memories (s.loopSetup w count) := by
  unfold State.loopSetup
  exact .ite .trap (.ok h.updRegs)

theorem Safe.memories.next_lps {s : State} {w : Pre} {a : GReg} (h : Safe.memories s) : Safe.next (execLps w a s) := by
  unfold execLps
  exact h.next_runInstr fun _ _ ht => ht.loopSetup

theorem Safe.memories.next_lpsi {s : State} {w : Pre} {imm : BitVec 10} (h : Safe.memories s) : Safe.next (execLpsi w imm s) := by
  unfold execLpsi
  exact h.next_runInstr fun _ _ ht => ht.loopSetup

theorem Safe.memories.next_brk {s : State} {w : Pre} {code : BitVec 16} (h : Safe.memories s) : Safe.next (execBrk w code s) := by
  unfold execBrk
  exact h.next_runInstr fun _ _ _ => .trap

/-! ### Predicates (R74 to R76) -/

theorem Safe.memories.next_cmp {s : State} {w : Pre} {c : Cond} {p : PReg} {a b : GReg} (h : Safe.memories s) :
    Safe.next (execCmp w c p a b s) := by
  unfold execCmp
  exact h.next_runInstr fun _ _ ht => .ok ht.updRegs

theorem Safe.memories.next_cmpi {s : State} {w : Pre} {c : Cond} {p : PReg} {a : GReg} {imm : BitVec 10} (h : Safe.memories s) :
    Safe.next (execCmpi w c p a imm s) := by
  unfold execCmpi
  exact h.next_runInstr fun _ _ ht => .ok ht.updRegs

theorem Safe.memories.next_sel {s : State} {w : Pre} {d : GReg} {p : PReg} {a b : GReg} (h : Safe.memories s) :
    Safe.next (execSel w d p a b s) := by
  unfold execSel
  exact h.next_runInstr fun _ _ ht => .ok ht.writeG

/-! ### MOVR (R77) -/

theorem Safe.memories.next_movrGf {s : State} {w : Pre} {d : FReg} {a : GReg} (h : Safe.memories s) :
    Safe.next (execMovrGf w d a s) := by
  unfold execMovrGf
  exact h.next_runInstr fun _ _ ht => .ok ht.updRegs

theorem Safe.memories.next_movrGp {s : State} {w : Pre} {a : GReg} (h : Safe.memories s) : Safe.next (execMovrGp w a s) := by
  unfold execMovrGp
  exact h.next_runInstr fun _ _ ht => .ok ht.updRegs

/-! ### The store buffer -/

theorem Safe.memories.drainMe {s : State} (h : Safe.memories s) : Safe.ends Safe.memories s.drainMe := by
  unfold State.drainMe
  exact .ite (.ok h.drain) .blocked

theorem Safe.memories.releaseMe {s : State} (h : Safe.memories s) : Safe.ends Safe.memories s.releaseMe := by
  unfold State.releaseMe
  exact .ite .blocked h.drainMe

theorem Safe.memories.flushWc {s : State} (h : Safe.memories s) : Safe.ends Safe.memories s.flushWc := by
  unfold State.flushWc
  exact .ite (.ok (h.updMe.foldl fun _ _ ht => ht.perform)) h.drainMe

/-! ### Reading -/

theorem Safe.memories.guardRead {s : State} {l : Loc} {bs : List Byte} (h : Safe.memories s) :
    Safe.memories (s.guardRead l bs).1 := by
  unfold State.guardRead
  split
  · exact h
  · exact h.guardTouch

theorem Safe.memories.readRaw {s : State} {bound : Bool} {l : Loc} {n : Nat} (h : Safe.memories s) :
    Safe.ends (fun r => Safe.memories r.1) (s.readRaw bound l n) := by
  unfold State.readRaw
  refine .ite .blocked (.ite (.andThen h.releaseMe fun _ ht => .ite (.ok ht) ?_) (.andThen (.ok h) fun _ ht => .ite (.ok ht) ?_))
  · split
    · refine .ite (.ok ht) (.ite .blocked ?_)
      split
      split
      · exact .ite .trap (.halt (ht.inject.fst ‹_›).consumePoison)
      · exact .ok (.ite (ht.inject.fst ‹_›).updMe (ht.inject.fst ‹_›))
    · split
      · exact .ite .trap (.halt ht.consumePoison)
      · exact .ok ht
  · split
    · refine .ite (.ok ht) (.ite .blocked ?_)
      split
      split
      · exact .ite .trap (.halt (ht.inject.fst ‹_›).consumePoison)
      · exact .ok (.ite (ht.inject.fst ‹_›).updMe (ht.inject.fst ‹_›))
    · split
      · exact .ite .trap (.halt ht.consumePoison)
      · exact .ok ht

theorem Safe.memories.readLocBy {s : State} {bound : Bool} {l : Loc} {n : Nat} (h : Safe.memories s) :
    Safe.ends (fun r => Safe.memories r.1) (s.readLocBy bound l n) := by
  unfold State.readLocBy
  exact .andThenFst h.readRaw fun _ _ ht => .ok ht.guardRead

theorem Safe.memories.readLoc {s : State} {l : Loc} {n : Nat} (h : Safe.memories s) :
    Safe.ends (fun r => Safe.memories r.1) (s.readLoc l n) := h.readLocBy

theorem Safe.memories.load {s : State} {addr n : Nat} (h : Safe.memories s) :
    Safe.ends (fun r => Safe.memories r.1) (s.load addr n) := by
  unfold State.load
  exact .check h.checkAccess fun _ => h.readLoc

/-! ### Writing -/

theorem Safe.memories.logWrite {s : State} {l : Loc} {units : List Nat} (h : Safe.memories s) :
    Safe.memories (s.logWrite l units) := by
  unfold State.logWrite
  split
  · exact .ite h.noRestore h.updMe
  · exact h.noRestore

theorem Safe.memories.buffer {s : State} {l : Loc} {bs : List Byte} {release acquire : Bool} (h : Safe.memories s) :
    Safe.memories (s.buffer l bs release acquire) := by
  unfold State.buffer
  exact .ite h.writePlace h.updMe

theorem Safe.memories.keyHeld {s : State} {l : Loc} (h : Safe.memories s) : Safe.ends (fun _ => True) (s.keyHeld l) := by
  unfold State.keyHeld
  split
  · exact .ite (.halt h.ctxIntegrity) (.ok trivial)
  · exact .ok trivial

theorem Safe.memories.storeLoc {s : State} {l : Loc} {bs : List Byte} {release acquire : Bool} (h : Safe.memories s) :
    Safe.ends Safe.memories (s.storeLoc l bs release acquire) := by
  unfold State.storeLoc
  exact .check h.keyHeld fun _ => .ite .blocked (.ite (.ok h.guardTouch) (.ok h.logWrite.buffer))

theorem Safe.memories.atomicLoc {s : State} {l : Loc} {n : Nat} {release : Bool} {f : Nat → Option Nat} (h : Safe.memories s) :
    Safe.ends (fun r => Safe.memories r.1) (s.atomicLoc l n release f) := by
  unfold State.atomicLoc
  refine .check h.keyHeld fun _ => .ite (.andThen h.releaseMe fun _ ht => .ite (.ok ht.guardTouch) (.andThenFst ht.readLoc fun _ _ hu =>
    ?_)) (.andThen h.drainMe fun _ ht => .ite (.ok ht.guardTouch) (.andThenFst ht.readLoc fun _ _ hu => ?_))
  · split
    dsimp only
    split
    · exact .ok (hu.fst ‹_›)
    · exact .ok (hu.fst ‹_›).logWrite.writePlace
  · split
    dsimp only
    split
    · exact .ok (hu.fst ‹_›)
    · exact .ok (hu.fst ‹_›).logWrite.writePlace

/-! ### The outbox (R175, R176) -/

theorem Safe.memories.counted {s : State} {c : CoreId} {t : Tag} (h : Safe.memories s) : Safe.memories (s.counted c t) := h.updCore

theorem Safe.memories.sealed {s : State} {c : CoreId} {t : Tag} (h : Safe.memories s) : Safe.memories (s.sealed c t) := h.counted.updCore

theorem Safe.memories.pushTask {s : State} {home : CoreId} {t : Tag} {slots : Vector Word 4} {region : BitVec 32} {src : CoreId}
    (h : Safe.memories s) :
    Safe.memories (s.pushTask home t slots region src) := by
  unfold State.pushTask
  exact .ite h (.ite h.updDom h.sealed.send)

theorem Safe.memories.sendEntry {s : State} {c : CoreId} {e : OutEntry} (h : Safe.memories s) : Safe.memories (s.sendEntry c e) := by
  unfold State.sendEntry
  split
  · exact h.sealed.send
  · exact h.pushTask
  · exact h.sealed.send

theorem Safe.memories.place {s : State} {b : OutBody} (h : Safe.memories s) : Safe.ends Safe.memories (s.place b) := by
  unfold State.place
  exact .ite (.ite .blocked (.ok h.sendEntry)) (.andThen (.ite (.andThen h.commitPoint fun _ ht => .ok ht.updMe) (.ok h)) fun _ ht =>
    .ok ht.updMe)

theorem Safe.memories.next_cmit {s : State} {w : Pre} (h : Safe.memories s) : Safe.next (execCmit w s) := by
  unfold execCmit
  exact h.next_runInstr fun _ _ ht => ht.commitPoint

/-! ### SEND, SPAWN, TDEC (R180, R185, R186) -/

theorem Safe.memories.next_send {s : State} {w : Pre} {a : GReg} {b : Fin 32} {n : Fin 16} (h : Safe.memories s) :
    Safe.next (execSend w a b n s) := by
  unfold execSend
  exact h.next_runInstr fun _ _ ht => .ite .trap ht.place

theorem Safe.memories.next_spawn {s : State} {w : Pre} {a : Fin 32} (h : Safe.memories s) : Safe.next (execSpawn w a s) := by
  unfold execSpawn
  exact h.next_runInstr fun _ _ ht => .ite .trap (.ite .trap (.ite .trap ht.place))

theorem Safe.memories.next_tdec {s : State} {w : Pre} {a : GReg} (h : Safe.memories s) : Safe.next (execTdec w a s) := by
  unfold execTdec
  refine h.next_runInstr fun _ _ ht => .ite .trap (.ite .trap (.check ht.checkSpace fun _ => ?_))
  split
  · exact ht.place
  · exact .trap

/-! ### The call board (R19, R21, R183, R184) -/

theorem Safe.memories.defineEntry {s : State} {ch : BitVec 6} {e : Word} (h : Safe.memories s) :
    Safe.memories (s.defineEntry ch e) := by
  unfold State.defineEntry
  exact h.updDom.andThen fun ht => ht.withdrawIf

theorem Safe.memories.next_hdef {s : State} {w : Pre} {a b : GReg} (h : Safe.memories s) : Safe.next (execHdef w a b s) := by
  unfold execHdef
  exact h.next_runInstr fun _ _ ht => .ite .trap (.ite .trap (.ok ht.defineEntry.noRestore))

theorem Safe.memories.deliver {s : State} {c : CoreId} {m : Message} (h : Safe.memories s) :
    Safe.given Safe.memories (s.deliver c m) := by
  unfold State.deliver
  split
  · exact .none
  · split
    exact .some h.updCtx

theorem Safe.memories.ring {s : State} {ch : BitVec 6} (h : Safe.memories s) : Safe.memories (s.ring ch) := by
  unfold State.ring
  refine .ite h ?_
  dsimp only
  split
  · exact h.deliver.of_eq_some ‹_›
  · exact h.updDom.updCore

theorem Safe.memories.unring {s : State} {ch : BitVec 6} (h : Safe.memories s) : Safe.memories (s.unring ch) := h.updDom.updCore

theorem Safe.memories.enable {s : State} {on : Bool} {ch : BitVec 6} (h : Safe.memories s) : Safe.memories (s.enable on ch) := h.updDom

theorem Safe.memories.next_hctl {s : State} {i : Instr} {w : Pre} {a : GReg} {rel : Bool} {f : State → BitVec 6 → State}
    (h : Safe.memories s) (hf : ∀ t x, Safe.memories t → Safe.memories (f t x)) :
    Safe.next (hctl i w a rel f s) := by
  unfold Machine.hctl
  exact h.next_runInstr fun _ _ ht => .ite (.andThen ht.drainMe fun _ hu => .ok (hu.foldl fun _ _ hv => hf _ _ hv).noRestore) (.andThen
    (.ok ht) fun _ hu => .ok (hu.foldl fun _ _ hv => hf _ _ hv).noRestore)

theorem Safe.memories.next_hen {s : State} {w : Pre} {a : GReg} (h : Safe.memories s) : Safe.next (execHen w a s) := by
  unfold execHen
  exact h.next_hctl fun _ _ ht => ht.enable

theorem Safe.memories.next_hdis {s : State} {w : Pre} {a : GReg} (h : Safe.memories s) : Safe.next (execHdis w a s) := by
  unfold execHdis
  exact h.next_hctl fun _ _ ht => ht.enable

theorem Safe.memories.next_hsetp {s : State} {w : Pre} {a : GReg} (h : Safe.memories s) : Safe.next (execHsetp w a s) := by
  unfold execHsetp
  exact h.next_hctl fun _ _ ht => ht.ring

theorem Safe.memories.next_hclrp {s : State} {w : Pre} {a : GReg} (h : Safe.memories s) : Safe.next (execHclrp w a s) := by
  unfold execHclrp
  exact h.next_hctl fun _ _ ht => ht.unring

/-! ### WFM (R182) -/

theorem Safe.memories.takeMessage {s : State} {d : GReg} {m : Message} (h : Safe.memories s) :
    Safe.memories (s.takeMessage d m) := h.updRegs.writeG

theorem Safe.memories.unpend {s : State} {c : CoreId} {m : Message} (h : Safe.memories s) : Safe.memories (s.unpend c m) := by
  unfold State.unpend
  exact .ite h.updDom h

theorem Safe.memories.receive {s : State} {d : GReg} {c : BitVec 6} {since : Nat} {got : Option Message} (h : Safe.memories s) :
    Safe.given (fun r => Safe.ends Safe.memories r) (s.receive d c since got) := by
  unfold State.receive
  split
  · exact .some (.ok h.takeMessage)
  · dsimp only
    split
    · exact .some (.ok h.updCore.unpend.takeMessage)
    · exact .none

theorem Safe.memories.next_wfm {s : State} {w : Pre} {d a : GReg} (h : Safe.memories s) : Safe.next (execWfm w d a s) := by
  unfold execWfm
  exact h.next_keptOp (fun _ _ ht => .ite .trap (.ite .trap (.andThen ht.commitPoint fun _ hu => .ok hu.other))) fun _ _ ht => ht.receive

/-! ### Barriers (R188, R189) -/

theorem Safe.ends.barCheck {i : Instr} {x : Word} {arrives : Bool} : Safe.ends (fun _ => True) (barCheck i x arrives) := by
  unfold Machine.barCheck
  exact .ite .trap (.ok trivial)

theorem Safe.ends.barDomain {s : State} {id : Fin 32} : Safe.ends (fun _ => True) (s.barDomain id) := by
  unfold State.barDomain
  split
  · exact .ite (.ok trivial) .trap
  · exact .ok trivial

theorem Safe.memories.phaseOver {s : State} {id : Fin 32} {ph : Bool} (h : Safe.memories s) : Safe.memories (s.phaseOver id ph) := by
  unfold State.phaseOver
  exact h.foldl fun _ _ ht => .ite ht.updCtx ht

theorem Safe.memories.arrive {s : State} {i : Instr} {x : Word} (h : Safe.memories s) : Safe.ends Safe.memories (s.arrive i x) := by
  unfold State.arrive
  exact .check .barDomain fun _ => .ite .trap (.andThen h.drainMe fun _ ht => .ok (ht.updCluster.updRegs.andThen fun hu => hu.phaseOver))

theorem Safe.memories.phaseWait {s : State} {id : Fin 32} {ph ended : Bool} (h : Safe.memories s) :
    Safe.given (fun r => Safe.ends Safe.memories r) (s.phaseWait id ph ended) := by
  unfold State.phaseWait
  exact .ite (.some (.ok h)) .none

theorem Safe.memories.next_bar {s : State} {w : Pre} {a : GReg} (h : Safe.memories s) : Safe.next (execBar w a s) := by
  unfold execBar
  exact h.next_keptOp (fun _ _ ht => .check .barCheck fun _ => .check .barDomain fun _ => .andThen ht.commitPoint fun _ hu =>
    .andThen hu.arrive fun _ hv => .ok hv) fun _ _ ht => ht.phaseWait

theorem Safe.memories.next_bara {s : State} {w : Pre} {a : GReg} (h : Safe.memories s) : Safe.next (execBara w a s) := by
  unfold execBara
  exact h.next_runInstr fun _ _ ht => .check .barCheck fun _ => .ite .guardFault (.andThen ht.arrive fun _ hu => .ok hu.noRestore)

theorem Safe.memories.next_barw {s : State} {w : Pre} {a : GReg} (h : Safe.memories s) : Safe.next (execBarw w a s) := by
  unfold execBarw
  exact h.next_keptOp (fun _ _ ht => .check .barCheck fun _ => .check .barDomain fun _ => .andThen ht.commitPoint fun _ hu => .ok hu)
    fun _ _ ht => ht.phaseWait

/-! ### GCALL (R199) -/

theorem Safe.memories.gateEnter {s : State} {pre : Pre} {d : Fin 32} {hd w : Word} (h : Safe.memories s) :
    Safe.ends Safe.memories (s.gateEnter pre d hd w) := by
  unfold State.gateEnter
  dsimp only
  split
  · exact .trap
  · exact .ite .trap (.ite .trap (.ite .trap (.andThen h.commitPoint fun _ ht => .andThen ht.drainMe fun _ hu => .ite (.ok hu.updRegs)
      (.ite (.ok hu.updRegs) (.ok hu.setSlot.updRegs)))))

theorem Safe.memories.gateCall {s : State} {pre : Pre} {d : Fin 32} {hd w : Word} (h : Safe.memories s) :
    Safe.ends Safe.memories (s.gateCall pre d hd w) := by
  unfold State.gateCall
  refine .ite .trap (.ite .trap (.ite .trap ?_))
  split
  · exact .ite .fire h.gateEnter
  · exact .trap

theorem Safe.memories.next_gcall {s : State} {w : Pre} {d a b : Fin 32} (h : Safe.memories s) : Safe.next (execGcall w d a b s) := by
  unfold execGcall
  exact h.next_runInstr fun _ _ ht => ht.gateCall

/-! ### GRET (R201) -/

theorem Safe.memories.gateReturn {s : State} (h : Safe.memories s) : Safe.ends Safe.memories s.gateReturn := by
  unfold State.gateReturn
  split
  · exact .trap
  · exact .ite .trap (.andThen h.drainMe fun _ ht => .andThen ht.report fun _ hu => .ok hu.leaveGate.updRegs.noRestore)

theorem Safe.memories.next_gret {s : State} {w : Pre} (h : Safe.memories s) : Safe.next (execGret w s) := by
  unfold execGret
  exact h.next_runInstr fun _ _ ht => ht.gateReturn

/-! ### DSR (R205) -/

theorem Safe.memories.next_dsr {s : State} {w : Pre} {d a : GReg} {f : BitVec 4} (h : Safe.memories s) :
    Safe.next (execDsr w d a f s) := by
  unfold execDsr
  refine h.next_runInstr fun _ _ ht => .ite .trap (.ite ?_ ?_)
  · split
    · exact .ok ht.writeG
    · exact .trap
  · split
    · exact .ite (.ok ht.writeG) .trap
    · exact .trap

theorem Safe.memories.mcallEntry {s : State} {w : Pre} {n : Nat} (h : Safe.memories s) : Safe.memories (s.mcallEntry w n) :=
  h.updMe.updCore

theorem Safe.memories.next_monitorCall {s : State} {i : Instr} {w : Pre} {u : Uses} {n : Nat} (h : Safe.memories s) :
    Safe.next (monitorCall i w u n s) := by
  unfold Machine.monitorCall
  exact h.next_runInstr fun _ _ ht => .ite .trap (.ite .blocked (.ok ht.mcallEntry))

theorem Safe.memories.serveMver {s : State} (h : Safe.memories s) : Safe.ends (fun r => Safe.memories r.1) (serveMver s) := by
  unfold Machine.serveMver
  exact .ok h.updRegs

/-! ### GPUB (R287 to R289) -/

theorem Safe.memories.makeTable {s : State} {t : Tag} (h : Safe.memories s) :
    Safe.given (fun r => Safe.memories r.1) (s.makeTable t) := by
  unfold State.makeTable
  split
  · exact .some h
  · dsimp only
    split
    · exact .some h.setSlot
    · exact .none

theorem Safe.memories.installEngine {s : State} {d : DieId} {k : EngineKey} (h : Safe.memories s) :
    Safe.memories (s.installEngine d k) := h.updDie

theorem Safe.memories.spreadKeys {s : State} {t : Tag} {e : GateEntry} (h : Safe.memories s) : Safe.memories (s.spreadKeys t e) := by
  unfold State.spreadKeys
  split
  · exact h
  · refine h.foldl fun _ _ ht => .ite ht ?_
    split
    · exact ht.updCore.installEngine
    · exact ht

theorem Safe.memories.publish {s : State} {idx : Nat} {entry ceiling : Word} {p : List Word} (h : Safe.memories s) :
    Safe.memories (s.publish idx entry ceiling p).1 := by
  unfold State.publish
  dsimp only
  split
  · exact h
  · have ht := h.makeTable.of_eq_some ‹_›
    refine .ite_fst ht.readLines ?_
    dsimp only
    refine .updRegs (.spreadKeys (.other (.foldl ?_ fun _ _ h => h.setSlot)))
    exact ht.readLines.setSlot.setSlot.setSlot

theorem Safe.memories.readDesc64 {s : State} {a : Word} (h : Safe.memories s) :
    Safe.ends (fun r => Safe.memories r.1) (State.readPolicy.readDesc64 s a) := by
  unfold State.readPolicy.readDesc64
  exact .andThenFst h.load fun _ _ ht => .ok ht

theorem Safe.memories.readPolicy {s : State} {a : Word} (h : Safe.memories s) :
    Safe.ends (Safe.given fun r => Safe.memories r.1) (s.readPolicy a) := by
  unfold State.readPolicy
  split
  · exact .ok (h.readDesc64.of_eq_ok ‹_›)
  · exact .ok .none
  · exact h.readDesc64.of_eq_error ‹_›

theorem Safe.memories.serveGpub {s : State} (h : Safe.memories s) : Safe.ends (fun r => Safe.memories r.1) (serveGpub s) := by
  unfold Machine.serveGpub
  refine .ite (.ok h) (.bind h.readPolicy fun _ hr => ?_)
  split
  · exact .ok h
  · exact .ok (.ite_fst (Safe.memories.publish hr) hr)

/-! ### GREV, SPGD, other numbers -/

theorem Safe.memories.revoke {s : State} {idx : Nat} (h : Safe.memories s) : Safe.memories (s.revoke idx).1 := by
  unfold State.revoke
  dsimp only
  split
  · exact h
  · exact .ite_fst h.readLines h.readLines.setSlot.other.revokeNotice

theorem Safe.memories.serveGrev {s : State} (h : Safe.memories s) : Safe.ends (fun r => Safe.memories r.1) (serveGrev s) := by
  unfold Machine.serveGrev
  exact .ok (.ite_fst h h.revoke)

theorem Safe.memories.serveSpgd {s : State} (h : Safe.memories s) : Safe.ends (fun r => Safe.memories r.1) (serveSpgd s) := by
  unfold Machine.serveSpgd
  exact .ite (.ok h) (.ok h.updDom)

/-! ### The monitor's service (R215, R216) -/

theorem Safe.memories.service {s : State} {n : Nat} (h : Safe.memories s) :
    Safe.ends (fun r => Safe.memories r.1) (service n s) := by
  unfold Machine.service
  split
  · exact h.serveMver
  · exact h.serveGpub
  · exact h.serveGrev
  · exact h.serveSpgd
  · exact .ok h

theorem Safe.memories.serveCall {s : State} {c : CoreId} (h : Safe.memories s) : Safe.memories (s.serveCall c) := by
  unfold State.serveCall
  dsimp only
  split
  · refine .ite h (.ite h.leaveM ?_)
    split
    · exact (h.onBank.service.of_eq_ok ‹_›).updRegs.leaveM
    · exact (h.onBank.service.of_eq_halt ‹_›).leaveM
    · exact h.onBank.fired
    · exact h.onBank
  · exact h

/-! ### MRET, HALT, HREL (R216, R217) -/

theorem Safe.memories.next_mret {s : State} {w : Pre} (h : Safe.memories s) : Safe.next (execMret w s) := by
  unfold execMret
  exact h.next_runInstr fun _ _ ht => .ok ht.leaveM

theorem Safe.memories.haltOthers {s : State} (h : Safe.memories s) : Safe.ends Safe.memories s.haltOthers := by
  unfold State.haltOthers
  exact .ite (.ok h) (.ite (.halt h.updCore.block) (.ok (h.updCore.foldl fun _ _ ht => ht.updCtx)))

theorem Safe.memories.next_halt {s : State} {w : Pre} (h : Safe.memories s) : Safe.next (execHalt w s) := by
  unfold execHalt
  exact h.next_runInstr fun _ _ ht => ht.haltOthers

theorem Safe.memories.releaseCtx {s : State} {c : CoreId} {k : CtxId} {kill : Bool} (h : Safe.memories s) :
    Safe.memories (s.releaseCtx c k kill) := by
  unfold State.releaseCtx
  exact .ite h.updCtx.killCtx h.updCtx.updCtx

theorem Safe.memories.next_hrel {s : State} {w : Pre} {a : GReg} (h : Safe.memories s) : Safe.next (execHrel w a s) := by
  unfold execHrel
  exact h.next_runInstr fun _ _ ht => .ite .trap (.ite .trap (.ok (ht.foldl fun _ _ hu => hu.releaseCtx)))

/-! ### INVPG and what a shootdown invalidates (R218, R234 to R236) -/

theorem Safe.memories.invalidate {s : State} {cl : ClusterId} {va : Option Nat} {tag : Option Tag} (h : Safe.memories s) :
    Safe.memories (s.invalidate cl va tag) := by
  unfold State.invalidate
  exact ((h.foldl fun _ _ ht => .ite ht.updCore ht).foldl fun _ _ ht => .ite ht.updTroupe ht).updCluster

theorem Safe.memories.shootdown {s : State} {cl : ClusterId} {va : Option Nat} {tag : Option Tag} (h : Safe.memories s) :
    Safe.memories (s.shootdown cl va tag) := by
  unfold State.shootdown
  exact (h.foldl fun _ _ ht => .ite (ht.foldl fun _ _ hu => hu.drain) ht).invalidate

theorem Safe.memories.next_invpg {s : State} {w : Pre} {a b : GReg} (h : Safe.memories s) : Safe.next (execInvpg w a b s) := by
  unfold execInvpg
  exact h.next_runInstr fun _ _ ht => .ite .trap (.ite .blocked (.ok ht.shootdown))

/-! ### Key slots (R219, R283, R284, R286) -/

theorem Safe.memories.dropShadow {s : State} {c : CoreId} {t : Tag} (h : Safe.memories s) : Safe.memories (s.dropShadow c t) := by
  unfold State.dropShadow
  exact .ite h h.updDom

theorem Safe.memories.setSlotKey {s : State} {c : CoreId} {n : Fin 64} {k : KeySlot} (h : Safe.memories s) :
    Safe.memories (s.setSlotKey c n k) := h.updCore.dropShadow

theorem Safe.memories.next_keyld {s : State} {w : Pre} {a b : GReg} (h : Safe.memories s) : Safe.next (execKeyld w a b s) := by
  unfold execKeyld
  refine h.next_runInstr fun _ _ ht => .ite .trap (.ite .trap (.check ht.checkSpace fun _ => .andThenFst ht.readLoc fun _ _ hu => ?_))
  split
  split
  · exact .trap
  · exact .ok (hu.fst ‹_›).setSlotKey.installEngine

theorem Safe.memories.discardHeld {s : State} {c : CoreId} {t : Tag} (h : Safe.memories s) : Safe.memories (s.discardHeld c t) := by
  unfold State.discardHeld
  exact .ite h (.ite h (h.foldl fun _ _ ht => ht.updCtx).log)

theorem Safe.memories.zeroise {s : State} {c : CoreId} {n : Fin 64} {engines : Bool} (h : Safe.memories s) :
    Safe.memories (s.zeroise c n engines) := by
  unfold State.zeroise
  exact (h.setSlotKey.andThen fun ht => ht.updDie).andThen fun ht => ht.discardHeld

theorem Safe.memories.next_keyz {s : State} {w : Pre} {a : GReg} (h : Safe.memories s) : Safe.next (execKeyz w a s) := by
  unfold execKeyz
  exact h.next_runInstr fun _ _ ht => .ite .trap (.ok ht.zeroise)

/-! ### Live masks (R269, R270) -/

theorem Safe.memories.maskPlace {s : State} {c : CoreId} {t : Tag} {va n : Nat} (h : Safe.memories s) :
    Safe.memories (s.maskPlace c t va n).1 := by
  induction n generalizing s with
  | zero => exact h
  | succ n ih =>
    unfold State.maskPlace
    split
    · split
      · exact h.fireWalk.fst ‹_›
      · exact ih (h.fireWalk.fst ‹_›)
    · exact h
    · exact .ite_fst h h

theorem Safe.memories.liveMask {s : State} {c : CoreId} {x : Context} {i : BitVec 8} (h : Safe.memories s) :
    Safe.memories (s.liveMask c x i).1 := by
  unfold State.liveMask
  refine .ite_fst h ?_
  split
  · split
    exact .ite_fst ((h.maskPlace.fst ‹_›).inject.fst ‹_›) ((h.maskPlace.fst ‹_›).inject.fst ‹_›)
  · exact h.maskPlace.fst ‹_›

theorem Safe.memories.savedRegs {s : State} {c : CoreId} {k : CtxId} (h : Safe.memories s) : Safe.memories (s.savedRegs c k).1 := by
  unfold State.savedRegs
  dsimp only
  split
  · exact h
  · split
    · exact h.liveMask.fst ‹_›
    · exact (h.liveMask.fst ‹_›).log

/-! ### CTXSV (R220) -/

theorem Safe.memories.saveCtx {s : State} {c : CoreId} {k : CtxId} {base : Nat} (h : Safe.memories s) :
    Safe.memories (s.saveCtx c k base) := by
  unfold State.saveCtx
  dsimp only
  exact .updCtx (.updCore (.other (.savedRegs (.drain (.updCtx (.ite h.disband h))))))

theorem Safe.ends.frameArgs {s : State} {i : Instr} {a b : Word} : Safe.ends (fun _ => True) (s.frameArgs i a b) := by
  unfold State.frameArgs
  exact .ite .trap (.ite .trap (.ite (.ok trivial) .trap))

theorem Safe.memories.next_ctxsv {s : State} {w : Pre} {a b : GReg} (h : Safe.memories s) : Safe.next (execCtxsv w a b s) := by
  unfold execCtxsv
  exact h.next_runInstr fun _ _ ht => .check .frameArgs fun ⟨_, _⟩ => .ite .trap (.ite .blocked (.ok ht.saveCtx))

/-! ### CTXLD (R220, R291) -/

theorem Safe.memories.eraseFrames {s : State} {base : Nat} (h : Safe.memories s) : Safe.memories (s.eraseFrames base) := h.other

theorem Safe.memories.restoredFrom {s : State} {base : Nat} (h : Safe.memories s) : Safe.memories (s.restoredFrom base) := h.other

theorem Safe.memories.restoreUnwound {s : State} {c : CoreId} {k : CtxId} {fs : List Frame} {kill : Nat} (h : Safe.memories s) :
    Safe.memories (s.restoreUnwound c k fs kill) := by
  unfold State.restoreUnwound
  dsimp only
  split
  · exact (h.foldl fun _ _ ht => ht.leaveGate.andThen fun hu => hu.orphan).updCtx.other
  · exact h.foldl fun _ _ ht => ht.leaveGate.andThen fun hu => hu.orphan

theorem Safe.memories.loadCtx {s : State} {c : CoreId} {k : CtxId} {at0 : Nat} (h : Safe.memories s) :
    Safe.memories (s.loadCtx c k at0) := by
  unfold State.loadCtx
  split
  · exact h.log
  · dsimp only
    split
    · exact h.readLines.eraseFrames.killFaultDomain.log
    · split
      · exact h.readLines.dropFrames
      · exact h.readLines.restoredFrom.restoreUnwound
      · split
        · split
          · exact h.readLines.restoredFrom.updCtx
          · exact h.readLines.eraseFrames.killFaultDomain.log
        · exact h.readLines.eraseFrames.killFaultDomain.log

theorem Safe.memories.next_ctxld {s : State} {w : Pre} {a b : GReg} (h : Safe.memories s) : Safe.next (execCtxld w a b s) := by
  unfold execCtxld
  exact h.next_runInstr fun _ _ ht => .check .frameArgs fun ⟨_, _⟩ => .ite .trap (.ok ht.loadCtx)

/-! ### Starting (R16, R23) -/

theorem Safe.memories.startItem {s : State} {c : CoreId} {k : CtxId} {i : Item} (h : Safe.memories s) :
    Safe.memories (s.startItem c k i) := h.readRegion.unpend.updCtx

/-! ### Arrival (R20) -/

theorem Safe.memories.refuseMsg {s : State} {credit : Option CoreId} {m : Message} {perm : Bool} (h : Safe.memories s) :
    Safe.memories (s.refuseMsg credit m perm) := by
  unfold State.refuseMsg
  exact .ite h.credit h.sendBack

theorem Safe.memories.enqueue {s : State} {c : CoreId} {m : Message} (h : Safe.memories s) : Safe.memories (s.enqueue c m) := h.updCore

theorem Safe.memories.notOpened {s : State} {c : CoreId} {t : Tag} {header : Word} (h : Safe.memories s) :
    Safe.memories (s.notOpened c t header) := h.log

theorem Safe.memories.arrive' {s : State} {credit : Option CoreId} {m : Message} (h : Safe.memories s) :
    Safe.memories (s.arrive' credit m) := by
  unfold State.arrive'
  refine h.refuseMsg.orElse fun ht => .ite h.notOpened.credit (.ite h.queueEntry.credit (ht.orElse fun _ => .ite (.ite ht
    (.ite h.enqueue.credit h.refuseMsg)) ?_))
  split
  · exact (h.deliver.of_eq_some ‹_›).credit
  · refine .ite ht ?_
    dsimp only
    split
    · exact h.credit.updCore.startItem
    · exact .ite h.enqueue.credit h.refuseMsg

theorem Safe.memories.landed {s : State} {i : Nat} (h : Safe.memories s) : Safe.memories (s.landed i) := h.other

theorem Safe.memories.next_messageArrival {s : State} {i : Nat} (h : Safe.memories s) : Safe.next (execMessageArrival i s) := by
  unfold execMessageArrival
  refine .of ?_
  split
  · exact h.whenAwake fun _ ht => .ite ht.landed.arrive' ht
  · exact h

/-! ### Refusals (R160, R181, R238, R260) -/

theorem Safe.memories.placeRefusal {s : State} {c : CoreId} {credit : Option CoreId} {m : Message} (h : Safe.memories s) :
    Safe.given Safe.memories (s.placeRefusal c credit m) := by
  unfold State.placeRefusal
  refine .ite (.some h.credit) (.ite (.some h.credit.notOpened) ?_)
  split
  · exact .some (h.deliver.of_eq_some ‹_›).credit
  · exact .ite (.some h.enqueue.credit) .none

theorem Safe.memories.launchRefused {s : State} {d : DieId} {i : Nat} {m : Message} (h : Safe.memories s) :
    Safe.memories (s.launchRefused d i m) := by
  unfold State.launchRefused
  split
  · exact h
  · exact .ite h.launchEnded.log h.updDie

theorem Safe.memories.refused {s : State} {cr : Option CoreId} {m : Message} (h : Safe.memories s) :
    Safe.memories (s.refused cr m) := by
  unfold State.refused
  dsimp only
  split
  · split
    · exact h.placeRefusal.of_eq_some ‹_›
    · exact h.updCore
  · exact h.updTroupe
  · refine h.updTroupe fun _ => ?_
    split <;> rfl
  · exact h.other.updCtx
  · exact h.launchRefused
  · exact h.updHost
  · exact h

theorem Safe.memories.next_refusalArrival {s : State} {i : Nat} (h : Safe.memories s) : Safe.next (execRefusalArrival i s) := by
  unfold execRefusalArrival
  refine .of ?_
  split
  · split
    · exact h.whenAwake fun _ ht => ht.landed.refused
    · exact h.landed.refused
  · exact h

theorem Safe.memories.next_refusalRetry {s : State} {core : CoreId} (h : Safe.memories s) : Safe.next (execRefusalRetry core s) := by
  unfold execRefusalRetry
  refine .of ?_
  dsimp only
  split
  · refine h.whenAwake fun _ ht => ?_
    split
    · exact (ht.placeRefusal.of_eq_some ‹_›).updCore
    · exact ht.updCore
  · exact h

/-! ### Choosing what starts (R265 to R267) -/

theorem Safe.memories.next_activationStart {s : State} {core : CoreId} (h : Safe.memories s) :
    Safe.next (execActivationStart core s) := by
  unfold execActivationStart
  refine .of (.ite h ?_)
  split
  · exact h.updCore.startItem
  · exact h.updDom.updCore.startItem
  · exact h

/-! ### Theft (R28, R267) -/

theorem Safe.memories.next_theftAttempt {s : State} {core : CoreId} (h : Safe.memories s) : Safe.next (execTheftAttempt core s) := by
  unfold execTheftAttempt
  refine .of (.ite h ?_)
  split
  · dsimp only
    split
    · split
      · exact h.updCore.updDom.updCore.startItem
      · exact h.updCore
    · exact h.updCore
  · exact h

/-! ### Ending, results, stores, verifications (R25, R46, R86, R241) -/

theorem Safe.memories.next_activationEnd {s : State} {core : CoreId} {ctx : CtxId} (h : Safe.memories s) :
    Safe.next (execActivationEnd core ctx s) := by
  unfold execActivationEnd
  exact .of (.ite h.endKilled (.ite h.launchEnded.updCtx h))

theorem Safe.memories.next_longResultReturn {s : State} {core : CoreId} {ctx : BankId} (h : Safe.memories s) :
    Safe.next (execLongResultReturn core ctx s) := by
  unfold execLongResultReturn
  refine .of ?_
  dsimp only
  split
  · exact .ite h.updCtx h
  · exact h

theorem Safe.memories.next_storeBufferDrain {s : State} {core : CoreId} {ctx : BankId} {i : Nat} (h : Safe.memories s) :
    Safe.next (execStoreBufferDrain core ctx i s) := by
  unfold execStoreBufferDrain
  refine .of ?_
  dsimp only
  split
  · exact .ite h.updCtx.perform h
  · exact h

theorem Safe.memories.next_verificationResolve {s : State} {core : CoreId} {ctx : CtxId} (h : Safe.memories s) :
    Safe.next (execVerificationResolve core ctx s) := by
  unfold execVerificationResolve
  refine .of ?_
  split
  · exact h.updCtx.orElse fun ht => ht.ctxIntegrity
  · exact h

/-! ### The outbox and the stream counter (R176, R178, R186, R286) -/

theorem Safe.memories.next_outboxSend {s : State} {core : CoreId} {ctx : CtxId} (h : Safe.memories s) :
    Safe.next (execOutboxSend core ctx s) := by
  unfold execOutboxSend
  refine .of ?_
  dsimp only
  split
  · exact .ite h.updCtx.sendEntry h
  · exact h

theorem Safe.memories.next_streamHalt {s : State} {core : CoreId} {slot : Fin 64} (h : Safe.memories s) :
    Safe.next (execStreamHalt core slot s) := by
  unfold execStreamHalt
  exact .of (.ite h.updCore.log h)

theorem Safe.memories.decHome {s : State} {src : CoreId} {e : OutEntry} {home : CoreId} {off : Nat} (h : Safe.memories s) :
    Safe.memories (s.decHome src e home off) := by
  unfold State.decHome
  exact (h.updScratch fun _ ht => Memory.wf_writeL _ ht _).orElse fun ht => .ite ht.log ht.pushTask

theorem Safe.memories.next_tdecHome {s : State} {i : Nat} (h : Safe.memories s) : Safe.next (execTdecHome i s) := by
  unfold execTdecHome
  refine .of ?_
  split
  · split
    · exact h.whenAwake fun _ ht => .ite ht.landed.credit.decHome ht.landed.credit.notOpened
    · exact h.landed
  · exact h

/-! ### Addresses (R318) -/

theorem Safe.memories.extArm {s : State} {fn : FuncId} {addr : Word} {n : Nat} (h : Safe.memories s) :
    Safe.memories (s.extArm fn addr n) := by
  unfold State.extArm
  split
  · refine .inject ?_
    split
    · exact h.wakeCluster
    · exact h
  · exact h

theorem Safe.memories.blockStore {s : State} {fn : FuncId} {c : ClusterId} {off : Nat} {w : Word} (h : Safe.memories s) :
    Safe.memories (s.blockStore fn c off w) := by
  unfold State.blockStore
  exact .ite h.wakeCluster.updCluster h.updCluster

theorem Safe.memories.settled {s : State} {c : ClusterId} (h : Safe.memories s) : Safe.memories (s.settled c) := by
  unfold State.settled
  exact h.updCluster.orElse fun ht => ht.updCluster.foldl fun _ _ hu => hu.updCluster

theorem Safe.memories.regStore {s : State} {fn : FuncId} {pa : Nat} {w : Word} (h : Safe.memories s) :
    Safe.memories (s.regStore fn pa w) := by
  unfold State.regStore
  split
  · exact h.blockStore
  · exact .ite h.devWrite h

theorem Safe.memories.extPut {s : State} {fn : FuncId} {pa : Nat} {bs : List Byte} (h : Safe.memories s) :
    Safe.memories (s.extPut fn pa bs) := by
  unfold State.extPut
  exact .ite (h.foldl fun _ _ ht => ht.regStore) h.writePhys

theorem Safe.memories.extWrite {s : State} {fn : FuncId} {addr : Word} {bs : List Byte} (h : Safe.memories s) :
    Safe.given Safe.memories (s.extWrite fn addr bs) := by
  unfold State.extWrite
  exact .map fun _ _ => h.extPut

theorem Safe.memories.addSignal {s : State} {fn : FuncId} {addr : Word} {n : Word} (h : Safe.memories s) :
    Safe.memories (s.addSignal fn addr n) := by
  unfold State.addSignal
  refine .ite h ?_
  dsimp only
  split
  · exact h.extArm.getD h.extArm.extWrite
  · exact h.extArm

/-! ### Completion queues (R210, R328) -/

theorem Safe.memories.updCpl {s : State} {q : QueueId} {f : CplQueue → CplQueue} (h : Safe.memories s) :
    Safe.memories (s.updCpl q f) := h.updHost

theorem Safe.memories.noteRecord {s : State} {cue : Option Word} {at0 : BitVec 32} (h : Safe.memories s) :
    Safe.memories (s.noteRecord cue at0) := by
  unfold State.noteRecord
  split
  · exact h
  · dsimp only
    split
    · exact h.updDie
    · exact h

theorem Safe.memories.postNow {s : State} {n : QueueId} {r : Vector Word 4} {cue : Option Word} (h : Safe.memories s) :
    Safe.memories (s.postNow n r cue) := by
  unfold State.postNow
  exact ((h.noteRecord.getD h.noteRecord.extWrite).updCpl.andThen fun ht => ht.getD ht.extWrite).raise

theorem Safe.memories.post {s : State} {d : DieId} {q : QueueId} {r : Vector Word 4} {cue : Option Word} (h : Safe.memories s) :
    Safe.memories (s.post d q r cue) := by
  unfold State.post
  exact .ite h.postNow h.updDie

theorem Safe.memories.postHeld {s : State} {q : QueueId} {n : Nat} (h : Safe.memories s) : Safe.memories (s.postHeld q n) := by
  induction n generalizing s with
  | zero => exact h
  | succ n ih =>
    unfold State.postHeld
    refine .ite ?_ h
    split
    · split
      · exact ih h.updDie.postNow
      · exact h
    · exact h

/-! ### Queues and threads -/

theorem Safe.memories.updCmd {s : State} {q : QueueId} {f : CmdQueue → CmdQueue} (h : Safe.memories s) :
    Safe.memories (s.updCmd q f) := h.updHost

theorem Safe.memories.updThread {s : State} {d : DieId} {q : QueueId} {f : Thread → Thread} (h : Safe.memories s) :
    Safe.memories (s.updThread d q f) := h.updDie

theorem Safe.memories.setThread {s : State} {d : DieId} {q : QueueId} {st : ThreadState} (h : Safe.memories s) :
    Safe.memories (s.setThread d q st) := h.updThread

theorem Safe.memories.next_queueDoorbell {s : State} {q : QueueId} {tail : BitVec 32} (h : Safe.memories s) :
    Safe.next (execQueueDoorbell q tail s) := by
  unfold execQueueDoorbell
  exact .of h.updCmd

theorem Safe.memories.next_queueRun {s : State} {q : QueueId} (h : Safe.memories s) : Safe.next (execQueueRun q s) := by
  unfold execQueueRun
  exact .of h.updCmd

/-! ### Packets (R321, R322) -/

theorem Safe.memories.stopQueue {s : State} {q : QueueId} {reason : BitVec 4} (h : Safe.memories s) :
    Safe.memories (s.stopQueue q reason) := h.updCmd.raise

theorem Safe.memories.next_packetFetch {s : State} {die : DieId} {q : QueueId} (h : Safe.memories s) :
    Safe.next (execPacketFetch die q s) := by
  unfold execPacketFetch
  refine .of (.ite h (.ite h.updThread ?_))
  dsimp only
  split
  · exact h.extArm.stopQueue
  · exact h.extArm.updThread

/-! ### Completion (R321) -/

theorem Safe.memories.putStatus {s : State} {fn : FuncId} {slots : Vector Word 16} {st : CmdStatus} {result : Nat}
    (h : Safe.memories s) :
    Safe.memories (s.putStatus fn slots st result) := by
  unfold State.putStatus
  exact .ite h (h.getD h.extWrite)

theorem Safe.memories.completed {s : State} {q : QueueId} {slots : Vector Word 16} (h : Safe.memories s) :
    Safe.memories (s.completed q slots) := by
  unfold State.completed
  exact .ite h.raise h

theorem Safe.memories.partDone {s : State} {q : QueueId} {seq : BitVec 32} {slots : Vector Word 16} {st : CmdStatus} {result : Nat}
    (h : Safe.memories s) :
    Safe.memories (s.partDone q seq slots st result) := by
  unfold State.partDone
  exact h.putStatus.addSignal.updCmd.andThen fun ht => ht.completed

theorem Safe.memories.endPart {s : State} {d : DieId} {q : QueueId} {p : Packet} {st : CmdStatus} {result : Nat} (h : Safe.memories s) :
    Safe.memories (s.endPart d q p st result) := h.setThread.partDone

theorem Safe.memories.endOne {s : State} {q : QueueId} {slots : Vector Word 16} {st : CmdStatus} {result : Nat} (h : Safe.memories s) :
    Safe.memories (s.endOne q slots st result) := h.putStatus.addSignal.completed

theorem Safe.memories.perform1 {s : State} {d : DieId} {q : QueueId} {opc : Nat}
    {act : State → Packet → State × Option (CmdStatus × Nat)} (h : Safe.memories s) (hact : ∀ t x, Safe.memories t → Safe.memories
      (act t x).1) :
    Safe.memories (s.perform1 d q opc act) := by
  unfold State.perform1
  split
  · exact h
  · dsimp only
    split
    · refine h.setThread.extArm.orElse fun ht => ?_
      split
      · split
        · exact ((hact _ _ (ht.extWrite.of_eq_some ‹_›)).fst ‹_›).endOne
        · exact (hact _ _ (ht.extWrite.of_eq_some ‹_›)).fst ‹_›
      · exact ht.partDone
    · exact h.setThread.extArm.partDone

/-! ### COND, WAIT (R324, R325) -/

theorem Safe.memories.passCond {s : State} {d : DieId} {q : QueueId} {p : Packet} {w : Word} (h : Safe.memories s) :
    Safe.memories (s.passCond d q p w) := by
  unfold State.passCond
  exact .ite h.updThread.endPart h.updThread.endPart

theorem Safe.memories.next_cond {s : State} {die : DieId} {q : QueueId} (h : Safe.memories s) : Safe.next (execCond die q s) := by
  unfold execCond
  refine .of ?_
  split
  · exact h
  · dsimp only
    split
    · exact h.endPart
    · split
      · exact h.extArm.endPart
      · refine .ite h.extArm.passCond ?_
        split
        · exact (h.extArm.extArm.extWrite.of_eq_some ‹_›).passCond
        · exact h.extArm.extArm.endPart

theorem Safe.memories.next_wait {s : State} {die : DieId} {q : QueueId} (h : Safe.memories s) : Safe.next (execWait die q s) := by
  unfold execWait
  refine .of ?_
  split
  · exact h
  · exact .ite h.endPart h.setThread

theorem Safe.memories.next_waitConditionMet {s : State} {die : DieId} {q : QueueId} (h : Safe.memories s) :
    Safe.next (execWaitConditionMet die q s) := by
  unfold execWaitConditionMet
  refine .of ?_
  split
  · dsimp only
    split
    · exact h.extArm.andThen fun ht => ht.endPart
    · exact h.extArm.endPart
  · exact h

/-! ### FENCE, SIGNAL (R325) -/

theorem Safe.memories.meet {s : State} {d : DieId} {q : QueueId} {p : Packet} (h : Safe.memories s) :
    Safe.memories (s.meet d q p) := by
  unfold State.meet
  refine .ite h.setThread ?_
  dsimp only
  split
  · split
    · exact (h.extArm.extWrite.of_eq_some ‹_›).setThread
    · exact h.extArm.endPart
  · exact h.extArm.endPart

theorem Safe.memories.fenceStep {s : State} {d : DieId} {q : QueueId} {opc : Nat} (h : Safe.memories s) :
    Safe.memories (s.fenceStep d q opc) := by
  unfold State.fenceStep
  split
  · exact .ite h.meet h
  · exact .ite h.meet h
  · exact h

theorem Safe.memories.next_signal {s : State} {die : DieId} {q : QueueId} (h : Safe.memories s) :
    Safe.next (execSignal die q s) := by
  unfold execSignal
  exact .of h.fenceStep

theorem Safe.memories.next_queueFence {s : State} {die : DieId} {q : QueueId} (h : Safe.memories s) :
    Safe.next (execQueueFence die q s) := by
  unfold execQueueFence
  exact .of h.fenceStep

theorem Safe.memories.next_queueFenceComplete {s : State} {die : DieId} {q : QueueId} (h : Safe.memories s) :
    Safe.next (execQueueFenceComplete die q s) := by
  unfold execQueueFenceComplete
  refine .of ?_
  split
  · dsimp only
    split
    · refine h.extArm.orElse fun ht => .ite ht.endPart (ht.setThread.orElse fun hu => ?_)
      split
      · split
        · split
          · exact ((hu.extWrite.of_eq_some ‹_›).extArm.extWrite.of_eq_some ‹_›).endOne
          · exact (hu.extWrite.of_eq_some ‹_›).extArm.endOne
        · exact (hu.extWrite.of_eq_some ‹_›).extArm.endOne
      · exact hu.endOne
    · exact h.extArm.endPart
  · exact h

theorem Safe.memories.makeRegion {s : State} {pa n level : Nat} (h : Safe.memories s) : Safe.memories (s.makeRegion pa n level) :=
  h.setSlot.setSlot.setSlot.setSlot.other

theorem Safe.memories.createRegion {s : State} {fn : FuncId} {p : Packet} (h : Safe.memories s) :
    Safe.memories (s.createRegion fn p).1 := by
  unfold State.createRegion
  refine .ite_fst h (.ite_fst h ?_)
  dsimp only
  split
  · refine .ite_fst h.extArm (.ite_fst h.extArm ?_)
    split
    · exact h.extArm
    · exact h.extArm.makeRegion
  · exact h.extArm

theorem Safe.memories.next_regionCreate {s : State} {die : DieId} {q : QueueId} (h : Safe.memories s) :
    Safe.next (execRegionCreate die q s) := by
  unfold execRegionCreate
  exact .of (h.perform1 fun _ _ ht => ht.createRegion)

theorem Safe.memories.killRegionAt {s : State} {fn : FuncId} {p : Packet} (h : Safe.memories s) :
    Safe.memories (s.killRegionAt fn p).1 := by
  unfold State.killRegionAt
  split
  · exact h
  · exact .ite_fst h h.killFaultDomain

theorem Safe.memories.next_regionKill {s : State} {die : DieId} {q : QueueId} (h : Safe.memories s) :
    Safe.next (execRegionKill die q s) := by
  unfold execRegionKill
  exact .of (h.perform1 fun _ _ ht => ht.killRegionAt)

theorem Safe.memories.updPart {s : State} {p : PartId} {f : Partition → Partition} (h : Safe.memories s) :
    Safe.memories (s.updPart p f) := h.other

theorem Safe.memories.takeRecord {s : State} {p : PartId} (h : Safe.memories s) : Safe.memories (s.takeRecord p) := h.updPart

theorem Safe.memories.perform1Own {s : State} {d : DieId} {q : QueueId} {opc : Nat}
    {act : State → Packet → PartId → State × Option (CmdStatus × Nat)} (h : Safe.memories s)
      (hact : ∀ t x y, Safe.memories t → Safe.memories (act t x y).1) :
    Safe.memories (s.perform1Own d q opc act) := by
  unfold State.perform1Own
  refine h.perform1 fun _ _ ht => ?_
  split
  · exact hact _ _ _ ht
  · exact ht

/-! ### DOMAIN_CREATE, MEASURE (R278, R293) -/

theorem Safe.memories.freshDomain {s : State} {t : Tag} (h : Safe.memories s) : Safe.memories (s.freshDomain t) := by
  unfold State.freshDomain
  exact h.mapCores fun _ he => he

theorem Safe.memories.makeDomain {s : State} {part : PartId} {t : Tag} {plan : List Window} {ws : List Word} (h : Safe.memories s) :
    Safe.memories (s.makeDomain part t plan ws) := h.freshDomain.other.updPart.takeRecord

theorem Safe.memories.createDomain {s : State} {fn : FuncId} {p : Packet} {part : PartId} {t : Tag} (h : Safe.memories s) :
    Safe.memories (s.createDomain fn p part t).1 := by
  unfold State.createDomain
  refine .ite_fst h (.ite_fst h ?_)
  dsimp only
  split
  · exact h.extArm
  · exact .ite_fst h.extArm h.extArm.makeDomain

theorem Safe.memories.next_domainCreate {s : State} {die : DieId} {q : QueueId} {tag : Tag} (h : Safe.memories s) :
    Safe.next (execDomainCreate die q tag s) := by
  unfold execDomainCreate
  exact .of (.ite (h.perform1Own fun _ _ _ ht => ht.createDomain) h)

theorem Safe.memories.measure {s : State} {fn : FuncId} {p : Packet} {part : PartId} (h : Safe.memories s) :
    Safe.memories (s.measure fn p part).1 := by
  unfold State.measure
  refine .ite_fst h ?_
  dsimp only
  split
  · exact h.extArm
  · exact h.extArm.updPart.takeRecord

theorem Safe.memories.next_measure {s : State} {die : DieId} {q : QueueId} (h : Safe.memories s) :
    Safe.next (execMeasure die q s) := by
  unfold execMeasure
  exact .of (h.perform1Own fun _ _ _ ht => ht.measure)

/-! ### LOCK, START (R292) -/

theorem Safe.memories.flow {s : State} {d : DieId} {q : QueueId} {sel : Nat}
    {act : State → Packet → PartId → State × Option (CmdStatus × Nat)} (h : Safe.memories s)
      (hact : ∀ t x y, Safe.memories t → Safe.memories (act t x y).1) :
    Safe.memories (s.flow d q sel act) := by
  unfold State.flow
  split
  · exact .ite (h.perform1Own fun _ _ _ ht => hact _ _ _ ht) h
  · exact h

theorem Safe.memories.lock {s : State} {fn : FuncId} {p : Packet} {part : PartId} (h : Safe.memories s) :
    Safe.memories (s.lock fn p part).1 := by
  unfold State.lock
  refine .ite_fst h ?_
  dsimp only
  split
  · exact h
  · exact (h.extWrite.of_eq_some ‹_›).other.updPart.takeRecord

theorem Safe.memories.next_lock {s : State} {die : DieId} {q : QueueId} (h : Safe.memories s) : Safe.next (execLock die q s) := by
  unfold execLock
  exact .of (h.flow fun _ _ _ ht => ht.lock)

theorem Safe.memories.startRun {s : State} {d : DieId} {fn : FuncId} {p : Packet} {part : PartId} (h : Safe.memories s) :
    Safe.memories (s.startRun d fn p part).1 := by
  unfold State.startRun
  refine .ite_fst h ?_
  dsimp only
  split
  · exact h.extArm
  · exact .ite_fst h.extArm.updPart.takeRecord h.extArm.log

theorem Safe.memories.next_start {s : State} {die : DieId} {q : QueueId} (h : Safe.memories s) : Safe.next (execStart die q s) := by
  unfold execStart
  exact .of (h.flow fun _ _ _ ht => ht.startRun)

/-! ### ATTEST (R293, R294) -/

theorem Safe.memories.attest {s : State} {fn : FuncId} {p : Packet} {part : PartId} (h : Safe.memories s) :
    Safe.memories (s.attest fn p part).1 := by
  unfold State.attest
  dsimp only
  split
  · exact h.extArm
  · split
    · exact h.extArm
    · exact (h.extArm.extWrite.of_eq_some ‹_›).updPart

theorem Safe.memories.next_attest {s : State} {die : DieId} {q : QueueId} (h : Safe.memories s) :
    Safe.next (execAttest die q s) := by
  unfold execAttest
  exact .of (h.flow fun _ _ _ ht => ht.attest)

/-! ### TEARDOWN and its scrub (R289, R295, R296, R369) -/

theorem Safe.memories.revokeGates {s : State} {t : Tag} (h : Safe.memories s) : Safe.memories (s.revokeGates t) := by
  unfold State.revokeGates
  split
  · exact h
  · exact h.foldl fun _ _ ht => .ite ht ht.setSlot

theorem Safe.memories.dropKeys {s : State} {p : Tag → Bool} (h : Safe.memories s) : Safe.memories (s.dropKeys p) := by
  unfold State.dropKeys
  exact .mapDies (.foldl h fun _ _ h => .foldl h fun _ _ h => h.zeroise) fun _ hx => hx

theorem Safe.memories.setPhase {s : State} {part : PartId} {n : BitVec 3} (h : Safe.memories s) :
    Safe.memories (s.setPhase part n) := h.updPart

theorem Safe.memories.tearDown {s : State} {part : PartId} (h : Safe.memories s) : Safe.memories (s.tearDown part) :=
  ((h.foldl fun _ _ ht => ht.killDomain).foldl fun _ _ ht => ht.revokeGates).dropKeys.updPart.setPhase

theorem Safe.memories.next_teardown {s : State} {die : DieId} {q : QueueId} (h : Safe.memories s) :
    Safe.next (execTeardown die q s) := by
  unfold execTeardown
  exact .of (h.flow fun _ _ _ ht => ht.tearDown)

theorem Safe.memories.clearWhere {s : State} {phase : Nat} {hit : Nat → Bool} (h : Safe.memories s) :
    Safe.memories (s.clearWhere phase hit) := by
  unfold State.clearWhere
  exact .ite (h.foldl fun _ _ ht => ht.updScratch fun _ hq => Memory.wf_filter hq _) (h.withMem (Memory.wf_filter h.1 _))

theorem Safe.memories.scrubTo {s : State} {part : PartId} {n : Nat} (h : Safe.memories s) : Safe.memories (s.scrubTo part n) :=
  h.clearWhere

theorem Safe.memories.scrubWhole {s : State} {part : PartId} (h : Safe.memories s) : Safe.memories (s.scrubWhole part) := h.clearWhere

theorem Safe.memories.scrubMore {s : State} {part : PartId} {lines : Nat} (h : Safe.memories s) :
    Safe.memories (s.scrubMore part lines) := by
  unfold State.scrubMore
  exact .ite h.scrubTo.updPart h

theorem Safe.memories.dropGates {s : State} {t : Tag} (h : Safe.memories s) : Safe.memories (s.dropGates t) := by
  unfold State.dropGates
  dsimp only
  have hc : Safe.memories (match s.gateEntry t 0 with
      | some pa => { s with
          mem := (s.mem.clear pa 16384).clear (0xBFF0000000 + 8 * t.toNat) 8
          published := s.published.filter (fun e => e.1 / 256 ≠ t.toNat)
          revoking := s.revoking.filter (fun e => e.1 / 256 ≠ t.toNat) }
      | none => s) := by
    split
    · exact h.withMem (Memory.wf_clear (Memory.wf_clear h.1 _ _) _ _)
    · exact h
  split
  · exact hc.other
  · exact hc

theorem Safe.memories.scrubRest {s : State} {part : PartId} (h : Safe.memories s) : Safe.memories (s.scrubRest part) := by
  unfold State.scrubRest
  refine .foldl (.foldl (.other (.foldl h fun _ _ ht => ?_)) fun _ _ ht => ht.updCore) fun _ _ ht => ht.dropGates
  exact ht.updAcc fun _ hx => Troupe.scrub_wf hx _

theorem Safe.memories.disarm {s : State} {part : PartId} (h : Safe.memories s) : Safe.memories (s.disarm part) :=
  h.foldl fun _ _ ht => ht.updCore

theorem Safe.memories.dropRegions {s : State} {part : PartId} (h : Safe.memories s) : Safe.memories (s.dropRegions part) := h.other

theorem Safe.memories.next_scrubPhaseDone {s : State} {part : PartId} (h : Safe.memories s) :
    Safe.next (execScrubPhaseDone part s) := by
  unfold execScrubPhaseDone
  refine .of (.ite h ?_)
  split
  · exact h.setPhase
  · exact h.scrubWhole.setPhase
  · exact h.scrubWhole.setPhase
  · exact h.disarm.dropRegions.scrubWhole.scrubRest.setPhase
  · exact h

theorem Safe.memories.restartScrub {s : State} {part : PartId} (h : Safe.memories s) : Safe.memories (s.restartScrub part) :=
  h.dropKeys.updPart.setPhase

theorem Safe.memories.next_functionLevelReset {s : State} {part : PartId} (h : Safe.memories s) :
    Safe.next (execFunctionLevelReset part s) := by
  unfold execFunctionLevelReset
  exact .of (.ite h.restartScrub h)

/-! ### PARTITION_SET (R323) -/

theorem Safe.memories.partitionSet {s : State} {d : DieId} {q : QueueId} {sel : Nat → Bool}
    {act : State → Packet → PartId → State × Option (CmdStatus × Nat)} (h : Safe.memories s)
      (hact : ∀ t x y, Safe.memories t → Safe.memories (act t x y).1) :
    Safe.memories (s.partitionSet d q sel act) := by
  unfold State.partitionSet
  split
  · exact h
  · refine .ite h (h.perform1 fun _ _ ht => ?_)
    dsimp only
    split
    · exact ht
    · exact hact _ _ _ ht

theorem Safe.memories.assign {s : State} {p : Packet} {part : PartId} (h : Safe.memories s) : Safe.memories (s.assign p part).1 := by
  unfold State.assign
  dsimp only
  split
  · exact h
  · split
    · exact h
    · split
      · exact h
      · dsimp only
        exact .regate h.updPart

theorem Safe.memories.next_assign {s : State} {die : DieId} {q : QueueId} (h : Safe.memories s) :
    Safe.next (execAssign die q s) := by
  unfold execAssign
  exact .of (h.partitionSet fun _ _ _ ht => ht.assign)

theorem Safe.memories.setReplayMode {s : State} {part : PartId} {on : Bool} (h : Safe.memories s) :
    Safe.memories (s.setReplayMode part on).1 := by
  unfold State.setReplayMode
  exact .ite_fst h h.updPart

theorem Safe.memories.next_setReplay {s : State} {die : DieId} {q : QueueId} (h : Safe.memories s) :
    Safe.next (execSetReplay die q s) := by
  unfold execSetReplay
  exact .of (h.partitionSet fun _ _ _ ht => ht.setReplayMode)

theorem Safe.memories.next_clearReplay {s : State} {die : DieId} {q : QueueId} (h : Safe.memories s) :
    Safe.next (execClearReplay die q s) := by
  unfold execClearReplay
  exact .of (h.partitionSet fun _ _ _ ht => ht.setReplayMode)

/-! ### The executing hart -/

theorem Safe.memories.updHart {s : State} {f : Thread → Thread} (h : Safe.memories s) : Safe.memories (s.updHart f) := h.updThread

theorem Safe.memories.hartNext {s : State} {rd : Fin 32} {v : Word} (h : Safe.memories s) : Safe.memories (s.hartNext rd v) := h.updHart

theorem Safe.memories.hartTrap {s : State} {cause : Nat} {val : Word} (h : Safe.memories s) :
    Safe.memories (s.hartTrap cause val) := h.updHart

/-! ### WAITP -/

theorem Safe.memories.next_waitpQ {s : State} {rd : Fin 32} (h : Safe.memories s) : Safe.next (execWaitpQ rd s) := by
  unfold execWaitpQ
  exact .of (.ite h h.hartNext)

theorem Safe.memories.waitMem {s : State} {rd rs1 rs2 : Fin 32} {test : Word → Word → Bool} (h : Safe.memories s) :
    Safe.memories (s.waitMem rd rs1 rs2 test) := by
  unfold State.waitMem
  refine .ite h.hartTrap ?_
  split
  · exact h.hartTrap
  · exact .ite h.hartNext h

theorem Safe.memories.next_waitpGeu {s : State} {rd rs1 rs2 : Fin 32} (h : Safe.memories s) :
    Safe.next (execWaitpGeu rd rs1 rs2 s) := by
  unfold execWaitpGeu
  exact .of h.waitMem

theorem Safe.memories.next_waitpNe {s : State} {rd rs1 rs2 : Fin 32} (h : Safe.memories s) :
    Safe.next (execWaitpNe rd rs1 rs2 s) := by
  unfold execWaitpNe
  exact .of h.waitMem

/-! ### Measurement and boot (R293, R337 to R339) -/

theorem Safe.memories.measureBoot {s : State} {i : Fin 5} {digest : BitVec 256} (h : Safe.memories s) :
    Safe.memories (s.measureBoot i digest) := h.updHost

theorem Safe.memories.acceptImage {s : State} {i : Fin 3} {bs : List Byte} {owner : Bool} (h : Safe.memories s) :
    Safe.memories (s.acceptImage i bs owner) := h.measureBoot.updBoot

theorem Safe.memories.needImage {s : State} {low : Bool} (h : Safe.memories s) : Safe.memories (s.needImage low) := h.updBoot

theorem Safe.memories.bootRom {s : State} (h : Safe.memories s) : Safe.memories s.bootRom := by
  unfold State.bootRom
  dsimp only
  split
  · exact h.measureBoot.measureBoot.measureBoot.acceptImage.updBoot
  · exact h.measureBoot.measureBoot.measureBoot.acceptImage.updBoot
  · exact h.measureBoot.measureBoot.measureBoot.needImage

theorem Safe.memories.verifyLater {s : State} {i : Fin 3} (h : Safe.memories s) : Safe.memories (s.verifyLater i) := by
  unfold State.verifyLater
  refine .ite h ?_
  dsimp only
  split
  · exact h.acceptImage
  · exact h.needImage

theorem Safe.memories.stageOne {s : State} (h : Safe.memories s) : Safe.memories s.stageOne := by
  unfold State.stageOne
  exact h.verifyLater.verifyLater.orElse fun ht => ht.updBoot

theorem Safe.memories.reset : Safe.memories State.reset :=
  ⟨rfl, List.forall_mem_nil _, List.forall_mem_nil _, fun d => by
    have hd : State.reset.dies[d] = Die.reset := Vector.getElem_replicate ..
    rw [hd]; rfl, rfl⟩

theorem Safe.memories.next_coldStart {s : State} (h : Safe.memories s) : Safe.next (execColdStart s) := by
  unfold execColdStart
  obtain ⟨_, hcores, htroupes, hdies, _⟩ := Safe.memories.reset
  exact .of (Safe.memories.bootRom ⟨Memory.wf_filter h.1 _, hcores, htroupes, hdies, rfl⟩)

theorem Safe.memories.next_warmPackageReset {s : State} (h : Safe.memories s) : Safe.next (execWarmPackageReset s) := by
  unfold execWarmPackageReset
  obtain ⟨_, _, htroupes, hdies, _⟩ := Safe.memories.reset
  obtain ⟨hmem, hcores, _, _, harea⟩ := h
  refine .of (.andThen (.bootRom (.foldl ?_ fun _ _ ht => ht.restartScrub)) fun ht => ht.updHost.updBoot)
  exact ⟨hmem, List.forall_mem_map.mpr fun e he => hcores e he, htroupes, hdies, harea⟩

theorem Safe.memories.next_railFault {s : State} (h : Safe.memories s) : Safe.next (execRailFault s) := by
  unfold execRailFault
  obtain ⟨hmem, _, _, hdies, harea⟩ := h
  refine .of (.updBoot (.updHost ?_))
  exact ⟨hmem, List.forall_mem_nil _, List.forall_mem_nil _, forall_dies_map hdies fun _ hx => hx, harea⟩

theorem Safe.memories.next_bootRecoveryGo {s : State} {signed : Bool} (h : Safe.memories s) :
    Safe.next (execBootRecoveryGo signed s) := by
  unfold execBootRecoveryGo
  refine .of (.ite h ?_)
  dsimp only
  split
  · exact h.extArm.needImage
  · split
    · exact h.extArm.acceptImage.andThen fun ht => ht.updBoot
    · exact h.extArm.needImage

/-! ### The last stages (R299, R337, R343) -/

theorem Safe.memories.loadBody {s : State} {pa : Nat} {bs : List Byte} (h : Safe.memories s) : Safe.memories (s.loadBody pa bs) := by
  unfold State.loadBody
  exact .ite h.writePhys h

theorem Safe.memories.loadStageManager {s : State} (h : Safe.memories s) : Safe.memories s.loadStageManager := by
  unfold State.loadStageManager
  exact .ite (h.mapDies fun _ hx => Memory.wf_writeL _ hx _) (.ite h.loadBody h)

theorem Safe.memories.loadMonitor {s : State} (h : Safe.memories s) : Safe.memories s.loadMonitor :=
  h.loadBody

/-- The cores an image is released to keep their scratchpads. -/
theorem forall_mem_released {s : State} {l : List CoreId} {r : CoreId → Bool} {entry : Word} (h : Safe.memories s) :
    ∀ e ∈ l.map (fun c => (c.val, (s.core c).released (r c) entry)), e.2.scratch.wf = true :=
  List.forall_mem_map.mpr fun c _ => wf_scratch h c

theorem Safe.memories.ready {s : State} (h : Safe.memories s) : Safe.memories s.ready := by
  unfold State.ready
  have hs := h.loadStageManager.loadMonitor
  generalize s.loadStageManager.loadMonitor = t at hs
  dsimp only
  refine .foldl (.updBoot ?_) fun _ _ ht => ht.autoTrain
  obtain ⟨hmem, _, htroupes, hdies, harea⟩ := id hs
  generalize List.finRange 8192 = l
  exact ⟨hmem, forall_mem_released hs, htroupes, forall_dies_map hdies fun _ hx => hx, harea⟩

theorem Safe.memories.bootStep {s : State} (h : Safe.memories s) : Safe.memories s.bootStep := by
  unfold State.bootStep
  split
  · exact .ite h h.stageOne
  · exact .ite h h.ready
  · exact h

theorem Safe.memories.next_memoryClearComplete {s : State} (h : Safe.memories s) : Safe.next (execMemoryClearComplete s) := by
  unfold execMemoryClearComplete
  obtain ⟨hmem, hcores, htroupes, hdies, harea⟩ := h
  refine .of (.ite ⟨hmem, hcores, htroupes, hdies, harea⟩ (.updBoot ⟨Memory.wf_filter hmem _, ?_, ?_, hdies, harea⟩))
  · exact List.forall_mem_map.mpr fun _ _ => rfl
  · exact List.forall_mem_map.mpr fun _ _ => rfl

/-! ### HBM training (R340 to R342) -/

theorem Safe.memories.next_hbmStepGo {s : State} {stack : Fin 12} {step : BitVec 4} (h : Safe.memories s) :
    Safe.next (execHbmStepGo stack step s) := by
  unfold execHbmStepGo
  exact .of (.ite h h.updHbm)

theorem Safe.memories.afterStep {s : State} {stack : Fin 12} (h : Safe.memories s) : Safe.memories (s.afterStep stack) := by
  unfold State.afterStep
  exact .ite h (.ite h.updBoot (.ite h.updBoot h))

theorem Safe.memories.next_hbmStepDone {s : State} {stack : Fin 12} {pass : BitVec 32} {data : List Byte} (h : Safe.memories s) :
    Safe.next (execHbmStepDone stack pass data s) := by
  unfold execHbmStepDone
  exact .of (.ite h h.updHbm.afterStep)

theorem Safe.memories.next_hbmRetrain {s : State} {_stack : Fin 12} {_channel : Fin 32} (h : Safe.memories s) :
    Safe.next (execHbmRetrain _stack _channel s) := by
  unfold execHbmRetrain
  exact .of h

theorem Safe.memories.fetchParcel {s : State} {a : Word} (h : Safe.memories s) : Safe.ends (fun _ => True) (s.fetchParcel a) := by
  unfold State.fetchParcel
  refine .ite .trap (.check h.checkSpace fun _ => ?_)
  split
  · refine .ite .trap (.ite .fire ?_)
    split
    · exact .ite .trap (.halt h.consumePoison)
    · refine .ite (.halt h.ctxIntegrity) ?_
      split <;> exact .ok trivial
  · exact .trap

theorem Safe.memories.fetchFrom {s : State} {pc : Word} {got : List Parcel} {n : Nat} (h : Safe.memories s) :
    Safe.ends (fun _ => True) (s.fetchFrom pc got n) := by
  induction n generalizing got with
  | zero => exact .ok trivial
  | succ n ih =>
    unfold State.fetchFrom
    refine .check h.fetchParcel fun _ => ?_
    split
    · exact .ok trivial
    · exact ih

theorem Safe.memories.fetch {s : State} (h : Safe.memories s) : Safe.ends (fun _ => True) s.fetch := by
  unfold State.fetch
  dsimp only
  split
  · exact .trap
  · exact .ok trivial
  · exact h.fetchFrom

/-! ### FP events (R111 to R114) -/

theorem Safe.memories.sendNotice {s : State} {c : CoreId} {k : CtxId} (h : Safe.memories s) : Safe.memories (s.sendNotice c k) := by
  unfold State.sendNotice
  dsimp only
  split
  · exact .ite h h.counted.updCtx.send
  · exact h

theorem Safe.memories.next_fpEvent {s : State} {core : CoreId} {ctx : CtxId} (h : Safe.memories s) :
    Safe.next (execFpEvent core ctx s) := by
  unfold execFpEvent
  exact .of (.ite h (h.updCtx.sendNotice.andThen fun ht => ht.stopCtx.stopEntry))

theorem Safe.memories.next_fpNoticeRetry {s : State} {core : CoreId} {ctx : CtxId} (h : Safe.memories s) :
    Safe.next (execFpNoticeRetry core ctx s) := by
  unfold execFpNoticeRetry
  exact .of h.sendNotice

theorem Safe.memories.serveAnswer {s : State} {c : CoreId} {kind : Nat} {act : State → CtxId → FpEvent → Bool → State}
    (h : Safe.memories s) (hact : ∀ t x y z, Safe.memories t → Safe.memories (act t x y z)) :
    Safe.memories (s.serveAnswer c kind act) := by
  unfold State.serveAnswer
  dsimp only
  split
  · have hq := Core.entryDue_wf (wf_scratch h c) ‹_›
    split
    · refine .ite h ?_
      split
      · exact .ite (hact _ _ _ _ (h.setCore hq)) (h.setCore hq)
      · exact h.setCore hq
    · exact h
  · exact h

theorem Safe.memories.next_fpResume {s : State} {core : CoreId} (h : Safe.memories s) : Safe.next (execFpResume core s) := by
  unfold execFpResume
  exact .of (h.serveAnswer fun _ _ _ _ ht => ht.updCtx)

theorem Safe.memories.next_fpKill {s : State} {core : CoreId} (h : Safe.memories s) : Safe.next (execFpKill core s) := by
  unfold execFpKill
  exact .of (h.serveAnswer fun _ _ _ _ ht => .ite ht.updCtx.killCtx ht.updCtx.unwind)

/-! ### M-mode entry (R213) -/

theorem Safe.memories.next_mmodeEntry {s : State} {core : CoreId} (h : Safe.memories s) : Safe.next (execMmodeEntry core s) := by
  unfold execMmodeEntry
  exact .of (.ite h h.enterM)

/-! ### Stop requests (R271, R273) -/

theorem Safe.memories.next_preemptionNotice {s : State} {core : CoreId} {mask : BitVec 8} (h : Safe.memories s) :
    Safe.next (execPreemptionNotice core mask s) := by
  unfold execPreemptionNotice
  exact .of h.stopRequest

theorem Safe.memories.next_pmreqStop {s : State} {core : CoreId} {mask : BitVec 8} (h : Safe.memories s) :
    Safe.next (execPmreqStop core mask s) := by
  unfold execPmreqStop
  exact .of h.stopRequest

theorem Safe.memories.restart {s : State} {c : CoreId} {k : CtxId} (h : Safe.memories s) : Safe.memories (s.restart c k) := by
  unfold State.restart
  dsimp only
  split
  · exact h.updCore.startItem
  · exact h

theorem Safe.memories.safeStop {s : State} {c : CoreId} {k : CtxId} (h : Safe.memories s) : Safe.memories (s.safeStop c k) := by
  unfold State.safeStop
  refine .ite h (h.restart.orElse fun ht => .ite ht.stopCtx.stopEntry (ht.andThen fun _ => ?_))
  split
  · exact ht.stopCtx.stopEntry
  · exact ht

theorem Safe.memories.next_safePointStop {s : State} {core : CoreId} {ctx : CtxId} (h : Safe.memories s) :
    Safe.next (execSafePointStop core ctx s) := by
  unfold execSafePointStop
  exact .of h.safeStop

theorem Safe.memories.forceStop {s : State} {c : CoreId} {k : CtxId} (h : Safe.memories s) : Safe.memories (s.forceStop c k) := by
  unfold State.forceStop
  exact .ite h (h.restart.orElse fun ht => .ite ht.stopCtx (ht.orElse fun _ => ht.updCtx.drain.updCore.stopCtx))

theorem Safe.memories.next_forcedStop {s : State} {core : CoreId} (h : Safe.memories s) : Safe.next (execForcedStop core s) := by
  unfold execForcedStop
  exact .of (.ite (h.foldl fun _ _ ht => ht.forceStop).stopEntry h)

theorem Safe.memories.next_pmreqFree {s : State} {core : CoreId} {mask : BitVec 8} (h : Safe.memories s) :
    Safe.next (execPmreqFree core mask s) := by
  unfold execPmreqFree
  exact .of h.freeCtxs

/-! ### Budgets (R263, R264, R274) -/

theorem Safe.memories.next_chargeFold {s : State} {region : BitVec 32} (h : Safe.memories s) :
    Safe.next (execChargeFold region s) := by
  unfold execChargeFold
  exact .of h.fold

theorem Safe.memories.next_budgetExhausted {s : State} {core : CoreId} (h : Safe.memories s) :
    Safe.next (execBudgetExhausted core s) := by
  unfold execBudgetExhausted
  exact .of h.foldCore.stopRequest

theorem Safe.memories.reopen {s : State} {c : CoreId} {r : BitVec 32} (h : Safe.memories s) : Safe.memories (s.reopen c r) := h.queueEntry

theorem Safe.memories.openWindow {s : State} {region : BitVec 32} (h : Safe.memories s) : Safe.memories (s.openWindow region) := by
  unfold State.openWindow
  split
  · exact .ite h (h.foldAll.setSlot.setSlot.foldl fun _ _ ht => ht.foldl fun _ _ hu => hu.reopen)
  · exact h

theorem Safe.memories.next_budgetWindowStart {s : State} {region : BitVec 32} (h : Safe.memories s) :
    Safe.next (execBudgetWindowStart region s) := by
  unfold execBudgetWindowStart
  exact .of h.openWindow

/-! ### Ceilings (R203) -/

theorem Safe.memories.next_ceilingExpiry {s : State} {core : CoreId} {ctx : CtxId} (h : Safe.memories s) :
    Safe.next (execCeilingExpiry core ctx s) := by
  unfold execCeilingExpiry
  refine .of ?_
  dsimp only
  split
  · exact h.unwind
  · exact h

/-! ### Rollback and retirement (R298, R299, R303) -/

theorem Safe.memories.retireCore {s : State} {c : CoreId} (h : Safe.memories s) : Safe.memories (s.retireCore c) := by
  unfold State.retireCore
  refine .log (.updDie (.updHost (.foldl h.updCore fun _ _ ht => .ite ht.killFaultDomain ht)) fun _ => ?_)
  exact Die.learn_sram ..

theorem Safe.memories.persist {s : State} {c : CoreId} {k : CtxId} (h : Safe.memories s) : Safe.memories (s.persist c k) := by
  unfold State.persist
  dsimp only
  split
  · exact .andThen (.queueEntry (.log (.updCore (.rollbackCtx (.ite h.disband h))))) fun ht => ht.retireCore
  · exact .queueEntry (.log (.updCore (.rollbackCtx (.ite h.disband h))))

theorem Safe.memories.next_rollback {s : State} {core : CoreId} {ctx : CtxId} {persist : Bool} (h : Safe.memories s) :
    Safe.next (execRollback core ctx persist s) := by
  unfold execRollback
  refine .of (.ite h (.ite h.persist ?_))
  split
  · exact h.other.rollbackEvent
  · exact h.other.log.rollbackEvent

theorem Safe.memories.checkRetry {s : State} {c : CoreId} {k : CtxId} (h : Safe.memories s) : Safe.memories (s.checkRetry c k) := h.log

/-! ### Errors of SRAM words (R300) -/

theorem Safe.memories.softError {s : State} {site : SoftSite} {o : EccOutcome} (h : Safe.memories s) :
    Safe.memories (s.softError site o) := by
  unfold State.softError
  dsimp only
  refine .orElse ?_ fun ht => ?_
  · split
    · exact h
    · exact h.other
  · split
    · exact ht
    · exact ht.log
    · refine .log ?_
      split
      · exact h.other
      · exact ht.updCore
      · exact ht.updTroupe
      · exact ht.other

/-! ### The patrol scrub (R300) -/

theorem Safe.memories.scrubbed {s : State} {u : Nat} {o : EccOutcome} {injected : Bool} (h : Safe.memories s) :
    Safe.memories (s.scrubbed u o injected) := by
  unfold State.scrubbed
  split
  · exact h
  · exact h.log
  · exact .ite h h.other.log

theorem Safe.memories.next_patrolScrub {s : State} {pa : Nat} {o : EccOutcome} (h : Safe.memories s) :
    Safe.next (execPatrolScrub pa o s) := by
  unfold execPatrolScrub
  refine .of (.ite h ?_)
  split
  · exact h.scrubbed
  · dsimp only
    split
    · exact h.updCore.scrubbed.other
    · exact h.updCore.scrubbed
    · exact h.updCore

/-! ### Cue numbers and streams (R206, R308) -/

theorem Safe.memories.setCueStream {s : State} {d : DieId} {slot : Nat} {q : CueStream} (h : Safe.memories s) :
    Safe.memories (s.setCueStream d slot q) := h.updDie

theorem Safe.memories.sendCue {s : State} {endpoint : BitVec 48} {d : DieId} {slot : Nat} {m : CueMessage} (h : Safe.memories s) :
    Safe.memories (s.sendCue endpoint d slot m) := by
  unfold State.sendCue
  dsimp only
  split
  · exact h.updHost.updLink
  · exact h.updHost

theorem Safe.memories.sendFlitOf {s : State} {d : DieId} {slot : Nat} {q : CueStream} {f : CueFlit} (h : Safe.memories s) :
    Safe.memories (s.sendFlitOf d slot q f) := h.sendCue

theorem Safe.memories.appendCue {s : State} {d : DieId} {slot : Nat} {q : CueStream} {e : Vector Word 4} (h : Safe.memories s) :
    Safe.memories (s.appendCue d slot q e) := h.writePhys.setCueStream

/-! ### CUE (R208) -/

theorem Safe.memories.cueWait {s : State} {d : DieId} {slot : Nat} {q : CueStream} (h : Safe.memories s) :
    Safe.memories (s.cueWait d slot q) := by
  unfold State.cueWait
  exact .updMe (.ite h.setCueStream.log h)

theorem Safe.memories.cueStep {s : State} {i : Instr} {d : GReg} {a : Fin 32} (h : Safe.memories s) :
    Safe.ends Safe.memories (s.cueStep i d a) := by
  unfold State.cueStep
  dsimp only
  split
  · exact .trap
  · refine .ite .trap (.ite .trap ?_)
    split
    · exact .ok (.noRestore (.writeG (.updRegs (.setCueStream (.ite h.updRegs.log h)))))
    · exact .ite (.halt h.updMe) (.ite (.halt (.cueWait (.ite h.updRegs h))) (.ok (.noRestore (.writeG (.appendCue (.ite h.updRegs h))))))

theorem Safe.memories.next_cue {s : State} {w : Pre} {d : GReg} {a : Fin 32} (h : Safe.memories s) :
    Safe.next (execCue w d a s) := by
  unfold execCue
  exact h.next_runInstr fun _ _ ht => ht.cueStep

/-! ### EMIT (R209) -/

theorem Safe.memories.emitPoll {s : State} {n : Word} (h : Safe.memories s) :
    Safe.given (fun r => Safe.ends Safe.memories r) (s.emitPoll n) := by
  unfold State.emitPoll
  split
  · exact .some .trap
  · refine .ite .none ?_
    split
    · exact .none
    · exact .ite (.some (.ok (h.drainMe.of_eq_ok ‹_›).setCueStream.post)) .none

theorem Safe.memories.next_emit {s : State} {w : Pre} {a b : GReg} (h : Safe.memories s) : Safe.next (execEmit w a b s) := by
  unfold execEmit
  refine h.next_keptOp (fun _ _ ht => ?_) fun _ _ ht => ht.emitPoll
  split
  · exact .trap
  · exact .ite .trap (.andThen ht.commitPoint fun _ hu => .ok hu)

/-! ### HPOST, RNG (R210, R211) -/

theorem Safe.memories.next_hpost {s : State} {w : Pre} {a : GReg} {b : Fin 32} (h : Safe.memories s) :
    Safe.next (execHpost w a b s) := by
  unfold execHpost
  exact h.next_runInstr fun _ _ ht => .dite (fun _ => .ite .trap (.andThen ht.releaseMe fun _ hv => .ite .blocked
    (.ok hv.post.noRestore))) fun _ => .trap

theorem Safe.memories.next_cueFlitSend {s : State} {die : DieId} {slot : Nat} (h : Safe.memories s) :
    Safe.next (execCueFlitSend die slot s) := by
  unfold execCueFlitSend
  refine .of ?_
  split
  · exact .ite h (.ite h.loseStream (.ite h.sendFlitOf.setCueStream h))
  · exact h

theorem Safe.memories.next_cueAck {s : State} {die : DieId} {slot : Nat} {endpoint : BitVec 48} {m : Nat} (h : Safe.memories s) :
    Safe.next (execCueAck die slot endpoint m s) := by
  unfold execCueAck
  refine .of ?_
  split
  · exact .ite h.setCueStream h
  · exact h

theorem Safe.memories.next_cueFlitResend {s : State} {die : DieId} {slot : Nat} (h : Safe.memories s) :
    Safe.next (execCueFlitResend die slot s) := by
  unfold execCueFlitResend
  refine .of ?_
  split
  · split
    · exact h
    · exact .ite h.loseStream h.sendFlitOf.setCueStream
    · exact h
  · exact h

/-! ### Memory of a domain -/

theorem Safe.memories.domWalk {s : State} {t : Tag} {va n : Nat} (h : Safe.memories s) : Safe.memories (s.domWalk t va n).1 := by
  induction n generalizing s with
  | zero => exact h
  | succ n ih =>
    unfold State.domWalk
    split
    · exact h
    · split
      · exact h.fireWalk.fst ‹_›
      · exact ih (h.fireWalk.fst ‹_›)
    · exact h

theorem Safe.memories.domPlace {s : State} {t : Tag} {va : Nat} {kind : Kind} (h : Safe.memories s) :
    Safe.memories (s.domPlace t va kind).1 := by
  unfold State.domPlace
  refine .ite_fst h ?_
  split
  · exact .ite_fst (h.domWalk.fst ‹_›) (.ite_fst (h.domWalk.fst ‹_›) (h.domWalk.fst ‹_›))
  · exact h.domWalk.fst ‹_›
  · exact h.domWalk.fst ‹_›

theorem Safe.memories.domRead {s : State} {t : Tag} {va n : Nat} (h : Safe.memories s) : Safe.memories (s.domRead t va n).1 := by
  unfold State.domRead
  refine h.foldl_fst fun _ _ ht => ?_
  split
  · exact ht
  · split
    · exact ht.domPlace.fst ‹_›
    · split
      exact .ite_fst ((ht.domPlace.fst ‹_›).inject.fst ‹_›) ((ht.domPlace.fst ‹_›).inject.fst ‹_›)

/-! ### The choice (R257, R258) -/

theorem Safe.memories.bucket {s : State} {t : Tag} {base b : Nat} (h : Safe.memories s) : Safe.memories (s.bucket t base b).1 := h.domRead

theorem Safe.memories.buckets {s : State} {t : Tag} {base n : Nat} (h : Safe.memories s) : Safe.memories (s.buckets t base n).1 := by
  unfold State.buckets
  refine h.foldl_fst fun _ _ ht => ?_
  split
  · exact ht
  · exact ht.bucket

theorem Safe.memories.chooseBucket {s : State} {t : Tag} {p : Packet} (h : Safe.memories s) :
    Safe.memories (s.chooseBucket t p).1 := by
  unfold State.chooseBucket
  refine .ite_fst h ?_
  split
  · exact h.domRead.fst ‹_›
  · exact .ite_fst (h.domRead.fst ‹_›) (h.domRead.fst ‹_›).buckets

theorem Safe.memories.launchDecision {s : State} {d : DieId} {p : Packet} (h : Safe.memories s) :
    Safe.memories (s.launchDecision d p).1 := by
  unfold State.launchDecision
  refine .ite_fst h ?_
  split <;> exact h.chooseBucket.fst ‹_›

/-! ### Seeding (R259, R260) -/

theorem Safe.memories.seed {s : State} {d : DieId} {q : QueueId} {p : Packet} {w : Word} {retired : List Nat} (h : Safe.memories s) :
    Safe.memories (s.seed d q p w retired) := by
  unfold State.seed
  dsimp only
  split
  · exact (h.bucket.fst ‹_›).endPart
  · exact .ite (h.bucket.fst ‹_›).endPart (h.bucket.fst ‹_›).setThread.updDie.other

theorem Safe.memories.launchShare {s : State} {d : DieId} {q : QueueId} {p : Packet} {w : Word} (h : Safe.memories s) :
    Safe.memories (s.launchShare d q p w) := by
  unfold State.launchShare
  refine .ite h.endPart (.ite h.endPart ?_)
  split
  · exact h.seed
  · exact h

theorem Safe.memories.next_launch {s : State} {die : DieId} {q : QueueId} (h : Safe.memories s) :
    Safe.next (execLaunch die q s) := by
  unfold execLaunch
  refine .of ?_
  split
  · exact h
  · refine .ite h.endPart (.ite h.endPart ?_)
    dsimp only
    split
    · exact h.extArm.endPart
    · refine .ite h.extArm.launchShare ?_
      split
      · exact h.extArm.launchDecision.endPart
      · exact .launchShare (.ite (h.extArm.launchDecision.extWrite.of_eq_some ‹_›).log (h.extArm.launchDecision.extWrite.of_eq_some ‹_›))

theorem Safe.memories.next_launchRetry {s : State} {die : DieId} (h : Safe.memories s) : Safe.next (execLaunchRetry die s) := by
  unfold execLaunchRetry
  exact .of h.updDie.other

theorem Safe.memories.next_launchShareComplete {s : State} {die : DieId} {i : Nat} (h : Safe.memories s) :
    Safe.next (execLaunchShareComplete die i s) := by
  unfold execLaunchShareComplete
  refine .of ?_
  split
  · exact .ite h.updDie.partDone h
  · exact h

/-! ### Blocks of a domain's memory -/

theorem Safe.memories.blockPlaces {s : State} {t : Tag} {va n : Nat} {kind : Kind} (h : Safe.memories s) :
    Safe.memories (s.blockPlaces t va n kind).1 := by
  unfold State.blockPlaces
  refine h.foldl_fst fun _ _ ht => ?_
  split
  · exact ht
  · dsimp only
    split
    · exact ht.domPlace.fst ‹_›
    · exact .ite_fst (ht.domPlace.fst ‹_›) (ht.domPlace.fst ‹_›)

theorem Safe.memories.putBlock {s : State} {t : Tag} {va : Nat} {bs : List Byte} {good : Bool} (h : Safe.memories s) :
    Safe.memories (s.putBlock t va bs good).1 := by
  unfold State.putBlock
  split
  · exact h.blockPlaces.fst ‹_›
  · refine (h.blockPlaces.fst ‹_›).foldl fun _ ⟨_, _⟩ ht => ?_
    split
    exact ht.writePhys.orElse fun hu => hu.other

theorem Safe.memories.getBlock {s : State} {t : Tag} {va n : Nat} (h : Safe.memories s) : Safe.memories (s.getBlock t va n).1 := by
  unfold State.getBlock
  split
  · exact h.blockPlaces.fst ‹_›
  · refine (h.blockPlaces.fst ‹_›).foldl_fst fun _ ⟨_, _⟩ ht => ?_
    split
    split
    exact (ht.inject.fst ‹_›).other

theorem Safe.memories.putCrc {s : State} {fn : FuncId} {arr : Word} {i : Nat} {bs : List Byte} {good : Bool} (h : Safe.memories s) :
    Safe.memories (s.putCrc fn arr i bs good).1 := by
  unfold State.putCrc
  refine .ite_fst h ?_
  dsimp only
  split
  · exact h.extWrite.of_eq_some ‹_›
  · exact h

theorem Safe.memories.toDevice {r : CopyRun} {fn : FuncId} {t : Tag} {va : Nat} {arr : Word} {i n : Nat} {got : Option (List Byte)}
    (h : Safe.memories r.s) : Safe.memories (r.toDevice fn t va arr i n got).s := by
  unfold CopyRun.toDevice
  dsimp only
  split
  · exact h.putBlock.fst ‹_›
  · exact h.putBlock.fst ‹_›

theorem Safe.memories.toHost {r : CopyRun} {fn : FuncId} {t : Tag} {va : Nat} {host arr : Word} {i n : Nat} {link : LinkAnswer}
    (h : Safe.memories r.s) : Safe.memories (r.toHost fn t va host arr i n link).s := by
  unfold CopyRun.toHost
  split
  · exact h.getBlock.fst ‹_›
  · have ht := h.getBlock.fst ‹_›
    split
    · exact Safe.memories.putCrc (Safe.given.of_eq_some (.ite ht.extWrite .none) ‹_›)
    · exact ht.putCrc

/-- The blocks of a copy keep the memories where each one does. -/
theorem foldl_run {α : Type} {r : CopyRun} {f : CopyRun → α → CopyRun} {l : List α} (h : Safe.memories r.s)
    (hf : ∀ r x, Safe.memories r.s → Safe.memories (f r x).s) : Safe.memories (l.foldl f r).s := by
  induction l generalizing r with
  | nil => exact h
  | cons x l ih => exact ih (hf r x h)

theorem Safe.memories.runHost {s : State} {fn : FuncId} {p : Packet} {next failed : Nat} {links : List LinkAnswer}
    (h : Safe.memories s) : Safe.memories (s.runHost fn p next failed links).s := by
  unfold State.runHost
  refine foldl_run h fun r x hr => ?_
  dsimp only
  split
  · exact hr
  · split
    · exact hr.toHost
    · exact hr.toDevice

/-! ### PEER_COPY (R333) -/

theorem Safe.memories.peerBytes {s : State} {fn : FuncId} {t : Tag} {va len : Nat} {arr : Word} (h : Safe.memories s) :
    Safe.memories (s.peerBytes fn t va len arr).1.s := by
  unfold State.peerBytes
  generalize hr : (({ s := s, failed := 0, stop := none }, []) : CopyRun × List Byte) = r
  have hs : Safe.memories r.1.s := by subst hr; exact h
  clear hr
  induction blocksOf len generalizing r with
  | nil => exact hs
  | cons b l ih =>
    refine ih _ ?_
    dsimp only
    split
    · exact hs
    · split
      · exact hs.getBlock.fst ‹_›
      · exact (hs.getBlock.fst ‹_›).putCrc

theorem Safe.memories.transfer {s : State} {k : Fin 16} {b : TransferBody} (h : Safe.memories s) :
    Safe.memories (s.transfer k b).1 := h.updHost.updLink

theorem Safe.memories.transferAll {s : State} {k : Fin 16} {l : List TransferBody} (h : Safe.memories s) :
    Safe.memories (s.transferAll k l).1 := h.foldl_fst fun _ _ ht => ht.transfer

theorem Safe.memories.peerJob {s : State} {d : DieId} {q : QueueId} {p : Packet} {tags : List Word} {failed : Nat}
    (h : Safe.memories s) :
    Safe.memories (s.peerJob d q p tags failed) := h.updHost

theorem Safe.memories.peerAnswered {s : State} {tag : Word} {failed : Nat} {fault : Bool} (h : Safe.memories s) :
    Safe.memories (s.peerAnswered tag failed fault) := by
  unfold State.peerAnswered
  split
  · exact h
  · exact .ite h.updHost.endOne h.updHost

/-! ### Translation faults of copies (R238, R326) -/

theorem Safe.memories.runWork {s : State} {d : DieId} {q : QueueId} {p : Packet} {w : CopyWork} (h : Safe.memories s) :
    Safe.memories (s.runWork d q p w).1 := by
  unfold State.runWork
  dsimp only
  split
  · split <;> exact h.runHost
  · split
    · exact h
    · split
      · exact h.peerBytes
      · exact h.peerBytes
      · exact h.peerBytes.transferAll.peerJob
  · split
    · refine foldl_run h fun r x hr => ?_
      split
      · exact hr
      · exact hr.toDevice
    · refine .peerAnswered (foldl_run h fun r x hr => ?_)
      split
      · exact hr
      · exact hr.toDevice

theorem Safe.memories.unresolved {s : State} {q : QueueId} {p : Packet} {w : CopyWork} (h : Safe.memories s) :
    Safe.memories (s.unresolved q p w) := by
  unfold State.unresolved
  split
  · exact h.endOne
  · exact h.endOne
  · exact h.peerAnswered

theorem Safe.memories.updCopy {s : State} {num : Nat} {f : HostCopy → HostCopy} (h : Safe.memories s) :
    Safe.memories (s.updCopy num f) := h.updHost

theorem Safe.memories.notifyCopy {s : State} {j : HostCopy} (h : Safe.memories s) : Safe.memories (s.notifyCopy j) := by
  unfold State.notifyCopy
  dsimp only
  split
  · exact h.other.updCopy.send
  · exact h

theorem Safe.memories.afterWork {s : State} {d : DieId} {q : QueueId} {p : Packet} {e : WorkEnd} {old : Option HostCopy}
    (h : Safe.memories s) :
    Safe.memories (s.afterWork d q p e old) := by
  unfold State.afterWork
  split
  · exact h.endOne
  · exact h
  · exact .ite h.unresolved h.updHost.notifyCopy

theorem Safe.memories.serveCopy {s : State} {num : Nat} (h : Safe.memories s) : Safe.memories (s.serveCopy num) := by
  unfold State.serveCopy
  split
  · exact h
  · exact .ite h.updHost.unresolved (.ite h.notifyCopy h.updHost.runWork.afterWork)

/-! ### The commands -/

theorem Safe.memories.next_copyHost {s : State} {die : DieId} {q : QueueId} {links : List LinkAnswer} (h : Safe.memories s) :
    Safe.next (execCopyHost die q links s) := by
  unfold execCopyHost
  refine .of (h.perform1 fun _ _ ht => ?_)
  split
  · exact ht
  · exact .ite_fst ht ht.runWork.afterWork

theorem Safe.memories.next_peerCopy {s : State} {die : DieId} {q : QueueId} (h : Safe.memories s) :
    Safe.next (execPeerCopy die q s) := by
  unfold execPeerCopy
  refine .of (h.perform1 fun _ _ ht => ?_)
  split
  split
  · exact ht
  · refine .ite_fst ht (.ite_fst ht ?_)
    split
    · exact ht
    · refine .ite_fst ht (.ite_fst ht.runWork.afterWork ?_)
      split
      exact (ht.transferAll.fst ‹_›).peerJob

theorem Safe.memories.peerData {s : State} {tag : Word} {off : Nat} {data : List Byte} (h : Safe.memories s) :
    Safe.memories (s.peerData tag off data) := by
  unfold State.peerData
  split
  · exact h
  · exact h.runWork.afterWork

/-! ### REGISTER (R308, R313) -/

theorem Safe.memories.loadJournal {s : State} {d : DieId} {slot : Nat} {ustudy : BitVec 48} {first : Nat} (h : Safe.memories s) :
    Safe.memories (s.loadJournal d slot ustudy first) := by
  unfold State.loadJournal
  split
  · exact h.transfer
  · exact h.transfer.loseStream

theorem Safe.memories.registerStream {s : State} {fn : FuncId} {p : Packet} {part : PartId} (h : Safe.memories s) :
    Safe.memories (s.registerStream fn p part).1 := by
  unfold State.registerStream
  refine .ite_fst h (.ite_fst h (.ite_fst h ?_))
  split
  · exact h
  · dsimp only
    exact .ite h.setCueStream.loadJournal h.setCueStream

theorem Safe.memories.next_register {s : State} {die : DieId} {q : QueueId} (h : Safe.memories s) :
    Safe.next (execRegister die q s) := by
  unfold execRegister
  exact .of (h.perform1Own fun _ _ _ ht => ht.registerStream)

theorem Safe.memories.journalLoaded {s : State} {d : DieId} {slot : Nat} {data : List Byte} (h : Safe.memories s) :
    Safe.memories (s.journalLoaded d slot data) := by
  unfold State.journalLoaded
  dsimp only
  split
  · exact h
  · exact (h.foldl fun _ _ ht => .ite ht ht.writePhys).setCueStream

/-! ### REASSIGN (R310) -/

theorem Safe.memories.moveJournal {s : State} {d : DieId} {slot : Nat} {ustudy : BitVec 48} (h : Safe.memories s) :
    Safe.memories (s.moveJournal d slot ustudy) := by
  unfold State.moveJournal
  split
  · exact h
  · exact .ite h.updHost.updLink h

theorem Safe.memories.reassignStream {s : State} {d : DieId} {slot : Nat} {old : CueStream} {ustudy : BitVec 48} (h : Safe.memories s) :
    Safe.memories (s.reassignStream d slot old ustudy) := by
  unfold State.reassignStream
  exact ((h.setCueStream.sendCue.foldl fun _ _ ht => ht.sendFlitOf).andThen fun ht => ht.sendCue).moveJournal

theorem Safe.memories.reassign {s : State} {fn : FuncId} {p : Packet} (h : Safe.memories s) : Safe.memories (s.reassign fn p).1 := by
  unfold State.reassign
  dsimp only
  split
  · exact h
  · exact h.foldl fun _ _ ht => ht.reassignStream

theorem Safe.memories.next_reassign {s : State} {die : DieId} {q : QueueId} (h : Safe.memories s) :
    Safe.next (execReassign die q s) := by
  unfold execReassign
  exact .of (h.perform1 fun _ _ ht => ht.reassign)

/-! ### TRUNC (R312) -/

theorem Safe.memories.trunc {s : State} {fn : FuncId} {p : Packet} (h : Safe.memories s) : Safe.memories (s.trunc fn p).1 := by
  unfold State.trunc
  split
  · exact h
  · refine h.foldl_fst fun _ _ ht => ?_
    split
    · exact ht.setCueStream.sendCue
    · exact ht

theorem Safe.memories.next_trunc {s : State} {die : DieId} {q : QueueId} (h : Safe.memories s) : Safe.next (execTrunc die q s) := by
  unfold execTrunc
  exact .of (h.perform1 fun _ _ ht => ht.trunc)

theorem Safe.memories.updCkpt {s : State} {f : Checkpoint → Checkpoint} (h : Safe.memories s) : Safe.memories (s.updCkpt f) := h.updHost

/-! ### What the partitions hold -/

theorem Safe.memories.askParts {s : State} {parts : BitVec 32} (h : Safe.memories s) : Safe.memories (s.askParts parts) := by
  unfold State.askParts
  exact h.foldl fun _ _ ht => .ite ht ht.stopRequest.updCkpt

/-! ### The image and the manifest (R314, R315; log 3) -/

theorem Safe.memories.restoreCore {s : State} {parts : BitVec 32} {img : Image} {c : CoreId} (h : Safe.memories s) :
    Safe.memories (s.restoreCore parts img c) := by
  unfold State.restoreCore
  exact h.updScratch fun _ hq => Memory.wf_restoreFrom hq _ _

theorem Safe.memories.loadImage {s : State} {ref : Word} {img : Image} {m : Manifest} (h : Safe.memories s) :
    Safe.memories (s.loadImage ref img m) := by
  unfold State.loadImage
  refine .updHost (.foldl (.foldl ?_ fun _ _ ht => ht.restoreCore) fun _ _ ht => .dite (fun _ => ?_) fun _ => ht)
  · exact h.withMem (Memory.wf_restoreFrom h.1 _ _)
  · exact ht.updAcc fun _ hx => Troupe.restoreFrom_wf hx _

/-! ### Stopping and restoring -/

theorem Safe.memories.serveStop {s : State} {c : CoreId} {m : BitVec 8} (h : Safe.memories s) : Safe.memories (s.serveStop c m) := by
  unfold State.serveStop
  refine h.updCore fun _ => ?_
  split
  · rfl
  · split <;> rfl

theorem Safe.memories.releaseAsked {s : State} {l : List (CoreId × BitVec 8)} (h : Safe.memories s) :
    Safe.memories (s.releaseAsked l) := h.foldl fun _ _ ht => ht.serveStop.foldl fun _ _ hu => hu.updCtx

theorem Safe.memories.saveParts {s : State} {parts : BitVec 32} (h : Safe.memories s) : Safe.memories (s.saveParts parts) :=
  ((h.foldl fun _ _ ht => ht.serveStop).foldl fun _ _ ht => ht.saveCtx).updCkpt

theorem Safe.memories.restoreParts {s : State} {l : List (CoreId × CtxId × Nat)} (h : Safe.memories s) :
    Safe.memories (s.restoreParts l) := by
  unfold State.restoreParts
  exact h.foldl fun _ _ ht => .ite ht.updCtx.loadCtx.releaseCtx ht

theorem Safe.memories.endCkpt {s : State} {c : Checkpoint} {st : CmdStatus} (h : Safe.memories s) :
    Safe.memories (s.endCkpt c st) := h.updHost.restoreParts.releaseAsked.endOne

theorem Safe.memories.failCkpt {s : State} {c : Checkpoint} {reason : Nat} (h : Safe.memories s) :
    Safe.memories (s.failCkpt c reason) := by
  unfold State.failCkpt
  refine .endCkpt (.log (h.foldl fun _ _ ht => ?_))
  dsimp only
  split
  · exact ht.setCueStream
  · exact ht

/-! ### The steps (R315, R316) -/

theorem Safe.memories.startCkpt {s : State} {d : DieId} {q : QueueId} {p : Packet} (h : Safe.memories s) :
    Safe.memories (s.startCkpt d q p).1 := by
  unfold State.startCkpt
  split
  · exact h
  · exact .ite_fst h (.ite_fst h (.ite_fst h (.ite_fst h.log h.updHost.askParts)))

theorem Safe.memories.imagePiece {s : State} {k : Fin 16} {off stop : Nat} (h : Safe.memories s) :
    Safe.memories (s.imagePiece k off stop) := h.transfer

theorem Safe.memories.stripe {s : State} {size : Nat} {links : List (Fin 16)} (h : Safe.memories s) :
    Safe.memories (s.stripe size links) := h.foldl fun _ _ ht => ht.imagePiece

theorem Safe.memories.writeImage {s : State} {c : Checkpoint} (h : Safe.memories s) : Safe.memories (s.writeImage c) :=
  (h.saveParts.foldl fun _ _ ht => ht.setCueStream).stripe.other.updCkpt

theorem Safe.memories.stepCkpt {s : State} {c : Checkpoint} (h : Safe.memories s) : Safe.memories (s.stepCkpt c) := by
  unfold State.stepCkpt
  split
  · exact h.askParts.orElse fun ht => .ite ht.failCkpt ht.writeImage
  · exact .ite h.failCkpt h

theorem Safe.memories.next_checkpoint {s : State} {die : DieId} {q : QueueId} (h : Safe.memories s) :
    Safe.next (execCheckpoint die q s) := by
  unfold execCheckpoint
  refine .of ?_
  split
  · exact .ite h.stepCkpt (h.perform1 fun _ _ ht => ht.startCkpt)
  · exact h.perform1 fun _ _ ht => ht.startCkpt

theorem Safe.memories.next_checkpointQueueTimeout {s : State} (h : Safe.memories s) : Safe.next (execCheckpointQueueTimeout s) := by
  unfold execCheckpointQueueTimeout
  refine .of ?_
  split
  · split
    · exact .ite h.failCkpt h
    · exact h
  · exact h

theorem Safe.memories.imageDurable {s : State} {c : Checkpoint} (h : Safe.memories s) : Safe.memories (s.imageDurable c) := by
  unfold State.imageDurable
  refine .ite h ?_
  split
  · exact h.transfer.updCkpt
  · exact h.failCkpt

theorem Safe.memories.next_checkpointManifestAck {s : State} {accepted : Bool} (h : Safe.memories s) :
    Safe.next (execCheckpointManifestAck accepted s) := by
  unfold execCheckpointManifestAck
  refine .of ?_
  split
  · exact .ite h.failCkpt (h.foldl fun _ _ ht => ht.setCueStream).endCkpt
  · exact h

/-! ### Flags (R110) -/

theorem Safe.memories.raiseFlags {s : State} {fl : Fl} {opA opB : Word} (h : Safe.memories s) :
    Safe.memories (s.raiseFlags fl opA opB) := h.updMe

/-! ### Classes (R121) -/

theorem Safe.memories.next_fOp3 {s : State} {i : Instr} {w : Pre} {long : Bool} {d a b : FReg} {op : Nat → Nat → Nat → Fp}
    (h : Safe.memories s) :
    Safe.next (fOp3 i w long d a b op s) := by
  unfold Machine.fOp3
  exact h.next_runInstr fun _ _ ht => .ok ht.updRegs.raiseFlags

theorem Safe.memories.next_fOp2 {s : State} {i : Instr} {w : Pre} {long : Bool} {d a : FReg} {op : Nat → Nat → Fp}
    (h : Safe.memories s) :
    Safe.next (fOp2 i w long d a op s) := by
  unfold Machine.fOp2
  exact h.next_runInstr fun _ _ ht => .ok ht.updRegs.raiseFlags

/-! ### FMA (R118) -/

theorem Safe.memories.next_fmaOp {s : State} {i : Instr} {w : Pre} {dbl : Bool} {d a b : FReg} {negP negC : Bool}
    (h : Safe.memories s) :
    Safe.next (fmaOp i w dbl d a b negP negC s) := by
  unfold Machine.fmaOp
  exact h.next_runInstr fun _ _ ht => .ok ht.updRegs.raiseFlags

/-! ### FCMP (R119) -/

theorem Safe.memories.next_fcmp {s : State} {w : Pre} {dbl : Bool} {c : FCond} {p : PReg} {a b : FReg} (h : Safe.memories s) :
    Safe.next (execFcmp w dbl c p a b s) := by
  unfold execFcmp
  exact h.next_runInstr fun _ _ ht => .ok ht.updRegs.raiseFlags

/-! ### FCVT (R120) -/

theorem Safe.memories.writeScalar {s : State} {d : Scalar} {x : Word} (h : Safe.memories s) : Safe.memories (s.writeScalar d x) := by
  unfold State.writeScalar
  split
  · exact h.writeG
  · exact h.updRegs

theorem Safe.memories.next_fcvt {s : State} {w : Pre} {k : Cvt} {d a : Scalar} (h : Safe.memories s) :
    Safe.next (execFcvt w k d a s) := by
  unfold execFcvt
  exact h.next_runInstr fun _ _ ht => .ok ht.writeScalar.raiseFlags

/-! ### FCLS, FMV, SCAL (R121, R122, R126) -/

theorem Safe.memories.next_scal {s : State} {w : Pre} {d : GReg} {a : FReg} (h : Safe.memories s) :
    Safe.next (execScal w d a s) := by
  unfold execScal
  exact h.next_runInstr fun _ _ ht => .ok ht.writeG.raiseFlags

/-! ### Table images (R103, R104) -/

theorem Safe.memories.checkGranule {s : State} {a : Nat} (h : Safe.memories s) : Safe.ends (fun _ => True) (s.checkGranule a) := by
  unfold State.checkGranule
  exact .check h.checkAccess fun _ => .ite .trap (.ok trivial)

theorem Safe.memories.checkGranules {s : State} {addr : Word} {n : Nat} (h : Safe.memories s) :
    Safe.ends (fun _ => True) (s.checkGranules addr n) := by
  unfold State.checkGranules
  exact .mapM fun _ => h.checkGranule

theorem Safe.memories.readLocs {s : State} {n : Nat} {l : List Loc} (h : Safe.memories s) :
    Safe.ends (fun r => Safe.memories r.1) (s.readLocs n l) := by
  induction l generalizing s with
  | nil => exact .ok h
  | cons x l ih =>
    unfold State.readLocs
    exact .andThenFst h.readLoc fun _ _ ht => .andThenFst (ih ht) fun _ _ hu => .ok hu

theorem Safe.memories.readImage {s : State} {addr : Word} (h : Safe.memories s) :
    Safe.ends (fun r => Safe.memories r.1) (s.readImage addr) := by
  unfold State.readImage
  exact .ite .trap (.check h.checkGranules fun _ => h.readLocs)

theorem Safe.memories.next_tbld {s : State} {w : Pre} {slotB : Bool} {twos : Bool} {a : GReg} (h : Safe.memories s) :
    Safe.next (execTbld w slotB twos a s) := by
  unfold execTbld
  exact h.next_runInstr fun _ _ ht => .andThenFst ht.readImage fun _ _ hu => .ok hu.updRegs

/-! ### ENC (R124) -/

theorem Safe.ends.validTable {s : State} {t : TableSel} : Safe.ends (fun _ => True) (s.validTable t) := by
  unfold State.validTable
  exact .ite (.ok trivial) .trap

theorem Safe.memories.next_enc {s : State} {w : Pre} {t : TableSel} {inf : Bool} {d : GReg} {a : FReg} (h : Safe.memories s) :
    Safe.next (execEnc w t inf d a s) := by
  unfold execEnc
  exact h.next_runInstr fun _ _ ht => .check .validTable fun _ => .ok ht.writeG.raiseFlags

/-! ### DEC (R125) -/

theorem Safe.memories.next_dec {s : State} {w : Pre} {t : TableSel} {d : FReg} {a : GReg} (h : Safe.memories s) :
    Safe.next (execDec w t d a s) := by
  unfold execDec
  exact h.next_runInstr fun _ _ ht => .check .validTable fun _ => .ok ht.updRegs

/-! ### Extents checked at issue (R166, R172, R191) -/

theorem Safe.ends.checkRows {s : State} {kind : Kind} {rows : List (Int × Nat)} :
    Safe.ends (fun _ => True) (s.checkRows kind rows) := by
  unfold State.checkRows
  split
  · exact .trap
  · exact .ok trivial

theorem Safe.memories.readDesc {s : State} {addr : Word} {n : Nat} (h : Safe.memories s) :
    Safe.ends (fun r => Safe.memories r.1) (s.readDesc addr n) := by
  unfold State.readDesc
  exact .check h.checkAccess fun _ => .andThenFst h.readLoc fun _ _ ht => .ok ht

/-! ### Identifiers and statuses (R158, R159, R193) -/

theorem Safe.memories.updMyTroupe {s : State} {f : Troupe → Troupe} (h : Safe.memories s)
    (hf : ∀ x, (f x).acc = x.acc := by intro _; rfl) :
    Safe.memories (s.updMyTroupe f) := h.updTroupe hf

theorem Safe.memories.answerMat {s : State} {d : GReg} {id : Word} {v : JobView} (h : Safe.memories s) :
    Safe.memories (s.answerMat d id v) := by
  unfold State.answerMat
  refine .writeG ?_
  split
  · exact h.updRegs.orElse fun ht => ht.updRegs.updMyTroupe
  · exact h.updRegs

theorem Safe.memories.answerCopy {s : State} {d : GReg} {v : JobView} (h : Safe.memories s) : Safe.memories (s.answerCopy d v) := h.writeG

theorem Safe.memories.next_jobWait {s : State} {i : Instr} {w : Pre} {d a : GReg} {view : State → Word → JobView}
    {answer : State → Word → JobView → State} (h : Safe.memories s) (hanswer : ∀ t x y, Safe.memories t → Safe.memories (answer t x y)) :
    Safe.next (jobWait i w d a view answer s) := by
  unfold Machine.jobWait
  exact h.next_keptOp (fun _ _ ht => .andThen ht.commitPoint fun _ hu => .ok hu) fun _ _ ht => .ite (.some (.ok (hanswer _ _ _ ht))) .none

theorem Safe.memories.next_jobPoll {s : State} {i : Instr} {w : Pre} {d a : GReg} {view : State → Word → JobView}
    {answer : State → Word → JobView → State} (h : Safe.memories s) (hanswer : ∀ t x y, Safe.memories t → Safe.memories (answer t x y)) :
    Safe.next (jobPoll i w d a view answer s) := by
  unfold Machine.jobPoll
  exact h.next_runInstr fun _ _ ht => .ok (hanswer _ _ _ ht)

/-! ### COPY (R190, R191) -/

theorem Safe.ends.checkCopySide {s : State} {kind : Kind} {space : Nat} {base : Word} {stride rows n : Nat} :
    Safe.ends (fun _ => True) (s.checkCopySide kind space base stride rows n) := by
  unfold State.checkCopySide
  refine .ite (.ok trivial) ?_
  split
  · exact .trap
  · exact .ok trivial

theorem Safe.memories.acceptCopy {s : State} {d : CopyDesc} (h : Safe.memories s) :
    Safe.ends (fun r => Safe.memories r.1) (s.acceptCopy d) := by
  unfold State.acceptCopy
  exact .andThen h.drainMe fun _ ht => .ite .blocked (.ok ht.noRestore.updMyTroupe)

theorem Safe.memories.next_copy {s : State} {w : Pre} {d a : GReg} (h : Safe.memories s) : Safe.next (execCopy w d a s) := by
  unfold execCopy
  refine h.next_runInstr fun _ _ ht => .andThenFst ht.readDesc fun _ _ hu => ?_
  split
  split
  · exact .trap
  · exact .check .checkCopySide fun _ => .check .checkCopySide fun _ => .andThenFst (hu.fst ‹_›).acceptCopy fun _ _ hv => .ok hv.writeG

theorem Safe.memories.next_cwait {s : State} {w : Pre} {d a : GReg} (h : Safe.memories s) : Safe.next (execCwait w d a s) := by
  unfold execCwait
  exact h.next_jobWait fun _ _ _ ht => ht.answerCopy

theorem Safe.memories.next_cpoll {s : State} {w : Pre} {d a : GReg} (h : Safe.memories s) : Safe.next (execCpoll w d a s) := by
  unfold execCpoll
  exact h.next_jobPoll fun _ _ _ ht => ht.answerCopy

/-! ### Buffer handles (R194 to R196) -/

theorem Safe.ends.handleOf {s : State} {i : Instr} {x : Word} : Safe.ends (fun _ => True) (s.handleOf i x) := by
  unfold State.handleOf
  exact .dite (fun _ => .ite (.ok trivial) .trap) fun _ => .trap

theorem Safe.memories.next_bwait {s : State} {w : Pre} {st : HandleState} {a : GReg} (h : Safe.memories s) :
    Safe.next (execBwait w st a s) := by
  unfold execBwait
  exact h.next_keptOp (fun _ _ ht => .check .handleOf fun _ => .andThen ht.commitPoint fun _ hu => .ok hu) fun _ _ ht => .ite (.some
    (.ok ht)) .none

theorem Safe.memories.next_bset {s : State} {w : Pre} {st : HandleState} {a : GReg} (h : Safe.memories s) :
    Safe.next (execBset w st a s) := by
  unfold execBset
  exact h.next_runInstr fun _ _ ht => .check .handleOf fun _ => .ite .blocked (.andThen ht.drainMe fun _ hu =>
    .ok hu.noRestore.updMyTroupe)

theorem Safe.memories.next_bstat {s : State} {w : Pre} {d a : GReg} (h : Safe.memories s) : Safe.next (execBstat w d a s) := by
  unfold execBstat
  exact h.next_runInstr fun _ _ ht => .check .handleOf fun _ => .ok ht.writeG

/-! ### Streams (R148, R149) -/

theorem Safe.memories.setStream {s : State} {i : Fin 4} {x : Stream} (h : Safe.memories s) : Safe.memories (s.setStream i x) := h.updRegs

theorem Safe.memories.fetchStrip {s : State} {x : Stream} {n : Nat} (h : Safe.memories s) :
    Safe.ends (fun r => Safe.memories r.1) (s.fetchStrip x n) := by
  unfold State.fetchStrip
  exact .check h.checkGranule fun _ => .andThenFst h.readRaw fun _ _ ht => .ok ht.updMe

theorem Safe.memories.popStrip {s : State} {i : Fin 4} (h : Safe.memories s) :
    Safe.ends (fun r => Safe.memories r.1) (s.popStrip i) := by
  unfold State.popStrip
  refine .ite (.ok h) (.andThenFst ?_ fun _ _ ht => .ite .blocked (.ok ht.setStream.updMe))
  split
  · exact .ok h
  · exact h.fetchStrip

theorem Safe.memories.readV {s : State} {n : VReg} (h : Safe.memories s) : Safe.ends (fun r => Safe.memories r.1) (s.readV n) := by
  unfold State.readV
  exact .ite h.popStrip (.ok h)

theorem Safe.ends.checkDst {s : State} {i : Instr} {d : VReg} : Safe.ends (fun _ => True) (s.checkDst i d) := by
  unfold State.checkDst
  exact .ite .trap (.ok trivial)

theorem Safe.memories.readB {s : State} {b : VSrc} {g : Word} {width : Nat} (h : Safe.memories s) :
    Safe.ends (fun r => Safe.memories r.1) (s.readB b g width) := by
  unfold State.readB
  split
  · exact h.readV
  · exact .ok h

/-! ### Writing elements (R128) -/

theorem Safe.memories.raiseElems {s : State} {fl : List Fl} {a b : Nat → Nat} (h : Safe.memories s) :
    Safe.memories (s.raiseElems fl a b) := h.raiseFlags

theorem Safe.memories.setV {s : State} {d : VReg} {x : BitVec 512} (h : Safe.memories s) : Safe.memories (s.setV d x) := h.updRegs

theorem Safe.memories.vwrite {s : State} {w : Pre} {width : Nat} {d : VReg} {rs : List Fp} {a b : Nat → Nat} (h : Safe.memories s) :
    Safe.memories (s.vwrite w width d rs a b) := h.setV.raiseElems

/-! ### Element-wise arithmetic (R131) -/

theorem Safe.memories.next_velem {s : State} {i : Instr} {w : Pre} {t : ElemTy} {d a : VReg} {b : VSrc} {op : Nat → Nat → Nat → Fp}
    (h : Safe.memories s) :
    Safe.next (velem i w t d a b op s) := by
  unfold Machine.velem
  exact h.next_runInstr fun _ _ ht => .check .checkDst fun _ => .andThenFst ht.readV fun _ _ hu => .andThenFst hu.readB fun _ _ hv =>
    .ok hv.vwrite

theorem Safe.memories.next_vfma {s : State} {w : Pre} {t : ElemTy} {d a : VReg} {b : VSrc} (h : Safe.memories s) :
    Safe.next (execVfma w t d a b s) := by
  unfold execVfma
  exact h.next_runInstr fun _ _ ht => .check .checkDst fun _ => .andThenFst ht.readV fun _ _ hu => .andThenFst hu.readB fun _ _ hv =>
    .andThenFst hv.readV fun _ _ hw => .ok hw.vwrite

/-! ### VUN (R132) -/

theorem Safe.memories.next_vun {s : State} {i : Instr} {w : Pre} {t : ElemTy} {d a : VReg} {op : Nat → Nat} (h : Safe.memories s) :
    Safe.next (vun i w t d a op s) := by
  unfold Machine.vun
  exact h.next_runInstr fun _ _ ht => .check .checkDst fun _ => .andThenFst ht.readV fun _ _ hu => .ok hu.vwrite

/-! ### VCMP, VSEL (R133, R134) -/

theorem Safe.memories.next_vcmp {s : State} {w : Pre} {t : ElemTy} {c : VCond} {m : MReg} {a : VReg} {b : VSrc} (h : Safe.memories s) :
    Safe.next (execVcmp w t c m a b s) := by
  unfold execVcmp
  exact h.next_runInstr fun _ _ ht => .andThenFst ht.readV fun _ _ hu => .andThenFst hu.readB fun _ _ hv => .ok hv.updRegs.raiseElems

theorem Safe.memories.next_vsel {s : State} {w : Pre} {t : ElemTy} {d a : VReg} {b : VSrc} (h : Safe.memories s) :
    Safe.next (execVsel w t d a b s) := by
  unfold execVsel
  exact h.next_runInstr fun _ _ ht => .check .checkDst fun _ => .andThenFst ht.readV fun _ _ hu => .andThenFst hu.readB fun _ _ hv =>
    .ok hv.setV

/-! ### VCVT (R135) -/

theorem Safe.memories.next_vcvt {s : State} {w : Pre} {dst src : ElemTy} {d a : VReg} (h : Safe.memories s) :
    Safe.next (execVcvt w dst src d a s) := by
  unfold execVcvt
  exact h.next_runInstr fun _ _ ht => .check .checkDst fun _ => .andThenFst ht.readV fun _ _ hu => .ok hu.setV.raiseElems

/-! ### VRED (R136) -/

theorem Safe.memories.next_vred {s : State} {w : Pre} {t : ElemTy} {o : RedOp} {d : Scalar} {a : VReg} (h : Safe.memories s) :
    Safe.next (execVred w t o d a s) := by
  unfold execVred
  exact h.next_runInstr fun _ _ ht => .andThenFst ht.readV fun _ _ hu => .ok hu.writeScalar.raiseFlags

/-! ### Moves (R137 to R140) -/

theorem Safe.memories.next_vbc {s : State} {w : Pre} {t : ElemTy} {d : VReg} {a : Scalar} (h : Safe.memories s) :
    Safe.next (execVbc w t d a s) := by
  unfold execVbc
  exact h.next_runInstr fun _ _ ht => .check .checkDst fun _ => .ok ht.vwrite

theorem Safe.memories.next_vperm {s : State} {w : Pre} {t : ElemTy} {d a b : VReg} (h : Safe.memories s) :
    Safe.next (execVperm w t d a b s) := by
  unfold execVperm
  exact h.next_runInstr fun _ _ ht => .check .checkDst fun _ => .andThenFst ht.readV fun _ _ hu => .andThenFst hu.readV fun _ _ hv =>
    .ok hv.vwrite

theorem Safe.memories.next_vsld {s : State} {w : Pre} {t : ElemTy} {d a : VReg} {b : GReg} (h : Safe.memories s) :
    Safe.next (execVsld w t d a b s) := by
  unfold execVsld
  exact h.next_runInstr fun _ _ ht => .check .checkDst fun _ => .andThenFst ht.readV fun _ _ hu => .ok hu.vwrite

theorem Safe.memories.next_vins {s : State} {w : Pre} {t : ElemTy} {d : VReg} {a : Scalar} {b : GReg} (h : Safe.memories s) :
    Safe.next (execVins w t d a b s) := by
  unfold execVins
  exact h.next_runInstr fun _ _ ht => .check .checkDst fun _ => .ok ht.setV

theorem Safe.memories.next_vext {s : State} {w : Pre} {t : ElemTy} {d : Scalar} {a : VReg} {b : GReg} (h : Safe.memories s) :
    Safe.next (execVext w t d a b s) := by
  unfold execVext
  exact h.next_runInstr fun _ _ ht => .andThenFst ht.readV fun _ _ hu => .ok hu.writeScalar

/-! ### VTOPK (R145) -/

theorem Safe.memories.next_vtopk {s : State} {w : Pre} {t : ElemTy} {d a : VReg} {b : GReg} (h : Safe.memories s) :
    Safe.next (execVtopk w t d a b s) := by
  unfold execVtopk
  exact h.next_runInstr fun _ _ ht => .check .checkDst fun _ => .andThenFst ht.readV fun _ _ hu => .ok hu.setV.raiseFlags

/-! ### VENC, VDEC (R146) -/

theorem Safe.memories.next_venc {s : State} {w : Pre} {t : TableSel} {inf : Bool} {d a : VReg} (h : Safe.memories s) :
    Safe.next (execVenc w t inf d a s) := by
  unfold execVenc
  exact h.next_runInstr fun _ _ ht => .check .checkDst fun _ => .check .validTable fun _ => .andThenFst ht.readV fun _ _ hu =>
    .ok hu.setV.raiseElems

theorem Safe.memories.next_vdec {s : State} {w : Pre} {t : TableSel} {d a : VReg} (h : Safe.memories s) :
    Safe.next (execVdec w t d a s) := by
  unfold execVdec
  exact h.next_runInstr fun _ _ ht => .check .checkDst fun _ => .check .validTable fun _ => .andThenFst ht.readV fun _ _ hu =>
    .ok hu.vwrite

/-! ### STRM (R148) -/

theorem Safe.memories.streamOn {s : State} {n : Fin 4} {addr : Word} (h : Safe.memories s) :
    Safe.ends Safe.memories (s.streamOn n addr) := by
  unfold State.streamOn
  exact .ite .trap (.ite .trap (.check h.checkSpace fun _ => .andThenFst h.readLoc fun _ _ ht => .ite .trap (.ite .trap (.ite .trap
    (.andThen ht.drainMe fun _ hu => .ok hu.setStream)))))

theorem Safe.memories.next_strmOn {s : State} {w : Pre} {d : Fin 4} {a : GReg} (h : Safe.memories s) :
    Safe.next (execStrmOn w d a s) := by
  unfold execStrmOn
  exact h.next_runInstr fun _ _ ht => ht.streamOn

theorem Safe.memories.next_strmOff {s : State} {w : Pre} {d : Fin 4} (h : Safe.memories s) : Safe.next (execStrmOff w d s) := by
  unfold execStrmOff
  exact h.next_runInstr fun _ _ ht => .ok ht.setStream.setV

/-! ### VMSK (R150) -/

theorem Safe.memories.next_vmsk {s : State} {w : Pre} {o : MaskOp} {d a b : MReg} (h : Safe.memories s) :
    Safe.next (execVmsk w o d a b s) := by
  unfold execVmsk
  exact h.next_runInstr fun _ _ ht => .ok ht.updRegs

theorem Safe.memories.next_vdotOp {s : State} {i : Instr} {w : Pre} {d : FReg} {a b : VReg} {reads tables : List RegRef}
    {groups : State → BitVec 512 → BitVec 512 → Except Stop (List (List Prod'))} (h : Safe.memories s)
      (hgroups : ∀ t x y, Safe.memories t → Safe.ends (fun _ => True) (groups t x y)) :
    Safe.next (vdotOp i w d a b reads tables groups s) := by
  unfold Machine.vdotOp
  exact h.next_runInstr fun _ _ ht => .andThenFst ht.readV fun _ _ hu => .andThenFst hu.readV fun _ _ hv => .check (hgroups _ _ _ hv)
    fun _ => .ok hv.updRegs.updMe.raiseFlags

theorem Safe.ends.dotTable {s : State} {t : TableSel} {w4 : Bool} : Safe.ends (fun _ => True) (s.dotTable t w4) := by
  unfold State.dotTable
  exact .check .validTable fun _ => .ite (.ok trivial) .trap

theorem Safe.memories.next_vdotqq {s : State} {w : Pre} {t : TableSel} {d : FReg} {a b : VReg} (h : Safe.memories s) :
    Safe.next (execVdotqq w t d a b s) := by
  unfold execVdotqq
  exact h.next_vdotOp fun _ _ _ _ => .check .dotTable fun _ => .ok trivial

theorem Safe.memories.next_vdothh {s : State} {w : Pre} {d : FReg} {a b : VReg} (h : Safe.memories s) :
    Safe.next (execVdothh w d a b s) := by
  unfold execVdothh
  exact h.next_vdotOp fun _ _ _ _ => .ok trivial

theorem Safe.memories.next_vdotnn {s : State} {w : Pre} {t : TableSel} {d : FReg} {a b : VReg} (h : Safe.memories s) :
    Safe.next (execVdotnn w t d a b s) := by
  unfold execVdotnn
  exact h.next_vdotOp fun _ _ _ _ => .check .dotTable fun _ => .ok trivial

theorem Safe.ends.ownTile {s : State} {t : Fin 16} : Safe.ends (fun _ => True) (s.ownTile t) := by
  unfold State.ownTile
  exact .ite (.ok trivial) .trap

theorem Safe.memories.acceptMat {s : State} {work : MatWork} {claim : Option (Fin 16)} (h : Safe.memories s) :
    Safe.ends (fun r => Safe.memories r.1) (s.acceptMat work claim) := by
  unfold State.acceptMat
  exact .andThen h.drainMe fun _ ht => .ite .blocked (.ok ht.noRestore.updMyTroupe)

/-! ### Matrix jobs (R162, R165, R166) -/

theorem Safe.memories.next_mmaOp {s : State} {i : Instr} {w : Pre} {k : MatKind} {d a : GReg} (h : Safe.memories s) :
    Safe.next (mmaOp i w k d a s) := by
  unfold Machine.mmaOp
  refine h.next_runInstr fun _ _ ht => .andThenFst ht.readDesc fun _ _ hu => ?_
  split
  split
  · exact .trap
  · exact .check .checkRows fun _ => .ite (.check .ownTile fun _ => .andThenFst (hu.fst ‹_›).acceptMat fun _ _ hv => .ok hv.writeG)
      (.andThenFst (hu.fst ‹_›).acceptMat fun _ _ hv => .ok hv.writeG)

/-! ### MZERO, MWAIT, MPOLL, MLSF (R169 to R171) -/

theorem Safe.ends.tileOf {i : Instr} {x : Word} : Safe.ends (fun _ => True) (tileOf i x) := by
  unfold Machine.tileOf
  exact .dite (fun _ => .ok trivial) fun _ => .trap

theorem Safe.memories.next_mzero {s : State} {w : Pre} {a : GReg} (h : Safe.memories s) : Safe.next (execMzero w a s) := by
  unfold execMzero
  exact h.next_runInstr fun _ _ ht => .check .tileOf fun _ => .andThenFst ht.acceptMat fun _ _ hu => .ok hu

theorem Safe.memories.next_mwait {s : State} {w : Pre} {d a : GReg} (h : Safe.memories s) : Safe.next (execMwait w d a s) := by
  unfold execMwait
  exact h.next_jobWait fun _ _ _ ht => ht.answerMat

theorem Safe.memories.next_mpoll {s : State} {w : Pre} {d a : GReg} (h : Safe.memories s) : Safe.next (execMpoll w d a s) := by
  unfold execMpoll
  exact h.next_jobPoll fun _ _ _ ht => ht.answerMat

theorem Safe.memories.next_mlsf {s : State} {w : Pre} {d : VReg} {a b : GReg} (h : Safe.memories s) :
    Safe.next (execMlsf w d a b s) := by
  unfold execMlsf
  exact h.next_runInstr fun _ _ ht => .check .checkDst fun _ => .check .tileOf fun _ => .ite .trap (.check .ownTile fun _ => .ok ht.updMe)

/-! ### MTBL (R163, R164) -/

theorem Safe.memories.pairSide {s : State} {src : Nat} {img : Word} (h : Safe.memories s) :
    Safe.ends (fun _ => True) (s.pairSide src img) := by
  unfold State.pairSide
  exact .ite (.ite .trap h.checkGranules) (.ok trivial)

theorem Safe.memories.pairTable {s : State} {src : Nat} {twos : Bool} {ls : List Loc} (h : Safe.memories s) :
    Safe.ends (fun r => Safe.memories r.1) (s.pairTable src twos ls) := by
  unfold State.pairTable
  exact .ite (.andThenFst h.readLocs fun _ _ ht => .ok ht) (.ok h)

theorem Safe.memories.next_mtbl {s : State} {w : Pre} {pair : Fin 4} {a : GReg} (h : Safe.memories s) :
    Safe.next (execMtbl w pair a s) := by
  unfold execMtbl
  exact h.next_runInstr fun _ _ ht => .andThenFst ht.readDesc fun _ _ hu => .ite .trap (.check hu.pairSide fun _ => .check hu.pairSide
    fun _ => .andThenFst hu.pairTable fun _ _ hv => .andThenFst hv.pairTable fun _ _ hw => .andThenFst hw.acceptMat fun _ _ hx => .ok hx)

/-! ### MST (R172) -/

theorem Safe.memories.next_mst {s : State} {w : Pre} {d a b : GReg} (h : Safe.memories s) : Safe.next (execMst w d a b s) := by
  unfold execMst
  refine h.next_runInstr fun _ _ ht => ?_
  split
  · exact .trap
  · exact .ite .trap (.ite .trap (.check .checkRows fun _ => .check .ownTile fun _ => .andThenFst ht.acceptMat fun _ _ hu =>
      .ok hu.writeG))

/-! ### Memory as an engine reaches it (R168, R192, R233, R238) -/

theorem Safe.memories.engFetch {s : State} {o : JobOwner} {p : Place} {prot : Bool} {n : Nat} (h : Safe.memories s) :
    Safe.memories (s.engFetch o p prot n).1 := by
  unfold State.engFetch
  have hp : Safe.memories (match p with
      | .phys pa => match s.inject pa n with | (s, _, mac) => (s, mac)
      | _ => (s, false)).1 := by
    split
    · exact h.inject
    · exact h
  split
  have ht := hp.fst ‹_›
  refine .ite_fst ht ?_
  split
  · exact .ite_fst ht ht
  · exact ht

theorem Safe.memories.engRead {s : State} {o : JobOwner} {a n : Nat} (h : Safe.memories s) : Safe.memories (s.engRead o a n).1 := by
  unfold State.engRead
  refine h.foldl_fst fun _ _ ht => ?_
  split
  · exact ht
  · split
    · exact ht
    · exact ht.engFetch

theorem Safe.memories.engWrite {s : State} {o : JobOwner} {a : Nat} {bs : List Byte} (h : Safe.memories s) :
    Safe.memories (s.engWrite o a bs).1 := by
  unfold State.engWrite
  refine h.foldl_fst fun _ _ ht => ?_
  split
  · exact ht
  · split
    · exact ht
    · split
      · exact ht
      · exact ht.writePlace

/-! ### Messages of the engines (R160, R238, R239) -/

theorem Safe.memories.engSend {s : State} {o : JobOwner} {m : Message} (h : Safe.memories s) : Safe.memories (s.engSend o m) :=
  h.counted.send

/-! ### Retiring jobs (R159, R160, R167, R168) -/

theorem Safe.memories.retireMat {s : State} {t : TroupeId} {e : MatEntry} {err : Nat} (h : Safe.memories s) :
    Safe.memories (s.retireMat t e err) := by
  unfold State.retireMat
  dsimp only
  split
  · refine .andThen (h.updTroupe fun _ => ?_) fun ht => ht.engSend
    exact (Troupe.dropRequest_acc _).trans (Troupe.setHandle_acc ..)
  · refine h.updTroupe fun _ => (Troupe.dropRequest_acc _).trans ?_
    dsimp only
    split
    · exact Troupe.setHandle_acc ..
    · rfl

theorem Safe.memories.retireCopy {s : State} {t : TroupeId} {e : CopyEntry} {err : Nat} (h : Safe.memories s) :
    Safe.memories (s.retireCopy t e err) := by
  unfold State.retireCopy
  exact .andThen (h.updTroupe fun _ => Troupe.setHandle_acc ..) fun ht => ht.engSend

theorem Safe.memories.engIntegrity {s : State} {o : JobOwner} {line : Nat} {injected : Bool} (h : Safe.memories s) :
    Safe.memories (s.engIntegrity o line injected) := h.integrity

theorem Safe.memories.failMat {s : State} {t : TroupeId} {e : MatEntry} {f : EngFault} (h : Safe.memories s) :
    Safe.memories (s.failMat t e f) := by
  unfold State.failMat
  split
  · exact h.retireMat
  · exact h.retireMat.engIntegrity
  · split
    · exact (h.fireWalk.fst ‹_›).retireMat.engIntegrity
    · exact h.fireWalk.fst ‹_›
  · exact h

theorem Safe.memories.failCopy {s : State} {t : TroupeId} {e : CopyEntry} {f : EngFault} (h : Safe.memories s) :
    Safe.memories (s.failCopy t e f) := by
  unfold State.failCopy
  split
  · exact h.retireCopy
  · exact h.retireCopy.engIntegrity
  · split
    · exact (h.fireWalk.fst ‹_›).retireCopy.engIntegrity
    · exact (h.fireWalk.fst ‹_›).updTroupe
  · exact h

theorem Safe.memories.setMatHead {s : State} {t : TroupeId} {e : MatEntry} (h : Safe.memories s) :
    Safe.memories (s.setMatHead t e) := h.updTroupe

theorem Safe.memories.setCopyHead {s : State} {t : TroupeId} {e : CopyEntry} (h : Safe.memories s) :
    Safe.memories (s.setCopyHead t e) := h.updTroupe

/-! ### Starting a matrix job (R163, R167, R194, R346) -/

theorem Safe.memories.next_matrixJobStart {s : State} {troupe : TroupeId} (h : Safe.memories s) :
    Safe.next (execMatrixJobStart troupe s) := by
  unfold execMatrixJobStart
  refine .of ?_
  dsimp only
  split
  · split
    · refine .ite h (.ite (.retireMat (h.updTroupe fun _ => ?_)) (.updTroupe (.setMatHead (h.updTroupe fun _ => ?_)) fun _ => ?_))
      · split <;> rfl
      · split <;> rfl
      · exact Troupe.asks_acc ..
    · exact h
  · exact h

/-! ### Row groups (R142, R143, R162, R167) -/

theorem Safe.memories.opRow {s : State} {o : JobOwner} {k : MatKind} {d : TileDesc} {sideB : Bool} {t : Table} {r : Nat}
    (h : Safe.memories s) :
    Safe.memories (s.opRow o k d sideB t r).1 := by
  unfold State.opRow
  split
  split
  · exact h.engRead.fst ‹_›
  · refine .ite_fst (h.engRead.fst ‹_›) ?_
    split <;> exact (h.engRead.fst ‹_›).engRead.fst ‹_›

theorem Safe.memories.opRows {s : State} {o : JobOwner} {k : MatKind} {d : TileDesc} {sideB : Bool} {t : Table} {rs : List Nat}
    (h : Safe.memories s) :
    Safe.memories (s.opRows o k d sideB t rs).1 := by
  unfold State.opRows
  refine h.foldl_fst fun _ _ ht => ?_
  split
  · exact ht
  · exact ht.opRow

theorem Safe.memories.runGroup {s : State} {t : TroupeId} {e : MatEntry} {k : MatKind} {d : TileDesc} {alw : BitVec 3}
    (h : Safe.memories s) :
    Safe.memories (s.runGroup t e k d alw).1 := by
  unfold State.runGroup
  refine .ite_fst h ?_
  split
  · exact h.opRows.fst ‹_›
  · split <;> exact (h.opRows.fst ‹_›).opRows.fst ‹_›

theorem Safe.memories.commitGroup {s : State} {t : TroupeId} {e : MatEntry} {k : MatKind} {d : TileDesc} {g : RowGroup}
    (h : Safe.memories s) :
    Safe.memories (s.commitGroup t e k d g) := by
  unfold State.commitGroup
  exact .ite h.writePlace.updTroupe.retireMat h.writePlace.updTroupe.setMatHead

theorem Safe.memories.residue {s : State} {e : MatEntry} {cls : Nat} (h : Safe.memories s) : Safe.memories (s.residue e cls) := h.log

theorem Safe.memories.next_rowGroupCommit {s : State} {troupe : TroupeId} {mismatches : Nat} (h : Safe.memories s) :
    Safe.next (execRowGroupCommit troupe mismatches s) := by
  unfold execRowGroupCommit
  refine .of ?_
  split
  · split
    · refine .ite h ?_
      split
      · exact h
      · exact (h.runGroup.fst ‹_›).failMat
      · have hg := h.runGroup.fst ‹_›
        split
        · exact hg.commitGroup
        · exact hg.residue.commitGroup
        · exact hg.residue.residue.retireMat
    · exact h.updTroupe fun _ => Troupe.asks_acc ..
    · exact h
  · exact h

/-! ### MZERO, MTBL, MST entries (R164, R170, R172) -/

theorem Safe.memories.next_mzeroEntryRun {s : State} {troupe : TroupeId} (h : Safe.memories s) :
    Safe.next (execMzeroEntryRun troupe s) := by
  unfold execMzeroEntryRun
  refine .of ?_
  split
  · split
    · exact .ite h (h.updAcc fun _ ht => Memory.wf_clear ht _ _).retireMat
    · exact h
  · exact h

theorem Safe.memories.next_mtblEntryRun {s : State} {troupe : TroupeId} (h : Safe.memories s) :
    Safe.next (execMtblEntryRun troupe s) := by
  unfold execMtblEntryRun
  refine .of ?_
  split
  · split
    · exact h.updTroupe.retireMat
    · exact h
  · exact h

theorem Safe.memories.runSt {s : State} {t : TroupeId} {e : MatEntry} {d : StDesc} (h : Safe.memories s) :
    Safe.memories (s.runSt t e d).1 := by
  unfold State.runSt
  refine h.foldl_fst fun _ _ ht => ?_
  split
  · exact ht
  · refine .ite_fst ht ?_
    split
    exact ht.engWrite

theorem Safe.memories.next_mstEntryRun {s : State} {troupe : TroupeId} (h : Safe.memories s) :
    Safe.next (execMstEntryRun troupe s) := by
  unfold execMstEntryRun
  refine .of ?_
  split
  · split
    · exact h
    · split
      · exact h
      · exact (h.runSt.fst ‹_›).failMat
      · exact (h.runSt.fst ‹_›).retireMat
    · exact h
  · exact h

/-! ### Copy jobs (R192) -/

theorem Safe.memories.next_copyJobStart {s : State} {troupe : TroupeId} (h : Safe.memories s) :
    Safe.next (execCopyJobStart troupe s) := by
  unfold execCopyJobStart
  refine .of ?_
  dsimp only
  split
  · refine .ite h ?_
    split
    · exact h.setCopyHead
    · exact .ite h.setCopyHead.updTroupe h
  · exact h

theorem Safe.memories.copyRead {s : State} {o : JobOwner} {space a n : Nat} (h : Safe.memories s) :
    Safe.memories (s.copyRead o space a n).1 := by
  unfold State.copyRead
  split
  · exact .ite_fst h.engRead h
  · exact h.engFetch
  · split
    · exact h.engFetch
    · exact h
  · exact h.engRead

theorem Safe.memories.copyWrite {s : State} {o : JobOwner} {space a : Nat} {bs : List Byte} (h : Safe.memories s) :
    Safe.memories (s.copyWrite o space a bs).1 := by
  unfold State.copyWrite
  split
  · exact .ite_fst h.engWrite h
  · exact h.writePlace
  · split
    · exact h.writePlace
    · exact h
  · exact h.engWrite

theorem Safe.memories.runCopy {s : State} {o : JobOwner} {d : CopyDesc} {done : Nat} (h : Safe.memories s) :
    Safe.memories (s.runCopy o d done).1 := by
  unfold State.runCopy
  refine h.foldl_fst fun _ _ ht => ?_
  split
  · exact ht
  · dsimp only
    split
    · exact ht.copyRead.fst ‹_›
    · split <;> exact (ht.copyRead.fst ‹_›).copyWrite.fst ‹_›

theorem Safe.memories.next_copyJobRetire {s : State} {troupe : TroupeId} {link : LinkAnswer} (h : Safe.memories s) :
    Safe.next (execCopyJobRetire troupe link s) := by
  unfold execCopyJobRetire
  refine .of ?_
  split
  · refine .ite h.retireCopy ?_
    split
    · exact h
    · exact (h.runCopy.fst ‹_›).failCopy
    · exact (h.runCopy.fst ‹_›).retireCopy
  · exact h

/-! ### Completions (R160) -/

theorem Safe.memories.next_completionRetry {s : State} {troupe : TroupeId} (h : Safe.memories s) :
    Safe.next (execCompletionRetry troupe s) := by
  unfold execCompletionRetry
  refine .of ?_
  dsimp only
  split
  · exact h.updTroupe.send
  · exact h

/-! ### Page faults (R168, R192, R238, R239) -/

theorem Safe.memories.updFault {s : State} {t : TroupeId} {copy : Bool} {phase : JobPhase} {f : Option JobFault} (h : Safe.memories s) :
    Safe.memories (s.updFault t copy phase f) := by
  unfold State.updFault
  refine h.updTroupe fun _ => ?_
  split
  · rfl
  · exact Troupe.dropRequest_acc _

theorem Safe.memories.retireFaulted {s : State} {t : TroupeId} {copy : Bool} {f : EngFault} (h : Safe.memories s) :
    Safe.memories (s.retireFaulted t copy f) := by
  unfold State.retireFaulted
  split
  · exact h.failCopy
  · exact h.failMat
  · exact h

theorem Safe.memories.sendFault {s : State} {t : TroupeId} {copy : Bool} (h : Safe.memories s) :
    Safe.memories (s.sendFault t copy) := by
  unfold State.sendFault
  split
  · split
    · exact h.updFault.engSend
    · exact h
  · exact h

theorem Safe.memories.suspend {s : State} {t : TroupeId} {copy : Bool} {region : BitVec 32} {va : Nat} {write : Bool}
    {code : BitVec 2} (h : Safe.memories s) :
    Safe.memories (s.suspend t copy region va write code) := by
  unfold State.suspend
  exact .ite h.updFault.sendFault h.updFault.retireFaulted

theorem Safe.memories.faultSt {s : State} {t : TroupeId} {e : MatEntry} {d : StDesc} (h : Safe.memories s) :
    Safe.memories (s.faultSt t e d) := by
  unfold State.faultSt
  split
  · exact (h.runSt.fst ‹_›).setMatHead.suspend
  · exact h

theorem Safe.memories.next_enginePageFault {s : State} {troupe : TroupeId} {copySide : Bool} (h : Safe.memories s) :
    Safe.next (execEnginePageFault troupe copySide s) := by
  unfold execEnginePageFault
  refine .of (.ite h (.ite ?_ ?_))
  · split
    · split
      · exact (h.runCopy.fst ‹_›).setCopyHead.suspend
      · exact h
    · exact h
  · split
    · split
      · split
        · exact (h.runGroup.fst ‹_›).suspend
        · exact h
      · exact h.faultSt
      · exact h.faultSt
      · exact h
    · exact h

theorem Safe.memories.resumeJob {s : State} {t : TroupeId} {copy : Bool} (h : Safe.memories s) :
    Safe.memories (s.resumeJob t copy) := by
  unfold State.resumeJob
  dsimp only
  split
  · split
    · exact h.updFault.setMatHead
    · exact h.updFault
  · exact h.updFault

/-! ### The governor (R173, R346, R349) -/

theorem Safe.memories.next_faultRewalk {s : State} {troupe : TroupeId} {copySide : Bool} (h : Safe.memories s) :
    Safe.next (execFaultRewalk troupe copySide s) := by
  unfold execFaultRewalk
  refine .of ?_
  split
  · refine .ite h ?_
    dsimp only
    split
    · exact h.updFault.andThen fun ht => ht.resumeJob
    · exact h.updFault
    · exact h.updFault.retireFaulted
    · exact h.updFault.retireFaulted
    · split
      · exact (h.updFault.fireWalk.fst ‹_›).retireFaulted
      · exact h.updFault.fireWalk.fst ‹_›
  · exact h

theorem Safe.memories.next_faultTimeout {s : State} {troupe : TroupeId} {copySide : Bool} (h : Safe.memories s) :
    Safe.next (execFaultTimeout troupe copySide s) := by
  unfold execFaultTimeout
  refine .of ?_
  split
  · exact .ite h.retireFaulted h
  · exact h

theorem Safe.memories.next_faultNoticeRetry {s : State} {troupe : TroupeId} {copySide : Bool} (h : Safe.memories s) :
    Safe.next (execFaultNoticeRetry troupe copySide s) := by
  unfold execFaultNoticeRetry
  exact .of h.sendFault

/-! ### Streams (R149) -/

theorem Safe.memories.next_streamStripFetch {s : State} {core : CoreId} {ctx : CtxId} {reg : Fin 4} (h : Safe.memories s) :
    Safe.next (execStreamStripFetch core ctx reg s) := by
  unfold execStreamStripFetch
  refine .of (.ite h ?_)
  dsimp only
  split
  · exact (h.other.fetchStrip.of_eq_ok ‹_›).updCtx.other
  · exact h

/-! ### The link layer (R332) -/

theorem Safe.memories.next_flitReceive {s : State} {link : Fin 16} {seq ack : BitVec 16} {head : FlitHead} {crcOk : Bool}
    (h : Safe.memories s) :
    Safe.next (execFlitReceive link seq ack head crcOk s) := by
  unfold execFlitReceive
  exact .of (.ite h (.ite h.updLink (h.updLink.andThen fun ht => ht.takeLinkDown.autoTrain)))

theorem Safe.memories.sendFlit {s : State} {k : Fin 16} (h : Safe.memories s) : Safe.memories (s.sendFlit k) := by
  unfold State.sendFlit
  refine .ite h ?_
  split
  · exact h
  · exact h.updLink

theorem Safe.memories.replayFlit {s : State} {k : Fin 16} {seq : BitVec 16} (h : Safe.memories s) :
    Safe.memories (s.replayFlit k seq) := by
  unfold State.replayFlit
  dsimp only
  split
  · exact h.updLink.andThen fun ht => ht.takeLinkDown.autoTrain
  · exact h

theorem Safe.memories.linkTimer {s : State} {k : Fin 16} (h : Safe.memories s) : Safe.memories (s.linkTimer k) := by
  unfold State.linkTimer
  dsimp only
  split
  · exact .ite h.takeLinkDown.autoTrain h
  · exact h

theorem Safe.memories.next_linkDown {s : State} {link : Fin 16} (h : Safe.memories s) : Safe.next (execLinkDown link s) := by
  unfold execLinkDown
  exact .of (.ite h.takeLinkDown.autoTrain h)

/-! ### Training (R344, R345) -/

theorem Safe.memories.next_linkStepGo {s : State} {link : Fin 16} (h : Safe.memories s) : Safe.next (execLinkStepGo link s) := by
  unfold execLinkStepGo
  exact .of h.linkGo

theorem Safe.memories.next_linkStepDone {s : State} {link : Fin 16} {pass : Bool} {peer : BitVec 48} {profiles : BitVec 3}
    (h : Safe.memories s) :
    Safe.next (execLinkStepDone link pass peer profiles s) := by
  unfold execLinkStepDone
  exact .of h.updLink

theorem Safe.memories.next_linkTrainRetry {s : State} {link : Fin 16} (h : Safe.memories s) :
    Safe.next (execLinkTrainRetry link s) := by
  unfold execLinkTrainRetry
  refine .of ?_
  split
  · exact .ite h.autoTrain h
  · exact h

theorem Safe.memories.next_linkDisable {s : State} {link : Fin 16} {on : Bool} (h : Safe.memories s) :
    Safe.next (execLinkDisable link on s) := by
  unfold execLinkDisable
  exact .of h.linkHold

/-! ### Transfers (R333, R334; log 27) -/

theorem Safe.memories.next_peerWrite {s : State} {link : Fin 16} {tag : Word} {off : Nat} {data : List Byte} (h : Safe.memories s) :
    Safe.next (execPeerWrite link tag off data s) := by
  unfold execPeerWrite
  exact .of (.ite (h.updArea fun _ ht => Memory.wf_writeL _ ht _).updLink h)

theorem Safe.memories.next_peerRead {s : State} {link : Fin 16} {tag : Word} {off : Nat} {len : Nat} (h : Safe.memories s) :
    Safe.next (execPeerRead link tag off len s) := by
  unfold execPeerRead
  exact .of (.ite h.updHost.updLink h)

theorem Safe.memories.dropTransfer {s : State} {t : Transfer} (h : Safe.memories s) : Safe.memories (s.dropTransfer t) := h.updHost

theorem Safe.memories.next_readData {s : State} {link : Fin 16} {tag : Word} {data : List Byte} (h : Safe.memories s) :
    Safe.next (execReadData link tag data s) := by
  unfold execReadData
  refine .of ?_
  split
  · exact h
  · split
    · exact .ite h.dropTransfer.peerData h
    · exact .ite h.dropTransfer.journalLoaded h
    · exact h

theorem Safe.memories.next_durableAck {s : State} {link : Fin 16} {tag : Word} (h : Safe.memories s) :
    Safe.next (execDurableAck link tag s) := by
  unfold execDurableAck
  refine .of ?_
  split
  · exact h
  · dsimp only
    split
    · exact h.dropTransfer.peerAnswered
    · exact .ite h.dropTransfer.imagePiece h.dropTransfer.imageDurable
    · exact h.dropTransfer

theorem Safe.memories.next_disb {s : State} {w : Pre} (h : Safe.memories s) : Safe.next (execDisb w s) := by
  unfold execDisb
  exact h.next_runInstr fun _ _ ht => .ok (.ite ht.disband ht)

theorem Safe.memories.formGang {s : State} {w : Pre} {n : Nat} (h : Safe.memories s) : Safe.ends Safe.memories (s.formGang w n) := by
  unfold State.formGang
  exact .ite .trap (.ite .blocked (.ite .trap (.ok (h.updMe.updMe.foldl fun _ _ ht => ht.updCtx))))

theorem Safe.memories.next_gangOp {s : State} {i : Instr} {w : Pre} {n : Nat} (h : Safe.memories s) :
    Safe.next (gangOp i w n s) := by
  unfold Machine.gangOp
  exact h.next_runInstr fun _ _ ht => ht.formGang

theorem Safe.memories.rejoin {s : State} {w : Pre} (h : Safe.memories s) : Safe.ends Safe.memories (s.rejoin w) := by
  unfold State.rejoin
  exact .ite (.halt h.updRegs.block) (.ite (.ok (h.foldl fun _ _ ht => .ite ht.updCtx ht)) (.ok h))

theorem Safe.memories.next_rejn {s : State} {w : Pre} (h : Safe.memories s) : Safe.next (execRejn w s) := by
  unfold execRejn
  exact h.next_runInstr fun _ _ ht => ht.rejoin

theorem Safe.memories.next_illegalInstruction {s : State} {cause : BitVec 8} {value : Word} (h : Safe.memories s) :
    Safe.next (execIllegalInstruction cause value s) := by
  unfold execIllegalInstruction
  exact .of h.takeTrap

theorem Safe.memories.next_fetchFault {s : State} {cause : BitVec 8} {addr : Word} (h : Safe.memories s) :
    Safe.next (execFetchFault cause addr s) := by
  unfold execFetchFault
  exact .of h.takeTrap

/-! ### Loads (R87, R92) -/

theorem Safe.memories.loadAt {s : State} {addr : Word} {n : Nat} {rel : Bool} (h : Safe.memories s) :
    Safe.ends (fun r => Safe.memories r.1) (s.loadAt addr n rel) := by
  unfold State.loadAt
  exact .check h.checkAccess fun _ => .ite (.andThen h.releaseMe fun _ ht => .andThenFst ht.readLoc fun _ _ hu => .ok hu) (.andThen
    (.ok h) fun _ ht => .andThenFst ht.readLoc fun _ _ hu => .ok hu)

theorem Safe.memories.next_loadOp {s : State} {i : Instr} {w : Pre} {d a : GReg} {off : Word} {n : Nat} {signed : Bool}
    (h : Safe.memories s) :
    Safe.next (loadOp i w d a off n signed s) := by
  unfold Machine.loadOp
  exact h.next_runInstr fun _ _ ht => .andThenFst ht.loadAt fun _ _ hu => .ok hu.writeG

/-! ### Stores (R88, R93) -/

theorem Safe.memories.storePlace {s : State} {addr : Word} {n : Nat} (h : Safe.memories s) :
    Safe.ends (fun _ => True) (s.storePlace addr n) := h.checkAccess

theorem Safe.memories.next_storeOp {s : State} {i : Instr} {w : Pre} {d a : GReg} {off : Word} {n : Nat} {rel : Bool}
    (h : Safe.memories s) :
    Safe.next (storeOp i w d a off n rel s) := by
  unfold Machine.storeOp
  exact h.next_runInstr fun _ _ ht => .check ht.storePlace fun _ => ht.storeLoc

/-! ### Atomics (R94 to R96) -/

theorem Safe.memories.next_amo {s : State} {w : Pre} {o : AmoOp} {d a b : GReg} (h : Safe.memories s) :
    Safe.next (execAmo w o d a b s) := by
  unfold execAmo
  exact h.next_runInstr fun _ _ ht => .check ht.checkAccess fun _ => .andThenFst ht.atomicLoc fun _ _ hu => .ok hu.writeG

theorem Safe.memories.next_cas {s : State} {w : Pre} {dbl : Bool} {d a b : GReg} (h : Safe.memories s) :
    Safe.next (execCas w dbl d a b s) := by
  unfold execCas
  exact h.next_runInstr fun _ _ ht => .check ht.checkAccess fun _ => .andThenFst ht.atomicLoc fun _ _ hu => .ok hu.writeG

/-! ### Fences (R97, R98) -/

theorem Safe.memories.fence {s : State} {k : FenceKind} {c : Scope} (h : Safe.memories s) :
    Safe.ends Safe.memories (s.fence k c) := by
  unfold State.fence
  dsimp only
  split
  · exact .andThen h.flushWc fun _ ht => .ite .guardFault (.ok ht)
  · exact .andThen h.releaseMe fun _ ht => .ite .guardFault (.ok ht)
  · exact .andThen h.releaseMe fun _ ht => .ite .guardFault (.ok ht)

theorem Safe.memories.next_fence {s : State} {w : Pre} {k : FenceKind} {c : Scope} (h : Safe.memories s) :
    Safe.next (execFence w k c s) := by
  unfold execFence
  exact h.next_runInstr fun _ _ ht => ht.fence

/-! ### Admission (R346, R347) -/

theorem Safe.memories.admitTroupe {s : State} {t : Nat} (h : Safe.memories s) : Safe.memories (s.admitTroupe t) := by
  unfold State.admitTroupe
  exact .dite (fun _ => h.updTroupe) fun _ => h

theorem Safe.memories.admitDie {s : State} {die : DieId} (h : Safe.memories s) : Safe.memories (s.admitDie die) := by
  unfold State.admitDie
  exact .ite h (h.foldl fun _ _ ht => ht.admitTroupe).updDie

theorem Safe.memories.next_troupeAdmission {s : State} {die : DieId} (h : Safe.memories s) :
    Safe.next (execTroupeAdmission die s) := by
  unfold execTroupeAdmission
  exact .of h.admitDie

theorem Safe.memories.next_troupeIdle {s : State} {troupe : TroupeId} (h : Safe.memories s) :
    Safe.next (execTroupeIdle troupe s) := by
  unfold execTroupeIdle
  exact .of (.ite h.updTroupe h)

/-! ### The throttle (R349) -/

theorem Safe.memories.throttleTo {s : State} {avgw : BitVec 12} (h : Safe.memories s) : Safe.memories (s.throttleTo avgw) := by
  unfold State.throttleTo
  exact .ite h.updPower h

theorem Safe.memories.next_throttleUpdate {s : State} {avgw : BitVec 12} (h : Safe.memories s) :
    Safe.next (execThrottleUpdate avgw s) := by
  unfold execThrottleUpdate
  exact .of h.throttleTo

/-! ### Power gating (R351) -/

theorem Safe.memories.next_clusterGateWrite {s : State} {die : DieId} {w : BitVec 32} (h : Safe.memories s) :
    Safe.next (execClusterGateWrite die w s) := by
  unfold execClusterGateWrite
  exact .of h.gateWrite

theorem Safe.memories.next_clusterWake {s : State} {cluster : ClusterId} (h : Safe.memories s) :
    Safe.next (execClusterWake cluster s) := by
  unfold execClusterWake
  exact .of h.wakeCluster

theorem Safe.memories.next_clusterSupplySettled {s : State} {cluster : ClusterId} (h : Safe.memories s) :
    Safe.next (execClusterSupplySettled cluster s) := by
  unfold execClusterSupplySettled
  exact .of h.settled

theorem Safe.memories.summary {s : State} {fn : FuncId} {p : Packet} (h : Safe.memories s) : Safe.memories (s.summary fn p).1 := by
  unfold State.summary
  refine .ite_fst h ?_
  split
  · exact h.extWrite.of_eq_some ‹_›
  · exact h

theorem Safe.memories.next_summary {s : State} {die : DieId} {q : QueueId} (h : Safe.memories s) :
    Safe.next (execSummary die q s) := by
  unfold execSummary
  exact .of (h.perform1 fun _ _ ht => ht.summary)

/-! ### Interrupt vectors (R329) -/

theorem Safe.memories.fire {s : State} {fn : FuncId} {v : Fin 64} (h : Safe.memories s) : Safe.memories (s.fire fn v) := by
  unfold State.fire
  exact .ite h.setVector.updHost h

theorem Safe.memories.next_vectorFire {s : State} {fn : FuncId} {v : Fin 64} (h : Safe.memories s) :
    Safe.next (execVectorFire fn v s) := by
  unfold execVectorFire
  exact .of h.fire

theorem Safe.memories.next_vectorUnmask {s : State} {fn : FuncId} {v : Fin 64} (h : Safe.memories s) :
    Safe.next (execVectorUnmask fn v s) := by
  unfold execVectorUnmask
  exact .of h.setVector.fire

/-! ### Completion queues (R328) -/

theorem Safe.memories.headWrite {s : State} {q : QueueId} {head : BitVec 32} (h : Safe.memories s) :
    Safe.memories (s.headWrite q head) := h.updCpl.postHeld

theorem Safe.memories.next_completionHeadWrite {s : State} {q : QueueId} {head : BitVec 32} (h : Safe.memories s) :
    Safe.next (execCompletionHeadWrite q head s) := by
  unfold execCompletionHeadWrite
  exact .of h.headWrite

/-! ### CXL.mem (R317, R318) -/

theorem Safe.memories.hostRead {s : State} {fn : FuncId} {pa len : Nat} {ok : Bool} (h : Safe.memories s) :
    Safe.memories (s.hostRead fn pa len ok) := by
  unfold State.hostRead
  exact .updHost (.other (.ite h.inject h))

theorem Safe.memories.hostAccess {s : State} {fn : FuncId} {pa : Nat} {write : Option (List Byte)} {len : Nat} (h : Safe.memories s) :
    Safe.memories (s.hostAccess fn pa write len) := by
  unfold State.hostAccess
  refine .ite h ?_
  split
  · exact .ite h.writePhys h
  · exact h.hostRead

theorem Safe.memories.hostOwn {s : State} {pa : Nat} {a : HostAccess} (h : Safe.memories s) : Safe.memories (s.hostOwn pa a) := by
  unfold State.hostOwn
  dsimp only
  split <;> exact .ite h.writePhys h

theorem Safe.memories.next_hostMemAccess {s : State} {fn : FuncId} {pa : Nat} {write : Option (List Byte)} {len : Nat}
    (h : Safe.memories s) :
    Safe.next (execHostMemAccess fn pa write len s) := by
  unfold execHostMemAccess
  exact .of h.hostAccess

/-! ### BAR0 (R319, R328, R329, R334, R339) -/

theorem Safe.memories.mapCmd {s : State} {q : QueueId} {w : Word} (h : Safe.memories s) : Safe.memories (s.mapCmd q w) := by
  unfold State.mapCmd
  split
  · exact .ite h h.updCmd
  · exact h

theorem Safe.memories.mapCpl {s : State} {q : QueueId} {w : Word} (h : Safe.memories s) : Safe.memories (s.mapCpl q w) := by
  unfold State.mapCpl
  split
  · exact .ite h h.updCpl
  · exact h

theorem Safe.memories.cmdWrite {s : State} {q : QueueId} {off : Nat} {w : Word} (h : Safe.memories s) :
    Safe.memories (s.cmdWrite q off w) := by
  unfold State.cmdWrite
  split
  · exact h.updCmd
  · exact h.updCmd.andThen fun ht => ht.updCmd
  · exact h.updCmd
  · exact h

theorem Safe.memories.cplWrite {s : State} {q : QueueId} {off : Nat} {w : Word} (h : Safe.memories s) :
    Safe.memories (s.cplWrite q off w) := by
  unfold State.cplWrite
  split
  · exact h.updCpl
  · exact h.updCpl.headWrite
  · exact h.headWrite
  · exact h.updCpl
  · exact h

theorem Safe.memories.vectorWrite {s : State} {fn : FuncId} {v : Fin 64} {w : Word} (h : Safe.memories s) :
    Safe.memories (s.vectorWrite fn v w) := h.setVector

theorem Safe.memories.barWrite {s : State} {fn : FuncId} {off : Nat} {w : Word} (h : Safe.memories s) :
    Safe.memories (s.barWrite fn off w) := by
  unfold State.barWrite
  exact .ite (.ite h.updBoot h) (.ite (.ite h.updBoot h) (.dite (fun _ => .ite h.mapCmd h) fun _ => .dite (fun _ => .ite h.mapCpl h)
    fun _ => .dite (fun _ => .ite h.cmdWrite h) fun _ => .dite (fun _ => .ite h.cplWrite h) fun _ => .dite (fun _ =>
    .ite h.vectorWrite h) fun _ => h))

theorem Safe.memories.regWrite {s : State} {fn : Option FuncId} {pa : Nat} {w : Word} (h : Safe.memories s) :
    Safe.memories (s.regWrite fn pa w) := by
  unfold State.regWrite
  split
  · exact h.regStore
  · exact .dite (fun _ => .ite h.updHbm h.updHbm) fun _ => h

theorem Safe.memories.maskWrite {s : State} {fn : FuncId} {v : Fin 64} {w : Word} (h : Safe.memories s) :
    Safe.memories (s.maskWrite fn v w) := h.setVector.fire

theorem Safe.memories.next_registerWrite {s : State} {r : RegAddr} {w : Word} (h : Safe.memories s) :
    Safe.next (execRegisterWrite r w s) := by
  unfold execRegisterWrite
  refine .of ?_
  split
  · exact h.barWrite
  · exact h.regWrite
  · exact h.maskWrite

/-! ### The monitor's registers of a core (R221, R281) -/

theorem Safe.memories.next_windowEnableWrite {s : State} {core : CoreId} {k : Fin 16} {w : Word} (h : Safe.memories s) :
    Safe.next (execWindowEnableWrite core k w s) := by
  unfold execWindowEnableWrite
  exact .of h.updCore

theorem Safe.memories.next_windowBoundWrite {s : State} {core : CoreId} {k : Fin 16} {limit : Bool} {w : Word} (h : Safe.memories s) :
    Safe.next (execWindowBoundWrite core k limit w s) := by
  unfold execWindowBoundWrite
  exact .of h.updCore

theorem Safe.memories.next_errorInjectArm {s : State} {core : CoreId} {w : Word} (h : Safe.memories s) :
    Safe.next (execErrorInjectArm core w s) := by
  unfold execErrorInjectArm
  refine .of ?_
  split
  · exact h.setCore (Core.writeEinjc_wf (wf_scratch h _) ‹_›)
  · exact h.monitorFault

/-! ### VSFU -/

theorem Safe.memories.next_vsfu {s : State} {w : Pre} {fn : SfuFn} {d a : VReg} (h : Safe.memories s) :
    Safe.next (execVsfu w fn d a s) := by
  unfold execVsfu
  exact h.next_runInstr fun _ _ ht => .check .checkDst fun _ => .andThenFst ht.readV fun _ _ hu => .ok hu.vwrite

theorem Safe.memories.checkElems {s : State} {w : Nat} {kind : Kind} {addr : Nat → Word} {l : List Nat} (h : Safe.memories s) :
    Safe.ends (fun _ => True) (s.checkElems w kind addr l) := by
  induction l with
  | nil => exact .ok trivial
  | cons i l ih =>
    unfold State.checkElems
    exact .check h.checkAccess fun _ => .check ih fun _ => .ok trivial

theorem Safe.memories.trimVerifs {s : State} {old : List Verif} {keep : Nat} (h : Safe.memories s) :
    Safe.ends Safe.memories (s.trimVerifs old keep) := by
  unfold State.trimVerifs
  dsimp only
  split
  · exact .halt h.ctxIntegrity
  · exact .ok h.updMe

theorem Safe.memories.readElems {s : State} {w : Nat} {old : List Verif} {l : List (Nat × Loc)} (h : Safe.memories s) :
    Safe.ends (fun r => Safe.memories r.1) (s.readElems w old l) := by
  induction l generalizing s with
  | nil => exact .ok h
  | cons x l ih =>
    obtain ⟨i, x⟩ := x
    unfold State.readElems
    have hr : ∀ t, Safe.memories t → Safe.ends (fun r => Safe.memories r.1) (do
        let (t, bs) ← t.readLocBy false x w
        let t ← t.trimVerifs old 32
        let (t, rest) ← t.readElems w old l
        .ok (t, (i, leNat bs) :: rest)) := fun _ ht => .andThenFst ht.readLocBy fun _ _ hu =>
      .andThen hu.trimVerifs fun _ hv => .andThenFst (ih hv) fun _ _ hw => .ok hw
    exact .ite (.andThen h.trimVerifs hr) (hr _ h)

theorem Safe.memories.vload {s : State} {w : Pre} {width : Nat} {d : VReg} {addr : Nat → Word} (h : Safe.memories s) :
    Safe.ends Safe.memories (s.vload w width d addr) := by
  unfold State.vload
  exact .check h.checkElems fun _ => .ite (.andThen h.releaseMe fun _ ht => .ite .blocked (.andThenFst ht.readElems fun _ _ hu =>
    .ok hu.setV)) (.andThen (.ok h) fun _ ht => .ite .blocked (.andThenFst ht.readElems fun _ _ hu => .ok hu.setV))

theorem Safe.memories.storeElems {s : State} {w : Nat} {log : Bool} {val : Nat → Nat} {l : List (Nat × Loc)} (h : Safe.memories s) :
    Safe.ends Safe.memories (s.storeElems w log val l) := by
  induction l generalizing s with
  | nil => exact .ok h
  | cons x l ih =>
    obtain ⟨_, _⟩ := x
    unfold State.storeElems
    exact .check h.keyHeld fun _ => .andThen (.ite (.ok h.guardTouch) (.ok (.buffer (.ite h.logWrite h)))) fun _ ht => ih ht

theorem Safe.memories.vstore {s : State} {w : Pre} {width : Nat} {x : BitVec 512} {addr : Nat → Word} {whole : Bool}
    (h : Safe.memories s) :
    Safe.ends Safe.memories (s.vstore w width x addr whole) := by
  unfold State.vstore
  refine .check h.checkElems fun _ => .ite .blocked (Safe.memories.storeElems ?_)
  split
  · exact .ite h h.logWrite
  · exact h

theorem Safe.ends.lineAligned {a : Word} : Safe.ends (fun _ => True) (lineAligned a) := by
  unfold Machine.lineAligned
  exact .ite .trap (.ok trivial)

theorem Safe.memories.next_vld {s : State} {w : Pre} {t : ElemTy} {d : VReg} {a : GReg} (h : Safe.memories s) :
    Safe.next (execVld w t d a s) := by
  unfold execVld
  exact h.next_runInstr fun _ _ ht => .check .checkDst fun _ => .check .lineAligned fun _ => ht.vload

theorem Safe.memories.next_vst {s : State} {w : Pre} {t : ElemTy} {d : VReg} {a : GReg} (h : Safe.memories s) :
    Safe.next (execVst w t d a s) := by
  unfold execVst
  exact h.next_runInstr fun _ _ ht => .check .lineAligned fun _ => .andThenFst ht.readV fun _ _ hu => hu.vstore

theorem Safe.memories.next_vlds {s : State} {w : Pre} {t : ElemTy} {d : VReg} {a b : GReg} (h : Safe.memories s) :
    Safe.next (execVlds w t d a b s) := by
  unfold execVlds
  exact h.next_runInstr fun _ _ ht => .check .checkDst fun _ => ht.vload

theorem Safe.memories.next_vsts {s : State} {w : Pre} {t : ElemTy} {d : VReg} {a b : GReg} (h : Safe.memories s) :
    Safe.next (execVsts w t d a b s) := by
  unfold execVsts
  exact h.next_runInstr fun _ _ ht => .andThenFst ht.readV fun _ _ hu => hu.vstore

theorem Safe.memories.next_vgth {s : State} {w : Pre} {t : ElemTy} {d : VReg} {a : GReg} {b : VReg} (h : Safe.memories s) :
    Safe.next (execVgth w t d a b s) := by
  unfold execVgth
  exact h.next_runInstr fun _ _ ht => .check .checkDst fun _ => .andThenFst ht.readV fun _ _ hu => hu.vload

theorem Safe.memories.next_vsct {s : State} {w : Pre} {t : ElemTy} {d : VReg} {a : GReg} {b : VReg} (h : Safe.memories s) :
    Safe.next (execVsct w t d a b s) := by
  unfold execVsct
  exact h.next_runInstr fun _ _ ht => .andThenFst ht.readV fun _ _ hu => .andThenFst hu.readV fun _ _ hv => hv.vstore

theorem Safe.memories.next_pageWalk {s : State} {core : CoreId} {tag : Tag} {va : Nat} (h : Safe.memories s) :
    Safe.next (execPageWalk core tag va s) := by
  unfold execPageWalk
  refine .of (.ite h ?_)
  split
  · exact h
  · exact h.updCore.updTroupe.updCluster

theorem Safe.memories.next_shootdownGo {s : State} {cluster : ClusterId} {writer : BlockWriter} {w : Word} (h : Safe.memories s) :
    Safe.next (execShootdownGo cluster writer w s) := by
  unfold execShootdownGo
  refine .of ?_
  split
  · exact h.blockStore
  · exact h.updCluster

theorem Safe.memories.next_shootdownComplete {s : State} {cluster : ClusterId} (h : Safe.memories s) :
    Safe.next (execShootdownComplete cluster s) := by
  unfold execShootdownComplete
  refine .of ?_
  split
  · exact .ite h.shootdown.updCluster h
  · exact h

theorem Safe.memories.next_exec {s : State} {i : Instr} (h : Safe.memories s) : Safe.next (exec i s) := by
  unfold exec
  cases i with
  | add | sub | and | or | xor | andn | shl | shr | sar | rol | min | max | minu | maxu | addw | subw | mul | mulh | mulhu | mulw
    | div | divu | rem | remu | lea | rng => exact h.next_gOp3
  | addi | andi | ori | xori | shli | shri | sari | clz | ctz | popc | brev | bswap | sextb | sexth | sextw | zextb | zexth
    | zextw => exact h.next_gOp2
  | movi | movrFg | movrPg | fcls => exact h.next_gOp1
  | cmp => exact h.next_cmp
  | cmpi => exact h.next_cmpi
  | sel => exact h.next_sel
  | pand | por | pxor | pandn | pnot | pmov => exact h.next_pOp
  | ldb | ldbu | ldh | ldhu | ldw | ldwu | ldd | lda => exact h.next_loadOp
  | stb | sth | stw | std | stl => exact h.next_storeOp
  | amo => exact h.next_amo
  | cas => exact h.next_cas
  | fence => exact h.next_fence
  | send => exact h.next_send
  | hdef => exact h.next_hdef
  | hen => exact h.next_hen
  | hdis => exact h.next_hdis
  | hsetp => exact h.next_hsetp
  | hclrp => exact h.next_hclrp
  | spawn => exact h.next_spawn
  | tdec => exact h.next_tdec
  | wfm => exact h.next_wfm
  | bar => exact h.next_bar
  | bara => exact h.next_bara
  | barw => exact h.next_barw
  | jmpr => exact h.next_jmpr
  | jmprCall => exact h.next_jmprCall
  | tgt => exact h.next_tgt
  | lps => exact h.next_lps
  | lpsi => exact h.next_lpsi
  | disb => exact h.next_disb
  | gang2 | gang4 | gang8 => exact h.next_gangOp
  | rejn => exact h.next_rejn
  | movrGf => exact h.next_movrGf
  | movrGp => exact h.next_movrGp
  | srd => exact h.next_srd
  | swr | ssb | scb => exact h.next_csrUpdate
  | cmit => exact h.next_cmit
  | mver | gpub | grev | spgd | mcall => exact h.next_monitorCall
  | brk => exact h.next_brk
  | fadd | fsub | fmul | fdiv | fmin | fmax | fcpys => exact h.next_fOp3
  | fsqrt | fmv | fneg | fabs => exact h.next_fOp2
  | fma | fms | fnma | fnms => exact h.next_fmaOp
  | fcmp => exact h.next_fcmp
  | fcvt => exact h.next_fcvt
  | tbld => exact h.next_tbld
  | enc => exact h.next_enc
  | dec => exact h.next_dec
  | scal => exact h.next_scal
  | vadd | vsub | vmul | vmin | vmax | vand | vor | vxor | vshl | vshr | vsar => exact h.next_velem
  | vfma => exact h.next_vfma
  | vcmp => exact h.next_vcmp
  | vsel => exact h.next_vsel
  | vcvt => exact h.next_vcvt
  | vabs | vneg => exact h.next_vun
  | vred => exact h.next_vred
  | vbc => exact h.next_vbc
  | vperm => exact h.next_vperm
  | vsld => exact h.next_vsld
  | vins => exact h.next_vins
  | vext => exact h.next_vext
  | vld => exact h.next_vld
  | vst => exact h.next_vst
  | vlds => exact h.next_vlds
  | vsts => exact h.next_vsts
  | vgth => exact h.next_vgth
  | vsct => exact h.next_vsct
  | vdotqq => exact h.next_vdotqq
  | vdothh => exact h.next_vdothh
  | vdotnn => exact h.next_vdotnn
  | vtopk => exact h.next_vtopk
  | venc => exact h.next_venc
  | vdec => exact h.next_vdec
  | vsfu => exact h.next_vsfu
  | strmOn => exact h.next_strmOn
  | strmOff => exact h.next_strmOff
  | vmsk => exact h.next_vmsk
  | mmaqq | mmahh | mmann => exact h.next_mmaOp
  | mzero => exact h.next_mzero
  | mwait => exact h.next_mwait
  | mpoll => exact h.next_mpoll
  | mtbl => exact h.next_mtbl
  | mlsf => exact h.next_mlsf
  | mst => exact h.next_mst
  | copy => exact h.next_copy
  | cwait => exact h.next_cwait
  | cpoll => exact h.next_cpoll
  | bwait => exact h.next_bwait
  | bset => exact h.next_bset
  | bstat => exact h.next_bstat
  | gcall => exact h.next_gcall
  | gret => exact h.next_gret
  | dsr => exact h.next_dsr
  | cue => exact h.next_cue
  | emit => exact h.next_emit
  | hpost => exact h.next_hpost
  | mret => exact h.next_mret
  | invpg => exact h.next_invpg
  | keyld => exact h.next_keyld
  | keyz => exact h.next_keyz
  | ctxsv => exact h.next_ctxsv
  | ctxld => exact h.next_ctxld
  | halt => exact h.next_halt
  | hrel => exact h.next_hrel
  | waitpQ => exact h.next_waitpQ
  | waitpGeu => exact h.next_waitpGeu
  | waitpNe => exact h.next_waitpNe
  | messageArrival => exact h.next_messageArrival
  | refusalArrival => exact h.next_refusalArrival
  | refusalRetry => exact h.next_refusalRetry
  | activationStart => exact h.next_activationStart
  | theftAttempt => exact h.next_theftAttempt
  | activationEnd => exact h.next_activationEnd
  | longResultReturn => exact h.next_longResultReturn
  | storeBufferDrain => exact h.next_storeBufferDrain
  | verificationResolve => exact h.next_verificationResolve
  | outboxSend => exact h.next_outboxSend
  | streamHalt => exact h.next_streamHalt
  | tdecHome => exact h.next_tdecHome
  | fpEvent => exact h.next_fpEvent
  | fpNoticeRetry => exact h.next_fpNoticeRetry
  | fpResume => exact h.next_fpResume
  | fpKill => exact h.next_fpKill
  | mmodeEntry => exact h.next_mmodeEntry
  | preemptionNotice => exact h.next_preemptionNotice
  | pmreqStop => exact h.next_pmreqStop
  | safePointStop => exact h.next_safePointStop
  | forcedStop => exact h.next_forcedStop
  | pmreqFree => exact h.next_pmreqFree
  | budgetExhausted => exact h.next_budgetExhausted
  | budgetWindowStart => exact h.next_budgetWindowStart
  | chargeFold => exact h.next_chargeFold
  | ceilingExpiry => exact h.next_ceilingExpiry
  | rollback => exact h.next_rollback
  | patrolScrub => exact h.next_patrolScrub
  | matrixJobStart => exact h.next_matrixJobStart
  | rowGroupCommit => exact h.next_rowGroupCommit
  | mzeroEntryRun => exact h.next_mzeroEntryRun
  | mtblEntryRun => exact h.next_mtblEntryRun
  | mstEntryRun => exact h.next_mstEntryRun
  | completionRetry => exact h.next_completionRetry
  | enginePageFault => exact h.next_enginePageFault
  | faultRewalk => exact h.next_faultRewalk
  | faultTimeout => exact h.next_faultTimeout
  | faultNoticeRetry => exact h.next_faultNoticeRetry
  | copyJobStart => exact h.next_copyJobStart
  | copyJobRetire => exact h.next_copyJobRetire
  | streamStripFetch => exact h.next_streamStripFetch
  | pageWalk => exact h.next_pageWalk
  | shootdownGo => exact h.next_shootdownGo
  | shootdownComplete => exact h.next_shootdownComplete
  | cueFlitSend => exact h.next_cueFlitSend
  | cueAck => exact h.next_cueAck
  | cueFlitResend => exact h.next_cueFlitResend
  | queueDoorbell => exact h.next_queueDoorbell
  | queueRun => exact h.next_queueRun
  | packetFetch => exact h.next_packetFetch
  | launch => exact h.next_launch
  | launchRetry => exact h.next_launchRetry
  | launchShareComplete => exact h.next_launchShareComplete
  | cond => exact h.next_cond
  | wait => exact h.next_wait
  | waitConditionMet => exact h.next_waitConditionMet
  | signal => exact h.next_signal
  | queueFence => exact h.next_queueFence
  | queueFenceComplete => exact h.next_queueFenceComplete
  | copyHost => exact h.next_copyHost
  | regionCreate => exact h.next_regionCreate
  | regionKill => exact h.next_regionKill
  | domainCreate => exact h.next_domainCreate
  | measure => exact h.next_measure
  | lock => exact h.next_lock
  | start => exact h.next_start
  | attest => exact h.next_attest
  | teardown => exact h.next_teardown
  | scrubPhaseDone => exact h.next_scrubPhaseDone
  | register => exact h.next_register
  | reassign => exact h.next_reassign
  | trunc => exact h.next_trunc
  | checkpoint => exact h.next_checkpoint
  | checkpointQueueTimeout => exact h.next_checkpointQueueTimeout
  | checkpointManifestAck => exact h.next_checkpointManifestAck
  | summary => exact h.next_summary
  | peerCopy => exact h.next_peerCopy
  | assign => exact h.next_assign
  | setReplay => exact h.next_setReplay
  | clearReplay => exact h.next_clearReplay
  | completionHeadWrite => exact h.next_completionHeadWrite
  | vectorFire => exact h.next_vectorFire
  | hostMemAccess => exact h.next_hostMemAccess
  | flitReceive => exact h.next_flitReceive
  | linkDown => exact h.next_linkDown
  | peerWrite => exact h.next_peerWrite
  | peerRead => exact h.next_peerRead
  | readData => exact h.next_readData
  | durableAck => exact h.next_durableAck
  | linkStepGo => exact h.next_linkStepGo
  | linkStepDone => exact h.next_linkStepDone
  | linkTrainRetry => exact h.next_linkTrainRetry
  | linkDisable => exact h.next_linkDisable
  | coldStart => exact h.next_coldStart
  | warmPackageReset => exact h.next_warmPackageReset
  | functionLevelReset => exact h.next_functionLevelReset
  | railFault => exact h.next_railFault
  | bootRecoveryGo => exact h.next_bootRecoveryGo
  | hbmStepGo => exact h.next_hbmStepGo
  | hbmStepDone => exact h.next_hbmStepDone
  | hbmRetrain => exact h.next_hbmRetrain
  | troupeAdmission => exact h.next_troupeAdmission
  | troupeIdle => exact h.next_troupeIdle
  | throttleUpdate => exact h.next_throttleUpdate
  | clusterGateWrite => exact h.next_clusterGateWrite
  | clusterWake => exact h.next_clusterWake
  | windowEnableWrite => exact h.next_windowEnableWrite
  | windowBoundWrite => exact h.next_windowBoundWrite
  | errorInjectArm => exact h.next_errorInjectArm
  | registerWrite => exact h.next_registerWrite
  | illegalInstruction => exact h.next_illegalInstruction
  | fetchFault => exact h.next_fetchFault
  | vectorUnmask => exact h.next_vectorUnmask
  | clusterSupplySettled => exact h.next_clusterSupplySettled
  | memoryClearComplete => exact h.next_memoryClearComplete

/-! ### The hart's steps -/

theorem Safe.memories.hartIllegal {s : State} (h : Safe.memories s) : Safe.memories s.hartIllegal := h.hartTrap.other

theorem Safe.memories.hartGo {s : State} {rd : Fin 32} {v pc : Word} (h : Safe.memories s) : Safe.memories (s.hartGo rd v pc) := h.updHart

theorem Safe.memories.hartWrite {s : State} {a : Nat} {bs : List Byte} (h : Safe.memories s) :
    Safe.given Safe.memories (s.hartWrite a bs) := by
  unfold State.hartWrite
  refine .ite (.some (h.updSram fun _ hx => Memory.wf_writeL _ hx _)) (.ite ?_ .none)
  dsimp only
  split
  · exact .none
  · refine .ite (.some h) ?_
    split
    · exact .some h.updCluster
    · exact .some h.devWrite
  · exact .some h.writePhys

theorem Safe.memories.hartCsrWrite {s : State} {n : Nat} {w : Word} (h : Safe.memories s) : Safe.memories (s.hartCsrWrite n w) :=
    h.updHart

theorem Safe.memories.hartZicsr {s : State} {w : BitVec 32} {next : Word} (h : Safe.memories s) :
    Safe.memories (s.hartZicsr w next) := by
  unfold State.hartZicsr
  dsimp only
  split
  · exact h.hartIllegal
  · exact .ite h.hartIllegal (h.hartGo.orElse fun ht => ht.hartCsrWrite)

theorem Safe.memories.hartLoad {s : State} {w : BitVec 32} {next : Word} (h : Safe.memories s) :
    Safe.memories (s.hartLoad w next) := by
  unfold State.hartLoad
  refine .ite h.hartIllegal (.ite h.hartTrap ?_)
  split
  · exact h.hartTrap
  · exact h.hartGo

theorem Safe.memories.hartStore {s : State} {w : BitVec 32} {next : Word} (h : Safe.memories s) :
    Safe.memories (s.hartStore w next) := by
  unfold State.hartStore
  refine .ite h.hartIllegal (.ite h.hartTrap ?_)
  split
  · exact h.hartTrap
  · exact (h.hartWrite.of_eq_some ‹_›).hartGo

theorem Safe.memories.hartAtomic {s : State} {w : BitVec 32} {next : Word} (h : Safe.memories s) :
    Safe.memories (s.hartAtomic w next) := by
  unfold State.hartAtomic
  refine h.hartIllegal.orElse fun ht => ht.orElse fun _ => .ite h.hartTrap ?_
  split
  · exact h.hartTrap
  · dsimp only
    split
    · exact h.updHart.hartGo
    · refine .ite ?_ h.updHart.hartGo
      split
      · exact (h.updHart.hartWrite.of_eq_some ‹_›).hartGo
      · exact h.hartTrap
    · split
      · exact ht
      · split
        · exact (h.hartWrite.of_eq_some ‹_›).hartGo
        · exact h.hartTrap

theorem Safe.memories.hartSystem {s : State} {w : BitVec 32} {next : Word} (h : Safe.memories s) :
    Safe.memories (s.hartSystem w next) := by
  unfold State.hartSystem
  refine .ite (.ite h.hartIllegal h.hartZicsr) (h.hartIllegal.orElse fun ht => ?_)
  split
  · exact h.hartTrap
  · exact h.hartTrap
  · exact h.updHart
  · exact h.hartGo
  · exact ht

theorem Safe.memories.hartWord {s : State} {w : BitVec 32} {next : Word} (h : Safe.memories s) :
    Safe.memories (s.hartWord w next) := by
  unfold State.hartWord
  dsimp only
  split
  · exact h.hartGo
  · exact h.hartGo
  · exact h.hartGo
  · exact .ite h.hartGo h.hartIllegal
  · split
    · exact h.hartGo
    · exact h.hartIllegal
  · exact h.hartLoad
  · exact h.hartStore
  · exact .ite h.hartIllegal h.hartGo
  · refine h.hartIllegal.orElse fun ht => ?_
    split
    · exact h.hartGo
    · exact ht
  · exact .ite h.hartGo (.ite h.hartGo h.hartIllegal)
  · refine .ite ?_ (h.hartIllegal.andThen fun ht => ?_)
    · split
      · exact h.hartGo
      · exact h.hartIllegal
    · split
      · exact h.hartGo
      · exact ht
  · exact h.hartAtomic
  · exact .ite h.hartGo h.hartIllegal
  · exact h.hartSystem
  · exact h.hartIllegal

/-! ### Compressed words -/

theorem Safe.memories.hartStep {s : State} {v : BitVec 32} (h : Safe.memories s) : Safe.memories (s.hartStep v) := by
  unfold State.hartStep
  refine .ite h.hartWord ?_
  split
  · exact h.hartWord
  · exact h.hartIllegal

theorem Safe.memories.moveFrames {s : State} {old new : Nat} (h : Safe.memories s) : Safe.memories (s.moveFrames old new) := h.other

theorem Safe.memories.switchOut {s : State} {c : CoreId} {out : Tag} {k : CtxId} (h : Safe.memories s) :
    Safe.memories (s.switchOut c out k) := by
  unfold State.switchOut
  split
  · exact h
  · split
    · exact h.moveFrames
    · exact h
  · exact h.saveCtx

theorem Safe.memories.switchIn {s : State} {c : CoreId} {t : Tag} {k : CtxId} (h : Safe.memories s) :
    Safe.memories (s.switchIn c t k) := by
  unfold State.switchIn
  split
  · exact .ite h.loadCtx.releaseCtx h
  · exact h

theorem Safe.memories.switchDomain {s : State} {c : CoreId} {t : Tag} (h : Safe.memories s) :
    Safe.memories (s.switchDomain c t) := by
  unfold State.switchDomain
  dsimp only
  split
  · refine .ite h (.updCore (.foldl (.updCore (.updDom (.andThen (.foldl (.freeCtxs (.foldl h fun _ _ ht => ht.switchOut))
      fun _ _ ht => ht.updCtx) fun ht => ht.updDom)) fun _ => ?_) fun _ _ ht => ht.switchIn))
    exact Core.installPlan_scratch ..
  · exact h

/-! ### Issuing -/

theorem Safe.memories.next_runBank {s : State} (h : Safe.memories s) : Safe.next s.runBank := by
  unfold State.runBank
  dsimp only
  split
  · exact h.next_exec
  · split
    · exact h.updRegs.next_exec
    · exact .of h
    · split
      · exact h.forwardFetched.next_exec
      · exact h.next_settle (h.fetch.of_eq_error ‹_›)

/-! ### Waits (R17, R370) -/

theorem Safe.memories.takeWaiting {s : State} {c : CoreId} {k : CtxId} (h : Safe.memories s) :
    Safe.memories (s.takeWaiting c k) := by
  unfold State.takeWaiting
  split
  · dsimp only
    split
    · exact h.updCore.unpend.updCtx
    · exact h
  · exact h

theorem Safe.memories.wake {s : State} {c : CoreId} {k : CtxId} (h : Safe.memories s) : Safe.memories (s.wake c k) := by
  unfold State.wake
  refine .ite h ?_
  dsimp only
  split <;> exact h.takeWaiting.updCtx

/-! ### A core's choice (R17) -/

theorem Safe.memories.next_issueBank {s : State} {c : CoreId} {b : BankId} (h : Safe.memories s) : Safe.next (s.issueBank c b) := by
  unfold State.issueBank
  exact .ite (.of (.dite (fun _ => h.onBank.safeStop) fun _ => h.onBank)) h.onBank.next_runBank

theorem Safe.memories.next_issue {s : State} {c : CoreId} (h : Safe.memories s) : Safe.next (s.issue c) := by
  unfold State.issue
  refine .ite (.of h) ?_
  split
  · exact h.updCore.next_issueBank
  · exact .of h

/-! ### Clocks (R173, R203, R263) -/

theorem Safe.memories.clockStarts {s : State} (h : Safe.memories s) : Safe.memories s.clockStarts :=
  (h.foldl fun _ _ ht => ht.admitDie).throttleTo

theorem Safe.memories.openWindows {s : State} (h : Safe.memories s) : Safe.memories s.openWindows := h.foldl fun _ _ ht => ht.openWindow

theorem Safe.memories.clockOnce {s : State} (h : Safe.memories s) : Safe.memories s.clockOnce := by
  unfold State.clockOnce
  have hs := h.clockStarts
  dsimp only
  refine .openWindows (.andThen (.foldl ?_ fun _ _ ht => ht.updCtx) fun ht => ht.foldAll)
  split
  · exact hs.mapTroupes fun e he => (congrArg Memory.wf (Troupe.govern_acc ..)).trans he
  · exact hs.other

theorem Safe.memories.tick {s : State} {n : Nat} (h : Safe.memories s) : Safe.memories (s.tick n) := by
  induction n generalizing s with
  | zero => exact h
  | succ n ih =>
    unfold State.tick
    exact ih h.clockOnce

/-! ### Stage-manager harts (R330, R331) -/

theorem Safe.memories.next_runHart {s : State} {d : DieId} {q : QueueId} (h : Safe.memories s) : Safe.next (s.runHart d q) := by
  unfold State.runHart
  refine .ite (.of h.other) ?_
  split
  · exact .of h.other.hartTrap
  · split
    · exact h.other.next_exec
    · exact .of h.other.hartStep

/-! ### Moves -/

theorem Safe.memories.next_act {s : State} {m : Move} (h : Safe.memories s) : Safe.next (s.act m) := by
  unfold State.act
  split
  · exact h.next_issue
  · exact .of h.wake
  · exact .of h.serveCall
  · exact .of h.tick
  · exact h.next_exec
  · exact h.next_runHart
  · exact .of h.switchDomain
  · exact .of h.checkRetry
  · exact .of h.softError
  · exact .of h.hostOwn
  · exact .of (h.updDie fun _ => Die.learn_sram ..)
  · exact .of h.serveCopy
  · exact .of h.scrubMore
  · exact .of h.bootStep
  · exact .of h.sendFlit
  · exact .of h.replayFlit
  · exact .of h.linkTimer
  · exact .of h.updPart
  · exact .of h.loadImage

/-! ### The schedule -/

/-- Every act of a list keeps the memories in canonical form. -/
def Safe.acts (l : List Act) : Prop := ∀ m ∈ l, ∀ s, Safe.memories s → Safe.next (m s)

theorem Safe.acts.nil : Safe.acts [] := List.forall_mem_nil _

theorem Safe.acts.cons {m : Act} {l : List Act} (hm : ∀ s, Safe.memories s → Safe.next (m s)) (hl : Safe.acts l) : Safe.acts (m :: l) :=
  List.forall_mem_cons.mpr ⟨hm, hl⟩

theorem Safe.acts.append {l r : List Act} (hl : Safe.acts l) (hr : Safe.acts r) : Safe.acts (l ++ r) :=
  List.forall_mem_append.mpr ⟨hl, hr⟩

theorem Safe.acts.map {α : Type} {l : List α} {f : α → Act} (hf : ∀ x s, Safe.memories s → Safe.next (f x s)) : Safe.acts (l.map f) :=
  List.forall_mem_map.mpr fun x _ => hf x

theorem Safe.acts.flatten_map {α : Type} {l : List α} {f : α → List Act} (hf : ∀ x, Safe.acts (f x)) : Safe.acts (l.map f).flatten := by
  intro m hm
  obtain ⟨_, hx, hm⟩ := List.mem_flatten.mp hm
  obtain ⟨x, _, rfl⟩ := List.mem_map.mp hx
  exact hf x m hm

theorem Safe.acts.filterMap {α : Type} {l : List α} {f : α → Option Act}
    (hf : ∀ x, Safe.given (fun m => ∀ s, Safe.memories s → Safe.next (m s)) (f x)) : Safe.acts (l.filterMap f) := by
  intro m hm
  obtain ⟨x, _, hx⟩ := List.mem_filterMap.mp hm
  exact (hf x).of_eq_some hx

theorem Safe.acts.flatten_filterMap {α : Type} {l : List α} {f : α → Option (List Act)} (hf : ∀ x, Safe.given Safe.acts (f x)) :
    Safe.acts (l.filterMap f).flatten := by
  intro m hm
  obtain ⟨_, hx, hm⟩ := List.mem_flatten.mp hm
  obtain ⟨x, _, hx⟩ := List.mem_filterMap.mp hx
  exact (hf x).of_eq_some hx m hm

theorem Safe.acts.ite {p : Prop} [Decidable p] {l r : List Act} (hl : Safe.acts l) (hr : Safe.acts r) : Safe.acts (if p then l else r) :=
    by
  split
  · exact hl
  · exact hr

theorem Safe.acts.coreActs {c : CoreId} : Safe.acts (coreActs c) := by
  unfold Machine.coreActs
  refine .append (.append ?_ (.flatten_map fun b => ?_)) (.flatten_map fun k => ?_)
  · exact .cons (fun _ h => .of h.serveCall) <| .cons (fun _ h => h.next_fpResume) <| .cons (fun _ h => h.next_fpKill) <|
      .cons (fun _ h => h.next_issue) <| .cons (fun _ h => h.next_mmodeEntry) <| .cons (fun _ h => h.next_activationStart) <|
      .cons (fun _ h => h.next_theftAttempt) <| .cons (fun _ h => h.next_refusalRetry) <| .cons (fun _ h => h.next_forcedStop) <|
      .cons (fun _ h => h.next_budgetExhausted) .nil
  · exact .cons (fun _ h => h.next_longResultReturn) <| .cons (fun _ h => h.next_storeBufferDrain) .nil
  · exact .cons (fun _ h => h.next_verificationResolve) <| .cons (fun _ h => h.next_outboxSend) <| .cons (fun _ h => h.next_fpEvent) <|
      .cons (fun _ h => h.next_activationEnd) <| .cons (fun _ h => h.next_safePointStop) <| .cons (fun _ h => h.next_ceilingExpiry) <|
      .cons (fun _ h => h.next_fpNoticeRetry) <| .cons (fun _ h => .of h.wake) .nil

theorem Safe.acts.troupeActs {t : TroupeId} : Safe.acts (troupeActs t) := by
  unfold Machine.troupeActs
  exact .cons (fun _ h => h.next_matrixJobStart) <| .cons (fun _ h => h.next_rowGroupCommit) <| .cons (fun _ h => h.next_mzeroEntryRun) <|
    .cons (fun _ h => h.next_mtblEntryRun) <| .cons (fun _ h => h.next_mstEntryRun) <| .cons (fun _ h => h.next_enginePageFault) <|
    .cons (fun _ h => h.next_enginePageFault) <| .cons (fun _ h => h.next_faultNoticeRetry) <|
    .cons (fun _ h => h.next_faultNoticeRetry) <| .cons (fun _ h => h.next_faultRewalk) <| .cons (fun _ h => h.next_faultRewalk) <|
    .cons (fun _ h => h.next_faultTimeout) <| .cons (fun _ h => h.next_faultTimeout) <| .cons (fun _ h => h.next_copyJobStart) <|
    .cons (fun _ h => h.next_copyJobRetire) <| .cons (fun _ h => h.next_completionRetry) <| .cons (fun _ h => h.next_troupeIdle) .nil

theorem Safe.acts.queueActs {d : DieId} {q : QueueId} : Safe.acts (queueActs d q) := by
  unfold Machine.queueActs
  exact .cons (fun _ h => h.next_packetFetch) <| .cons (fun _ h => h.next_launch) <| .cons (fun _ h => h.next_cond) <|
    .cons (fun _ h => h.next_wait) <| .cons (fun _ h => h.next_waitConditionMet) <| .cons (fun _ h => h.next_signal) <|
    .cons (fun _ h => h.next_queueFence) <| .cons (fun _ h => h.next_queueFenceComplete) <| .cons (fun _ h => h.next_copyHost) <|
    .cons (fun _ h => h.next_regionCreate) <| .cons (fun _ h => h.next_regionKill) <| .cons (fun _ h => h.next_domainCreate) <|
    .cons (fun _ h => h.next_measure) <| .cons (fun _ h => h.next_lock) <| .cons (fun _ h => h.next_start) <|
    .cons (fun _ h => h.next_attest) <| .cons (fun _ h => h.next_teardown) <| .cons (fun _ h => h.next_register) <|
    .cons (fun _ h => h.next_reassign) <| .cons (fun _ h => h.next_trunc) <| .cons (fun _ h => h.next_checkpoint) <|
    .cons (fun _ h => h.next_summary) <| .cons (fun _ h => h.next_peerCopy) <| .cons (fun _ h => h.next_assign) <|
    .cons (fun _ h => h.next_setReplay) <| .cons (fun _ h => h.next_clearReplay) .nil

theorem Safe.acts.dieActs {s : State} {d : DieId} : Safe.acts (s.dieActs d) := by
  unfold State.dieActs
  refine .append (.append (.append ?_ (.flatten_map fun _ => .queueActs)) (.map fun _ _ h => h.next_launchShareComplete))
    (.flatten_map fun _ => ?_)
  · exact .cons (fun _ h => h.next_troupeAdmission) <| .cons (fun _ h => h.next_launchRetry) <|
      .cons (fun _ h => .of (h.updDie fun _ => Die.learn_sram ..)) .nil
  · exact .cons (fun _ h => h.next_cueFlitSend) <| .cons (fun _ h => h.next_cueFlitResend) .nil

theorem Safe.acts.haltActs {s : State} : Safe.acts s.haltActs := by
  unfold State.haltActs
  exact .flatten_map fun _ => .map fun _ _ h => h.next_streamHalt

theorem Safe.acts.linkActs {s : State} : Safe.acts s.linkActs := by
  unfold State.linkActs
  refine .flatten_map fun _ => .ite ?_ ?_
  · exact .cons (fun _ h => .of h.sendFlit) <| .cons (fun _ h => .of h.linkTimer) .nil
  · exact .cons (fun _ h => h.next_linkTrainRetry) .nil

theorem Safe.acts.clusterActs {s : State} : Safe.acts s.clusterActs := by
  unfold State.clusterActs
  refine .flatten_filterMap fun _ => .dite (fun _ => .some ?_) fun _ => .none
  refine .append (.append (.cons (fun _ h => h.next_shootdownComplete) .nil) (.ite ?_ .nil)) (.ite ?_ .nil)
  · exact .cons (fun _ h => h.next_clusterSupplySettled) .nil
  · exact .cons (fun _ h => h.next_clusterWake) .nil

theorem Safe.acts.roundActs {s : State} : Safe.acts s.roundActs := by
  unfold State.roundActs
  refine .append (.append (.append (.append (.append (.append (.append (.append (.append (.append (.append
    (.flatten_map fun _ => .coreActs) .haltActs) ?_) (.flatten_map fun _ => .troupeActs)) (.flatten_map fun _ => .dieActs))
    (.map fun _ _ h => h.next_budgetWindowStart)) .clusterActs) (.filterMap fun _ => ?_)) (.map fun _ _ h => .of h.serveCopy))
    (.map fun _ _ h => h.next_scrubPhaseDone)) .linkActs) ?_
  · exact .cons (fun _ h => h.next_messageArrival) <| .cons (fun _ h => h.next_refusalArrival) <| .cons (fun _ h => h.next_tdecHome) .nil
  · exact .dite (fun _ => .some fun _ h => h.next_vectorFire) fun _ => .none
  · exact .cons (fun _ h => h.next_checkpointQueueTimeout) .nil

theorem Safe.memories.next_clockAct {s : State} (h : Safe.memories s) : Safe.next (clockAct s) := by
  unfold Machine.clockAct
  exact .of h.tick

theorem Safe.memories.next_trainAct {s t : State} (h : Safe.memories t) : Safe.next (s.trainAct t) := by
  unfold State.trainAct
  generalize List.find? (fun k => decide (s.host.hbm[k].passed ≠ 6)) (List.finRange 12) = o
  cases o with
  | none => exact h.next_clockAct
  | some k =>
    dsimp only
    split
    · exact h.next_hbmStepDone
    · exact h.next_hbmStepGo

theorem Safe.memories.next_ownAct {s t : State} (h : Safe.memories t) : Safe.next (s.ownAct.1 t) := by
  unfold State.ownAct
  split
  · dsimp only
    split
    · exact h.next_clockAct
    · exact h.next_coldStart
  · dsimp only
    split
    · exact h.next_clockAct
    · exact .of h.bootStep
  · dsimp only
    split
    · exact h.next_clockAct
    · exact h.next_trainAct
  · exact h.next_memoryClearComplete
  · dsimp only
    split
    · exact h.next_clockAct
    · exact .of h.bootStep
  · split
    · exact Safe.acts.roundActs _ (List.mem_of_getElem? ‹_›) _ h
    · exact h.next_clockAct
  · exact h.next_clockAct

theorem Safe.memories.next_advance {s : State} (h : Safe.memories s) : Safe.next s.advance := by
  unfold State.advance
  split
  · exact h.other.next_act
  · exact Safe.memories.next_ownAct h.other

theorem Safe.memories.next_step {s : State} (h : Safe.memories s) : Safe.next (step s) := h.next_advance

/-- Settles O24: every change of a memory is a write, a clear, a filter or a reset, each of which keeps its canonical form, and every
move of the machine is made of such changes. -/
theorem memoriesKept : Obligations.MemoriesKept := by
  unfold Obligations.MemoriesKept
  intro s s' h e
  have hn := h.next_step
  rw [e] at hn
  exact hn

end Sys2Proof
